-- ==== Sys2Proof/Word.lean ====
section
/-! DEFINITION. The words of the ZQ9600 (spec 00, R2) and the sorted tables the model keeps its state in. -/

namespace Sys2Proof

/-- A byte. -/
abbrev Byte := BitVec 8
/-- A 32-bit register word. -/
abbrev Word := BitVec 32
/-- A 64-bit word: a G register, an instruction word, a time in ns. -/
abbrev DWord := BitVec 64

/-- A table by number: (key, value) pairs with keys strictly rising (`Machine.tget`, `Machine.tset`). -/
abbrev Tab (α : Type) := List (Nat × α)

end Sys2Proof
end

