-- ==== Sys2Proof/Events.lean ====
section
/-! DEFINITION. The values that commands bring from outside the block: what is in flash and on the board at boot, what
a DMA read returned, a frame, a codec's report of a picture (logs 5, 8, 11). -/

namespace Sys2Proof

/-- A firmware image or a patch bundle as it lies in flash or in the load buffer (R456). `keyOk`, `sigOk` and `tagOk`
are the results of the cryptographic checks of R457 and R464 (log 11); `plain` is a bundle's decrypted body (R465). -/
structure Image where
  /-- MAGIC. -/
  magic : Nat
  /-- DEVICE. -/
  device : Nat
  /-- STEPPING. -/
  stepping : Nat
  /-- SVN. -/
  svn : Nat
  /-- VERSION. -/
  version : Word
  /-- LENGTH: body bytes. -/
  length : Nat
  /-- FLAGS. -/
  flags : Nat
  /-- Every reserved byte is 0. -/
  rsvOk : Bool
  /-- The SHA-384 hash of PUBKEY equals the fuses' key hash. -/
  keyOk : Bool
  /-- The ECDSA signature is valid. -/
  sigOk : Bool
  /-- The AES-GCM tag is valid. -/
  tagOk : Bool
  /-- The decrypted body of a bundle. -/
  plain : List Byte
  deriving DecidableEq, Repr

/-- A board configuration record (R458). -/
structure Board where
  /-- MAGIC. -/
  magic : Nat
  /-- DRAM_RATE, as DRC_CFG.RATE. -/
  rate : Nat
  /-- DRAM_DENSITY, as DRC_CFG.DENSITY. -/
  density : Nat
  /-- DRAM_RANKS. -/
  ranks : Nat
  /-- PMBUS_ADDR. -/
  pmbus : Nat
  /-- CEILING in cu. -/
  ceiling : Nat
  /-- FLAGS. -/
  flags : Nat
  /-- Every byte not listed is 0. -/
  restZero : Bool
  /-- The CRC holds. -/
  crcOk : Bool
  deriving DecidableEq, Repr

/-- One result of a self-test: unit of ST_RESULT, RESULT, DETAIL, DURATION. -/
structure TestRes where
  /-- Unit u of ST_RESULT. -/
  unit : Nat
  /-- RESULT. -/
  res : Nat
  /-- DETAIL. -/
  detail : Nat
  /-- DURATION in 10 µs. -/
  dur : Nat
  deriving DecidableEq, Repr

/-- What the boot finds outside the block. -/
structure BootIn where
  /-- BOOT_MODE[1:0]. -/
  mode : Nat := 0
  /-- BAULK_ID[1:0]. -/
  baulkId : Nat := 0
  /-- PV16_DEFAULT. -/
  pv16 : Bool := false
  /-- TEST_N. -/
  testN : Bool := true
  /-- The flash answers SFDP and holds a valid directory (R455). -/
  dirOk : Bool := false
  /-- Firmware copy A. -/
  fwA : Option Image := none
  /-- Firmware copy B. -/
  fwB : Option Image := none
  /-- The board configuration record in flash. -/
  board : Option Board := none
  /-- A regulator answers and VOUT settles (R454). -/
  vrOk : Bool := false
  /-- Every DRAM channel trains at both set points (R454). -/
  dramOk : Bool := false
  /-- The readings of the temperatures of the DRAM channels at training. -/
  dramTemps : List Nat := []
  /-- Start-up self-test results (R468), repairs allocated among them. -/
  tests : List TestRes := []
  /-- Soft repairs allocated at this start (R470). -/
  repairs : Nat := 0
  /-- Bundle copy A. -/
  bunA : Option Image := none
  /-- Bundle copy B. -/
  bunB : Option Image := none
  /-- Ports whose links have trained by step 14: (port, generation, single lane). -/
  links : List (Nat × Nat × Bool) := []
  deriving DecidableEq, Repr

/-- An item put into the load buffer of the boot window (R459). -/
inductive BootItem where
  | image (i : Image)
  | board (b : Board)
  deriving DecidableEq, Repr

/-- Which DMA read of the device failed (R50). -/
inductive ReadBy where
  /-- An outstanding instruction. -/
  | work (n : Nat)
  /-- A program line of a job context. -/
  | line (f c : Nat)
  /-- A group read of an SQ. -/
  | sq (h q : Nat)
  /-- A descriptor of a ring: the fetch or the data. -/
  | ring (r : Nat)
  /-- The host buffer of a PV16 BS_IN, by the context of its internal job. -/
  | pv (f c : Nat)
  deriving DecidableEq, Repr

/-- What the memory and the controller's checkers report of one access (R402 to R405). -/
structure DramIn where
  /-- 0 no error, 1 a corrected error, 2 an uncorrectable one. -/
  err : Nat := 0
  /-- Requester port. -/
  port : Nat := 0
  /-- The channel of the requester. -/
  chan : Option Nat := none
  /-- LPDDR5X command in progress. -/
  cmd : Nat := 0
  /-- Syndrome. -/
  syn : Nat := 0
  deriving DecidableEq, Repr

/-- The header of a Baulk frame (R475, R477). -/
structure BkHdr where
  /-- Destination identifier. -/
  dst : Nat
  /-- Sequence number; of an ACK or NAK, the one it names. -/
  seq : Nat
  deriving DecidableEq, Repr

/-- The buffer header (R207) and the error-region map's head (R234). -/
structure Hdr where
  /-- Its timestamps come from a stream (R194). -/
  ts : Bool := false
  /-- It has a timestamp discontinuity (R195). -/
  disc : Bool := false
  /-- Extended PTS. -/
  pts : DWord := 0
  /-- Extended DTS. -/
  dts : DWord := 0
  /-- COUNTER. -/
  counter : Word := 0
  /-- CODED_W. -/
  cw : Nat := 0
  /-- CODED_H. -/
  ch : Nat := 0
  /-- Display window: WIN_X. -/
  wx : Nat := 0
  /-- WIN_Y. -/
  wy : Nat := 0
  /-- WIN_W. -/
  ww : Nat := 0
  /-- WIN_H. -/
  wh : Nat := 0
  /-- STREAM_DEPTH. -/
  sdepth : Nat := 0
  /-- CHROMA. -/
  chroma : Nat := 0
  /-- STRUCT. -/
  struct_ : Nat := 0
  /-- PTYPE. -/
  ptype : Nat := 0
  /-- PRIMARIES. -/
  prim : Nat := 2
  /-- TRANSFER. -/
  trans : Nat := 2
  /-- MATRIX. -/
  matrix : Nat := 2
  /-- RANGE. -/
  range : Nat := 0
  /-- SAR_W. -/
  sarW : Nat := 1
  /-- SAR_H. -/
  sarH : Nat := 1
  /-- FLAGS: CONCEALED, GLEANED, GRAIN, MV_VALID, DEPTH_SHIFTED, UD_TRUNC. -/
  flags : Nat := 0
  /-- REPEAT. -/
  rep : Nat := 2
  /-- GRAIN_BITS. -/
  grainBits : Nat := 0
  /-- GRAIN. -/
  grain : List Byte := []
  /-- User data records (R211). -/
  user : List Byte := []
  /-- CONC_UNITS. -/
  concUnits : Nat := 0
  /-- CLASSES (R235). -/
  classes : Nat := 0
  /-- WORST. -/
  worst : Nat := 0
  /-- GLEAN_SRC. -/
  gleanSrc : Word := 0xFFFFFFFF
  /-- MFLAGS. -/
  mflags : Nat := 0
  /-- MAP values that are not intact, by unit. -/
  map : Tab Nat := []
  deriving DecidableEq, Repr

/-- A damaged area of a decoded picture (R223, R227, R231): luma samples. -/
structure Damage where
  /-- Left. -/
  x : Nat
  /-- Top. -/
  y : Nat
  /-- Width. -/
  w : Nat
  /-- Height. -/
  h : Nat
  /-- At least 4 of the 8 neighbouring units were decoded with motion. -/
  near4 : Bool
  /-- It was lost when the channel's own output buffer was read back for filtering (R228). -/
  own : Bool := false
  /-- Error classes (R235). -/
  classes : Nat
  deriving DecidableEq, Repr

/-- A picture that the stream refers to and the decoder does not hold (R232). -/
structure Missing where
  /-- Its identity. -/
  id : Nat
  /-- Its position in output order. -/
  order : Int
  /-- The mark it would have had: long-term. -/
  long : Bool
  /-- Samples of its nearest picture projected by that picture's motion field. -/
  proj : List (List (List Nat))
  deriving DecidableEq, Repr

/-- An 8×8 block of an MPEG-2 picture: its dequantised coefficients F[i][k], row by row, and where its samples lie in a stored
plane (R212). -/
structure ResBlk where
  /-- Plane. -/
  plane : Nat
  /-- Column of its first sample. -/
  x : Nat
  /-- Row of its first sample. -/
  y : Nat
  /-- Distance of its columns: 2 in a plane of interleaved chroma. -/
  dx : Nat := 1
  /-- Distance of its rows: 2 with field transforms. -/
  dy : Nat := 1
  /-- The 64 coefficients. -/
  coef : List Int
  deriving DecidableEq, Repr

/-- What the codec found in one picture of the stream, in decode order (log 8). -/
structure DecPic where
  /-- The fields of the header that the stream gives (R207 to R210). -/
  hdr : Hdr := {}
  /-- Its profile is allowed by PROFILE (R197, R516). -/
  profOk : Bool := true
  /-- The stream is above the channel's LEVEL, TIER or pool (R197). -/
  above : Bool := false
  /-- show_existing_frame: the buffer shown. -/
  show_ : Option Nat := none
  /-- The picture is output (R188). -/
  shown : Bool := true
  /-- Position in output order. -/
  order : Int := 0
  /-- no_output_of_prior_pics: pending pictures are discarded (R200). -/
  noPrior : Bool := false
  /-- Reference marks of the pool's buffers after its headers: (buffer, long-term). -/
  marks : List (Nat × Bool) := []
  /-- Its own mark: 0 none, 1 short, 2 long. -/
  mark : Nat := 0
  /-- References that are missing. -/
  missing : List Missing := []
  /-- Buffers it predicts from, the nearest in output order first. -/
  refs : List Nat := []
  /-- References excluded by poison (R228). -/
  excluded : List Nat := []
  /-- Raw PTS. -/
  pts : Option Nat := none
  /-- Raw DTS. -/
  dts : Option Nat := none
  /-- discontinuity_indicator. -/
  disc : Bool := false
  /-- T.35 records in bitstream order: source and payload (R211). -/
  user : List (Nat × List Byte) := []
  /-- Samples at the stream's depth, planes as stored; in damaged areas what step 1 of R231 gives. Of an MPEG-2 picture, the
  prediction (0 in intra blocks). -/
  planes : List (List (List Nat)) := []
  /-- Of an MPEG-2 picture, its coded blocks (R212). -/
  blocks : List ResBlk := []
  /-- Motion field records (R213). -/
  motion : List (List Byte) := []
  /-- Damaged areas. -/
  damage : List Damage := []
  /-- 64×64 units that predict from a substitute. -/
  substUnits : List Nat := []
  /-- Engine and address of an access outside the channel's window (R222). -/
  window : Option (Nat × Nat) := none
  /-- Coded bits of each 64×64 unit (R310). -/
  bits : List Nat := []
  /-- Payload bytes of the input FIFO it took since the last row published. -/
  used : Nat := 0
  deriving DecidableEq, Repr

/-- What a decode reports when its DEC.PIC ends (log 8). -/
structure DecIn where
  /-- The pictures decoded, in decode order. -/
  pics : List DecPic := []
  /-- Bytes of the input FIFO taken besides. -/
  used : Nat := 0
  /-- Missing pictures that arrived late and were discarded (R233). -/
  late : Nat := 0
  /-- Bins and VLC bits decoded. -/
  bins : Nat := 0
  /-- Waits in µs: Yoke, DMA, memory, fallow work (R449). -/
  waits : List Nat := []
  deriving DecidableEq, Repr

/-- What the pre-search finds in one source picture (R244; log 8). -/
structure PreIn where
  /-- Intra SATD of each 16×16 block, raster order. -/
  intra : List Nat := []
  /-- Inter SATD of each block; empty without a previous source picture. -/
  inter : List Nat := []
  /-- 32×32 blocks whose inter cost exceeds their intra cost. -/
  cuts : Nat := 0
  /-- Motion records of stage 2, 8 bytes each (R309). -/
  motion : List (List Byte) := []
  deriving DecidableEq, Repr

/-- What the encoder decides when it begins a picture (R242, R249; log 8). -/
structure EncStart where
  /-- Counter of the picture coded next. -/
  pick : Nat := 0
  /-- It is coded as a B picture. -/
  b : Bool := false
  /-- B depth. -/
  depth : Nat := 0
  /-- Pre-search results of sources that are there by now, by counter. -/
  pre : List (Nat × PreIn) := []
  /-- B pictures planned among the pictures behind it: counter, depth. -/
  plan : List (Nat × Nat) := []
  /-- Pool buffers that keep their SHORT mark. -/
  keep : List Nat := []
  /-- A later picture refers to it. -/
  isRef : Bool := true
  /-- References per block. -/
  nref : Nat := 0
  deriving DecidableEq, Repr

/-- What the engines report when a row ends (R271; log 8). -/
structure RowIn where
  /-- Band. -/
  band : Nat := 0
  /-- Coded bits of each unit of the row. -/
  units : List Nat := []
  /-- Bytes of the stream that the row completes. -/
  data : List Byte := []
  /-- Stuffing after the picture's last row (R266). -/
  stuff : List Byte := []
  /-- Motion records of the row's 16×16 blocks (R309). -/
  motion : List (List Byte) := []
  /-- Bins coded. -/
  bins : Nat := 0
  /-- Probes issued. -/
  probes : Nat := 0
  /-- Candidates dropped for want of a probe (R250). -/
  clipped : Nat := 0
  /-- Window loads after a change of channel (R251). -/
  refills : Nat := 0
  /-- Waits in µs: Yoke, DMA, memory, fallow work (R449). -/
  waits : List Nat := []
  /-- With the picture's last row: the reconstructed samples, or the prediction of MPEG-2, and motion field (R242). -/
  planes : List (List (List Nat)) := []
  /-- Of an MPEG-2 picture, its coded blocks (R212). -/
  blocks : List ResBlk := []
  /-- See `planes`. -/
  field : List (List Byte) := []
  deriving DecidableEq, Repr

/-- What a move of data brings from outside the device (R153, R365, R480; logs 5, 8, 39). -/
structure MoveIn where
  /-- The bytes that host memory, or the exporting device of a remote window, holds over the source's range. -/
  data : List Byte := []
  /-- The exporting device's answer: 0, MEMORY_REMOTE or MEMORY_POISON. -/
  rem : Nat := 0
  /-- The samples that PACK writes for a picture with film grain (R210). -/
  planes : List (List (List Nat)) := []
  deriving DecidableEq, Repr

end Sys2Proof
end

