-- ==== Sys2Proof/Syntax.lean ====
section
/-! DEFINITION. The commands of the block: one constructor per row of the table of operations and events. The
operands are what the command carries from outside the block (logs 1, 5, 8). -/

namespace Sys2Proof

/-- The commands. Operands: `h` holding, `w` the function that writes a BAR2 register, `f c` Field and job context,
`n` outstanding instruction, `p` port, `q` queue, `v` the value written; where a constructor says otherwise, that. -/
inductive Instr where
  /-- POWER_ON_RESET (R509): PORST_N held low for 1 µs or longer resets the whole device, clearing the log, the AON
  tick counter and the DRAM contents. -/
  | powerOnReset (up : Bool)
  /-- BOOT_START (R453): The rising edge of PORST_N samples the straps and runs the boot sequence from step 1. -/
  | bootStart (b : BootIn)
  /-- SYSRST_N (R509): A SYSRST_N low that lasts 25 REFCLK cycles is a warm reset that keeps the straps, the log and
  the DRAM contents, and restarts the boot. -/
  | sysrstN
  /-- POWER_LOSS (R508): A rail leaves its limits while the others stay up; the board must assert PORST_N and repeat
  power-up. -/
  | powerLoss
  /-- BOOT_WINDOW_GO (R459): Writing GO hands the load buffer to the boot, which checks the item against WANT and
  takes it or sets CODE 0x0A. -/
  | bootWindowGo (w : Nat) (v : Word) (item : BootItem) (b : BootIn)
  /-- MP_WATCHDOG (R472): The management processor misses its 100 ms watchdog and restarts its firmware without
  reloading patches. -/
  | mpWatchdog
  /-- FUNCTION_PRESENT (R41): A function comes into existence; the holding becomes ACTIVE or DORMANT and
  HLDT_EVENT.PRESENT sets. -/
  | functionPresent (h : Nat)
  /-- SRIOV_NUMVFS_WRITE (R35): The host changes NumVFs; VFs beyond the new setting undergo the VF disable teardown
  and become ABSENT, and newly enabled VFs appear. -/
  | sriovNumvfsWrite (p : Nat) (n : Nat)
  /-- FUNCTION_LEVEL_RESET (R35): A PCIe FLR starts the abrupt teardown of the function's holding, which keeps its
  ENABLE. -/
  | functionLevelReset (h : Nat)
  /-- D3HOT_TO_D0 (R48): A function that goes from D3hot to D0 undergoes the Function Level Reset teardown. -/
  | d3hotToD0 (h : Nat)
  /-- D0_TO_D3HOT (R48): A function enters D3hot; memory requests to its BARs then receive Unsupported Request. -/
  | d0ToD3hot (h : Nat)
  /-- TEARDOWN_PICTURE_CUTOFF (R36): At 60 ms into an abrupt teardown a picture still running is stopped at its next
  CTU row boundary and its engines are reset. -/
  | teardownPictureCutoff (h : Nat)
  /-- TEARDOWN_COMPLETE (R36): The abrupt teardown reaches its end state, sets RESET_DONE and raises source 1280 + h.
  -/
  | teardownComplete (h : Nat)
  /-- HOLDING_ENABLE (R32): A write of HLDT_CTRL.ENABLE = 1 takes PERS, checks the quota sums and reserves quotas,
  and for PV16 reserves 16 channels. -/
  | holdingEnable (w : Nat) (h : Nat) (pers : Bool)
  /-- HOLDING_DISABLE (R35): A write of HLDT_CTRL.ENABLE = 0 cancels the holding's work, closes its channels and
  leaves it DORMANT. -/
  | holdingDisable (w : Nat) (h : Nat) (pers : Bool)
  /-- QUOTA_WRITE (R32): A write to a holding's quota field is accepted only if the sums of R31 still hold, and
  otherwise LAST_REFUSE records the reason. -/
  | quotaWrite (w : Nat) (h : Nat) (reg : Nat) (v : Word)
  /-- HEARTBEAT (R24): Writing HEARTBEAT renews the administrative lease if the writer has the role. -/
  | heartbeat (w : Nat)
  /-- PROMOTE (R25): Writing PROMOTE requests the administrative role; it is tested in order and accepted or refused
  with a RESULT code. -/
  | promote (w : Nat)
  /-- HANDOVER (R26): Writing HANDOVER passes the administrative role to the other PF if that PF is native and
  ACTIVE. -/
  | handover (w : Nat)
  /-- ADM_LEASE_EXPIRY (R24): No heartbeat for ADM_LEASE_MS makes the administrative role vacant and sets VACANT. -/
  | admLeaseExpiry
  /-- HOST_LINK_TRAIN (R44): A USB4 port trains to the highest common rate up to MAX_GEN and sets DEGRADED if it
  trains lower than before. -/
  | hostLinkTrain (p : Nat) (gen : Nat) (single : Bool)
  /-- HOST_LINK_LOSS (R45): The tunnel path is deactivated or the link stays out of CL states for 10 ms; the holdings
  of the port undergo link-loss teardown. -/
  | hostLinkLoss (p : Nat)
  /-- HOST_LINK_RECOVER (R45): A link that recovers within 10 ms resumes the DMA requests and posted writes that
  waited for it. -/
  | hostLinkRecover (p : Nat)
  /-- CLX_ENTRY_REQUEST (R46): The connection manager asks for CL0s, CL1 or CL2, which the device accepts when
  enabled and idle. -/
  | clxEntryRequest (p : Nat) (dest : Nat) (en : BitVec 3) (idle : Bool)
  /-- HOST_PORT_RETRAIN (R44): Writing HOSTP_CTRL.RETRAIN retrains the link, which counts as a link loss if it lasts
  over 10 ms. -/
  | hostPortRetrain (w : Nat) (p : Nat)
  /-- PCIE_UNSUPPORTED_REQUEST (R49): An I/O request, AtomicOp, locked read or BAR configuration request is answered
  with Unsupported Request. -/
  | pcieUnsupportedRequest (h : Nat)
  /-- DMA_READ_TIMEOUT (R50): A DMA read without a completion for 50 ms fails its issuer with MEMORY_HOST_ABORT and
  writes a log entry. -/
  | dmaReadTimeout (r : ReadBy)
  /-- DMA_READ_ERROR_COMPLETION (R50): A DMA read answered with Unsupported Request or Completer Abort fails its
  issuer with MEMORY_HOST_ABORT. -/
  | dmaReadErrorCompletion (r : ReadBy)
  /-- BAR2_DENIED_ACCESS (R52): A BAR2 access from a PF without the role reads 0 or is ignored, and is counted in
  HOSTP_BAR2_DENIED. -/
  | bar2DeniedAccess (h : Nat) (wr : Bool)
  /-- PARTIAL_DWORD_WRITE (R53): A write whose byte enables do not cover a whole dword is ignored for that dword and
  counted. -/
  | partialDwordWrite (h : Nat)
  /-- REG64_LO_READ (R55): A read of a _LO register returns bits [31:0] and latches bits [63:32] for the function. -/
  | reg64LoRead (h : Nat) (bar : Nat) (off : Nat)
  /-- REG64_ATOMIC_ACCESS (R56): An 8-byte access aligned to _LO reads or writes both halves in one sample or update.
  -/
  | reg64AtomicAccess (h : Nat) (bar : Nat) (off : Nat) (wr : Option DWord)
  /-- REG64_LO_WRITE (R57): A 4-byte write to the _LO of a read-write 64-bit register is held without effect. -/
  | reg64LoWrite (h : Nat) (bar : Nat) (off : Nat) (v : Word)
  /-- REG64_HI_WRITE (R57): A 4-byte write to _HI commits the whole register from the held low word, or from the
  current low word. -/
  | reg64HiWrite (h : Nat) (bar : Nat) (off : Nat) (v : Word)
  /-- REGISTER_WRITE (R4): A write to a register that has no row of its own takes effect under its access code. -/
  | registerWrite (h : Nat) (bar : Nat) (off : Nat) (v : Word)
  /-- COUNTER_SAT_CLEAR (R445): Writing 1 to a SAT bit clears SAT and every field of its counter register. -/
  | counterSatClear (h : Nat) (bar : Nat) (off : Nat)
  /-- JOB_PLACE (R67): The device takes a job's first entry, places it on a Field and takes a context, or stops the
  queue until a context frees. -/
  | jobPlace (h : Nat) (q : Nat)
  /-- ISSUE_STARVATION_OVERRIDE (R78): A context ready for 1024 cycles without issuing takes the next issue cycle
  whatever its priority. -/
  | issueStarvationOverride (f : Nat) (c : Nat)
  /-- PROGRAM_LINE_FETCH (R64): A 256-byte program cache line fetch completes, or fails with MEMORY_HOST_ABORT, and
  the waiting context proceeds. -/
  | programLineFetch (f : Nat) (c : Nat) (line : List DWord)
  /-- JOB_FINAL_COMPLETION (R87): Once every issued instruction has completed, the Drill fences to host scope, writes
  the FINAL completion and frees the context. -/
  | jobFinalCompletion (f : Nat) (c : Nat)
  /-- JOB_FIELD_MOVE (R39): A job on a disabled Field moves to another Field at its next picture boundary. -/
  | jobFieldMove (f : Nat) (c : Nat)
  /-- CHANNEL_HOME_MOVE (R68): At a picture boundary the channel's state is written to DRAM and read back on the new
  home Field. -/
  | channelHomeMove (c : Nat) (us : Nat)
  /-- NOP (R96): Does nothing. -/
  | nop (f : Nat) (c : Nat)
  /-- BR (R97): Branches if the condition on the flags holds. -/
  | br (f : Nat) (c : Nat)
  /-- CALL (R96): Pushes the return offset and branches, faulting on a full return stack. -/
  | call (f : Nat) (c : Nat)
  /-- RET (R96): Pops a word offset and branches to it, faulting on an empty stack. -/
  | ret (f : Nat) (c : Nat)
  /-- END (R83): Ends the job with status Ga[15:0] or OK. -/
  | end_ (f : Nat) (c : Nat)
  /-- SLEEP (R96): Waits until the DTB reaches a time or a relative time has passed. -/
  | sleep (f : Nat) (c : Nat)
  /-- SLEEP_WAKE (R96): The SLEEP time is reached and the context proceeds. -/
  | sleepWake (f : Nat) (c : Nat)
  /-- ADD (R98): D gets A + B modulo 2^64, with flags. -/
  | add (f : Nat) (c : Nat)
  /-- SUB (R98): D gets A − B modulo 2^64, with flags. -/
  | sub (f : Nat) (c : Nat)
  /-- MUL (R98): D gets the low 64 bits of A × B, with flags. -/
  | mul (f : Nat) (c : Nat)
  /-- AND (R98): D gets A AND B. -/
  | and (f : Nat) (c : Nat)
  /-- OR (R98): D gets A OR B. -/
  | or (f : Nat) (c : Nat)
  /-- XOR (R98): D gets A XOR B. -/
  | xor (f : Nat) (c : Nat)
  /-- SHL (R98): D gets A shifted left. -/
  | shl (f : Nat) (c : Nat)
  /-- SHR (R98): D gets A shifted right with zero fill. -/
  | shr (f : Nat) (c : Nat)
  /-- SAR (R98): D gets A shifted right with sign fill. -/
  | sar (f : Nat) (c : Nat)
  /-- CMP (R98): Sets the flags from A − B. -/
  | cmp (f : Nat) (c : Nat)
  /-- MOV (R99): Moves a register or a sign-extended immediate between register files. -/
  | mov (f : Nat) (c : Nat)
  /-- MOVX (R99): Loads a 64-bit extra word into a G register. -/
  | movx (f : Nat) (c : Nat)
  /-- LD (R100): Issues an aligned load of a word from device or host memory into a G register. -/
  | ld (f : Nat) (c : Nat)
  /-- LD_COMPLETE (R100): The loaded word arrives in its G register, or a host read failure ends the job. -/
  | ldComplete (n : Nat) (v : DWord)
  /-- ST (R100): Posts an aligned store of a word to device or host memory. -/
  | st (f : Nat) (c : Nat)
  /-- FENCE (R101): Waits for the named classes of earlier instructions to complete and become visible at the scope.
  -/
  | fence (f : Nat) (c : Nat)
  /-- FENCE_COMPLETE (R101): The fenced effects are visible at the scope and the context proceeds. -/
  | fenceComplete (f : Nat) (c : Nat)
  /-- BARRIER (R102): Counts an arrival and releases every participant when the count is reached. -/
  | barrier (f : Nat) (c : Nat)
  /-- BARRIER_TIMEOUT (R104): A BARRIER timeout withdraws the arrival and sets T and WAIT_TIMEOUT, or ends the job
  with X. -/
  | barrierTimeout (f : Nat) (c : Nat)
  /-- SIGNAL (R103): Adds n to a semaphore, saturating, and releases waiters in arrival order. -/
  | signal (f : Nat) (c : Nat)
  /-- WAIT (R102): Waits until a semaphore count is at least n and then subtracts n. -/
  | wait (f : Nat) (c : Nat)
  /-- WAIT_TIMEOUT (R104): A WAIT timeout takes nothing and sets T and WAIT_TIMEOUT, or ends the job with X. -/
  | waitTimeout (f : Nat) (c : Nat)
  /-- POST (R105): Writes a non-final completion to the job's CQ, fenced first with F. -/
  | post (f : Nat) (c : Nat)
  /-- IRQ (R105): Sets the channel's USER event and raises source 1024 + c, fenced first with F. -/
  | irq (f : Nat) (c : Nat)
  /-- SOPEN (R106): Creates a channel from its channel block, with quota, pool, lookahead and FIFO. -/
  | sopen (f : Nat) (c : Nat)
  /-- SOPEN_GROUP (R285): Creates a ladder group. -/
  | sopenGroup (f : Nat) (c : Nat)
  /-- SOPEN_MUX (R277): Creates a statistical multiplex group with its total rate. -/
  | sopenMux (f : Nat) (c : Nat)
  /-- SOPEN_SEM (R106): Creates a semaphore with an initial count. -/
  | sopenSem (f : Nat) (c : Nat)
  /-- SOPEN_BAR (R106): Creates a barrier with a participant count. -/
  | sopenBar (f : Nat) (c : Nat)
  /-- SCLOSE (R109): Invalidates a handle and closes its object, draining issued work. -/
  | sclose (f : Nat) (c : Nat)
  /-- CHANNEL_DRAIN_COMPLETE (R174): The last issued instruction of a DRAINING channel ends, its storage is freed and
  it becomes CLOSED. -/
  | channelDrainComplete (c : Nat)
  /-- SPARAM (R260): Sets a rate-control or scaling parameter of a channel or buffer. -/
  | sparam (f : Nat) (c : Nat)
  /-- SPARAM_GET (R108): Reads a parameter into D. -/
  | sparamGet (f : Nat) (c : Nat)
  /-- SPARAM_HOME (R111): Requests a channel's home move to a Field at its next picture boundary. -/
  | sparamHome (f : Nat) (c : Nat)
  /-- SPARAM_BITRATE (R264): Sets BITRATE or MAXRATE within range, effective from the next picture budgeted. -/
  | sparamBitrate (f : Nat) (c : Nat)
  /-- SPARAM_FORCE_IDR (R111): Requests or cancels an IDR at the next picture, on every rung of a group. -/
  | sparamForceIdr (f : Nat) (c : Nat)
  /-- SPARAM_RUNG (R111): Adds an encode channel as rung n of a ladder group. -/
  | sparamRung (f : Nat) (c : Nat)
  /-- SPARAM_MUX_MEMBER (R277): Admits a channel with RC_MODE 5 into a multiplex group. -/
  | sparamMuxMember (f : Nat) (c : Nat)
  /-- SPARAM_MUX_RATE (R279): Sets a multiplex group's total rate, effective at the next tick. -/
  | sparamMuxRate (f : Nat) (c : Nat)
  /-- SPARAM_LADDER_DEPTH (R299): Sets a ladder group's lookahead slots to 20-bit depth. -/
  | sparamLadderDepth (f : Nat) (c : Nat)
  /-- SPARAM_BUF_FORMAT (R298): Sets a plain buffer's width, height, chroma or depth, which makes it a picture. -/
  | sparamBufFormat (f : Nat) (c : Nat)
  /-- PALLOC (R108): Takes a picture from the channel's pool. -/
  | palloc (f : Nat) (c : Nat)
  /-- PALLOC_B (R108): Allocates a plain buffer from the holding's DRAM quota. -/
  | pallocB (f : Nat) (c : Nat) (at_ : Nat)
  /-- PFREE (R108): Drops the job's claim on a picture or buffer. -/
  | pfree (f : Nat) (c : Nat)
  /-- PMARK_HOLD (R187): Sets the HELD pin of a pool buffer unless it would leave too few unpinned buffers. -/
  | pmarkHold (f : Nat) (c : Nat)
  /-- PMARK_UNHOLD (R187): Clears the HELD pin of a buffer. -/
  | pmarkUnhold (f : Nat) (c : Nat)
  /-- PLTR_SET (R110): The next ENC.PIC stores its picture as the long-term reference in the slot. -/
  | pltrSet (f : Nat) (c : Nat)
  /-- PLTR_ACK (R110): Marks the slot that holds a picture as acknowledged, or writes OK_LTR_STALE. -/
  | pltrAck (f : Nat) (c : Nat)
  /-- PLTR_LOSS (R191): The next ENC.PIC predicts only from the newest acknowledged slot, or becomes an IDR. -/
  | pltrLoss (f : Nat) (c : Nat)
  /-- PLTR_DROP (R110): Empties a long-term slot. -/
  | pltrDrop (f : Nat) (c : Nat)
  /-- DEC_PIC (R200): Issues a decode of pictures until the next picture in output order can be returned. -/
  | decPic (f : Nat) (c : Nat)
  /-- DEC_ROW_PUBLISH (R201): A decoded row is finished in every plane and is published to readers of the ROWS
  handle. -/
  | decRowPublish (n : Nat) (rows : Nat) (used : Nat) (bad : Bool)
  /-- DEC_PIC_COMPLETE (R200): DEC.PIC returns its picture and writes its status word. -/
  | decPicComplete (n : Nat) (r : DecIn)
  /-- DECODE_CEILING_REACHED (R221): The charged cycles reach the cycle ceiling; parsing stops and the rest of the
  picture is concealed. -/
  | decodeCeilingReached (n : Nat) (cyc : Nat)
  /-- DECODE_DEADLINE_EXPIRY (R225): The arrival deadline expires, and DEC.PIC ends the picture, returns a pending or
  repeated picture, or ends with STREAM_NO_DATA. -/
  | decodeDeadlineExpiry (n : Nat) (r : DecIn)
  /-- SPAN_GRANT_TIMEOUT (R205): A span Field without a grant 100 µs after the start of a picture is left out of that
  picture. -/
  | spanGrantTimeout (c : Nat) (f : Nat)
  /-- ENC_PIC (R240): Issues an encode of a source picture into the channel's output FIFO, through the lookahead. -/
  | encPic (f : Nat) (c : Nat)
  /-- ENC_PICTURE_START (R267): A picture's first CTU row can be coded; it is budgeted and its time budget starts. -/
  | encPictureStart (c : Nat) (e : EncStart)
  /-- ENC_ROW_CODED (R271): A CTU row finishes coding, and rate control applies reserve, ceiling, retry or stubble
  and commits the previous row. -/
  | encRowCoded (c : Nat) (r : RowIn)
  /-- ENC_TIME_BUDGET_EXPIRY (R267): The picture's time budget ends, ending cell or pool waits with RESOURCE_GRANARY
  or RESOURCE_POOL. -/
  | encTimeBudgetExpiry (c : Nat)
  /-- ENC_PIC_COMPLETE (R240): The released picture is committed and ENC.PIC writes its status word. -/
  | encPicComplete (n : Nat) (q : PreIn)
  /-- ENC_LADDER (R289): Issues an encode of a source picture into every rung of a ladder group. -/
  | encLadder (f : Nat) (c : Nat)
  /-- ENC_LADDER_COMPLETE (R290): Every rung has committed or ended and ENC.LADDER writes its status word. -/
  | encLadderComplete (n : Nat) (q : PreIn)
  /-- ANALYZE (R246): Issues the pre-search and complexity analysis of a picture without coding it. -/
  | analyze (f : Nat) (c : Nat)
  /-- ANALYZE_COMPLETE (R246): The analysis ends and its status word carries the scene-change score. -/
  | analyzeComplete (n : Nat) (q : PreIn)
  /-- SCALE (R296): Issues a resampling of a picture to the destination geometry. -/
  | scale (f : Nat) (c : Nat)
  /-- SCALE_COMPLETE (R297): The scaled picture is complete and its status is written. -/
  | scaleComplete (n : Nat)
  /-- CONVERT (R301): Issues a conversion of depth, chroma format, transfer and primaries. -/
  | convert (f : Nat) (c : Nat)
  /-- CONVERT_COMPLETE (R301): The converted picture is complete and its status is written. -/
  | convertComplete (n : Nat)
  /-- STATS (R305): Issues a copy of a channel's analysis records to a buffer. -/
  | stats (f : Nat) (c : Nat)
  /-- STATS_COMPLETE (R306): The records are written, truncated if needed, and the status carries the bytes written.
  -/
  | statsComplete (n : Nat)
  /-- XFER (R115): Issues a DMA copy of len bytes. -/
  | xfer (f : Nat) (c : Nat)
  /-- FILL (R115): Issues a DMA fill of len bytes with a pattern. -/
  | fill (f : Nat) (c : Nat)
  /-- PACK (R181): Issues a copy of a picture out to packed-linear layout. -/
  | pack (f : Nat) (c : Nat)
  /-- PACK_IN (R181): Issues a copy of a packed-linear picture into a picture. -/
  | packIn (f : Nat) (c : Nat)
  /-- DMA_MOVE_COMPLETE (R153): An XFER, FILL or PACK finishes its data, and with BF its flushing read, and writes
  its status. -/
  | dmaMoveComplete (n : Nat) (m : MoveIn)
  /-- INGEST_BIND (R340): Binds an ingest flow to a channel by installing T1 and T2 entries. -/
  | ingestBind (f : Nat) (c : Nat)
  /-- EGRESS_BIND (R372): Creates an egress flow from a channel's output FIFO into a service. -/
  | egressBind (f : Nat) (c : Nat)
  /-- CLAIM (R90): Changes the job's current class, waiting for an extra grant when raising it. -/
  | claim (f : Nat) (c : Nat)
  /-- CLAIM_TIMEOUT (R116): A CLAIM timeout sets T and WAIT_TIMEOUT, or ends the job with X. -/
  | claimTimeout (f : Nat) (c : Nat)
  /-- RELEASE (R116): Waits for the job's engine work and returns the grant of its class. -/
  | release (f : Nat) (c : Nat)
  /-- QUERY (R116): Returns the selected device, channel or holding value into Gd. -/
  | query (f : Nat) (c : Nat)
  /-- YOKE_TIMEOUT (R92): A job's yoke timeout expires without a grant and the job ends with RESOURCE_YOKE_TIMEOUT.
  -/
  | yokeTimeout (f : Nat) (c : Nat)
  /-- SQ_DOORBELL (R130): A DB_SQ_PI write is checked and accepted as the new producer index, or counted in
  DB_INVALID. -/
  | sqDoorbell (h : Nat) (q : Nat) (v : Word)
  /-- CQ_DOORBELL (R137): A DB_CQ_CI write is checked, frees ring slots and moves hold entries into the ring,
  resuming dispatch at 48. -/
  | cqDoorbell (h : Nat) (q : Nat) (v : Word)
  /-- SQ_ENTRY_TAKE (R133): A group read of SQ entries returns and each entry is taken as a job, continuation, orphan
  or admin command. -/
  | sqEntryTake (h : Nat) (q : Nat) (es : List (List DWord))
  /-- SQ_PHASE_RETRY (R134): Every 2 µs an entry with the wrong PHASE is read again and counted. -/
  | sqPhaseRetry (h : Nat) (q : Nat) (e : List DWord)
  /-- SQ_READ_FAIL (R518): A failed SQ entry read logs HOST_ABORT and stops the SQ at its consumer index. -/
  | sqReadFail (h : Nat) (q : Nat)
  /-- SQ_IDLE (R145): A disabled SQ has no job holding a context and no completion in the hold, and IDLE sets. -/
  | sqIdle (h : Nat) (q : Nat)
  /-- ADMQ_ENABLE (R141): Raising ADMQ_CTRL.ENABLE creates the admin queue pair and sets its CQ source TARGET. -/
  | admqEnable (h : Nat) (v : Word)
  /-- ADMQ_DISABLE (R141): Clearing ADMQ_CTRL.ENABLE drains the admin SQ and frees its numbers when IDLE sets. -/
  | admqDisable (h : Nat) (v : Word)
  /-- CREATE_CQ (R143): Creates a CQ and routes its interrupt source. -/
  | createCq (h : Nat)
  /-- CREATE_SQ (R143): Creates an SQ bound to an existing CQ. -/
  | createSq (h : Nat)
  /-- DELETE_SQ (R143): Deletes an idle disabled SQ. -/
  | deleteSq (h : Nat)
  /-- DELETE_CQ (R143): Deletes a CQ with no bound SQ and an empty hold. -/
  | deleteCq (h : Nat)
  /-- SET_SQ_ENABLE (R143): Enables an SQ, which resumes at its consumer index. -/
  | setSqEnable (h : Nat)
  /-- SET_SQ_DISABLE (R145): Disables an SQ, cancels an open sheaf, and completes when the SQ is idle. -/
  | setSqDisable (h : Nat)
  /-- GET_QUEUE_STATUS (R144): Writes a queue's 32-byte status record and optionally clears its counters. -/
  | getQueueStatus (h : Nat)
  /-- IGF_CLAIM (R162): A read returns the highest-priority deliverable source of the vector and makes it ACTIVE, or
  returns 2047. -/
  | igfClaim (h : Nat) (v : Nat)
  /-- IGF_COMPLETE (R163): A write clears ACTIVE of an owned source and sends another message if the vector still has
  a deliverable source. -/
  | igfComplete (h : Nat) (vec : Nat) (v : Word)
  /-- IGF_MASK_SET (R166): Masks one source of this holding. -/
  | igfMaskSet (h : Nat) (v : Word)
  /-- IGF_MASK_CLR (R166): Unmasks one source of this holding. -/
  | igfMaskClr (h : Nat) (v : Word)
  /-- IGF_PEND_SET (R166): Makes one source PENDING at once. -/
  | igfPendSet (h : Nat) (v : Word)
  /-- IGF_PEND_CLR (R166): Clears PENDING and the event counter of one source. -/
  | igfPendClr (h : Nat) (v : Word)
  /-- IGF_COAL_WRITE (R160): Sets the coalescing count and time of the selected owned source, or is refused and
  counted. -/
  | igfCoalWrite (h : Nat) (v : Word)
  /-- IGF_ROUTE_WRITE (R158): Sets the vector and priority of the selected owned source, or is refused and counted.
  -/
  | igfRouteWrite (h : Nat) (v : Word)
  /-- IG_TARGET_WRITE (R165): The admin holding rewrites a source's TARGET; an ACTIVE source leaves ACTIVE and is
  redelivered at the new target. -/
  | igTargetWrite (w : Nat) (n : Nat) (v : Word)
  /-- COALESCE_TIMER_EXPIRY (R160): The coalescing time is reached and the source becomes PENDING. -/
  | coalesceTimerExpiry (n : Nat)
  /-- MSIX_MASK_RELEASE (R161): A PCIe vector or function mask is released or D3hot left, and the held message is
  sent if a source is deliverable. -/
  | msixMaskRelease (h : Nat) (v : Nat)
  /-- CHN_BYHANDLE (R167): A write of a channel handle selects its channel in CHN_SEL or sets NONE. -/
  | chnByhandle (h : Nat) (v : Word)
  /-- FIELD_ENABLE (R217): Writing FLD_CTRL.ENABLE = 1 makes the Field take work, ending any drain. -/
  | fieldEnable (w : Nat) (f : Nat)
  /-- FIELD_DISABLE (R39): Writing FLD_CTRL.ENABLE = 0 makes the Field take no new pictures and drain. -/
  | fieldDisable (w : Nat) (f : Nat)
  /-- FIELD_DRAIN_DONE (R39): A draining Field finishes its pictures, enters FS4 and sets DRAIN_DONE. -/
  | fieldDrainDone (f : Nat)
  /-- MUX_RATE_TICK (R278): Once per picture period the multiplex group assigns rates to its members. -/
  | muxRateTick (m : Nat)
  /-- NET_PORT_ENABLE (R314): Setting ING_PORT_CTRL.ENABLE starts the port receiving. -/
  | netPortEnable (w : Nat) (p : Nat)
  /-- NET_PORT_DISABLE (R318): Clearing ING_PORT_CTRL.ENABLE takes the link down and makes the bound flows
  source-lost. -/
  | netPortDisable (w : Nat) (p : Nat)
  /-- ING_QUAD_MODE_WRITE (R314): Sets a quad's lane mode, ignored unless every port of the quad is disabled. -/
  | ingQuadModeWrite (w : Nat) (q : Nat) (v : Word)
  /-- NET_LINK_LOSS (R318): Lock lost for 1 ms sets LINK_DOWN and makes the bound flows and channels source-lost with
  gap markers. -/
  | netLinkLoss (p : Nat)
  /-- NET_LINK_UP (R318): After 10 ms of continuous lock the link returns and LINK_UP sets. -/
  | netLinkUp (p : Nat)
  /-- INGEST_FRAME_RECEIVE (R316): A MAC receives a frame, checks it, stamps START and ARRIVE and buffers it, or
  drops it. -/
  | ingestFrameReceive (p : Nat) (bad : Bool) (data : List Byte) (start : DWord)
  /-- INGEST_FRAME_CLASSIFY (R328): Ingest takes a frame from the port buffer, walks the parse graph, looks up T0 to
  T3 and delivers, drops or excepts it. -/
  | ingestFrameClassify (p : Nat)
  /-- REORDER_HOLE_TIMEOUT (R336): The oldest held packet has waited REORDER_US, so the hole at E is declared lost
  with a gap marker. -/
  | reorderHoleTimeout (t : Nat)
  /-- PATH_DOWN_TIMEOUT (R337): A path that has delivered no packet for 20 ms shows as down. -/
  | pathDownTimeout (t : Nat) (pth : Nat)
  /-- EXC_TOKEN_REFILL (R330): A holding's exception bucket gains one token at its interval. -/
  | excTokenRefill (h : Nat)
  /-- ING_PAUSE_SET (R334): Writing 1 to a bit of ING_PAUSE.PORTS pauses that port. -/
  | ingPauseSet (w : Nat) (p : Nat)
  /-- ING_PAUSE_IN_FORCE (R334): The pause is in force and PAUSED shows it. -/
  | ingPauseInForce (p : Nat)
  /-- ING_PAUSE_CLEAR (R334): Writing 0 to a bit of ING_PAUSE.PORTS ends that port's pause. -/
  | ingPauseClear (w : Nat) (p : Nat)
  /-- ING_PAUSE_EXPIRY (R334): After 100 µs a pause ends and PAUSE_EXPIRED sets. -/
  | ingPauseExpiry (p : Nat)
  /-- ING_TABLE_WRITE (R333): A write to a parse node, transition, T0 or T3 entry takes effect only while the
  affected ports are paused. -/
  | ingTableWrite (w : Nat) (off : Nat) (v : Word)
  /-- METER_COMMIT (R332): A write of a meter's word at +0xC commits all four words, unless PIR is below CIR. -/
  | meterCommit (w : Nat) (m : Nat) (v : Word)
  /-- ING_TBL_READ (R325): An ING_TBL_CMD READ returns a T1 or T2 entry. -/
  | ingTblRead (w : Nat) (v : Word)
  /-- ING_TBL_INSERT (R325): An ING_TBL_CMD INSERT places a T1 or T2 entry. -/
  | ingTblInsert (w : Nat) (v : Word)
  /-- ING_TBL_DELETE (R325): An ING_TBL_CMD DELETE removes a T1 or T2 entry. -/
  | ingTblDelete (w : Nat) (v : Word)
  /-- ING_TBL_CMD_COMPLETE (R325): A table command finishes within 2 µs, BUSY clears and RESULT is set. -/
  | ingTblCmdComplete
  /-- GRN_SPILL_WRITE (R344): Sets the Granary spill region if every spill cell is free and the sums hold, or sets
  SPILL_REFUSED. -/
  | grnSpillWrite (w : Nat) (v : Word)
  /-- GRANARY_WAIT_RESUME (R12): A cell becomes free to a waiting Entropy Engine or DMA descriptor, which resumes. -/
  | granaryWaitResume (ring : Bool) (n : Nat)
  /-- RXR_ENABLE (R358): Raising RXR_CTRL.ENABLE starts a receive ring with both indices at 0. -/
  | rxrEnable (h : Nat) (r : Nat)
  /-- RXR_CI_WRITE (R369): A receive-ring consumer index write is accepted under the CQ test or ignored. -/
  | rxrCiWrite (h : Nat) (r : Nat) (v : Word)
  /-- DMA_RING_OWNER_WRITE (R363): Assigns a descriptor ring to a holding while the ring is disabled. -/
  | dmaRingOwnerWrite (w : Nat) (r : Nat) (v : Word)
  /-- DMAR_ENABLE (R366): Raising DMAR_CTRL.ENABLE sets HEAD to 0 and starts the ring. -/
  | dmarEnable (h : Nat) (r : Nat)
  /-- DMAR_DISABLE (R367): Clearing DMAR_CTRL.ENABLE stops the ring after its current descriptor. -/
  | dmarDisable (h : Nat) (r : Nat)
  /-- DMAR_POKE (R366): A poke starts an idle ring at HEAD, or sets the poke latch of a running one. -/
  | dmarPoke (h : Nat) (r : Nat)
  /-- DMA_DESCRIPTOR_FETCH (R366): A descriptor read returns; with OWN set it is run, otherwise the ring goes idle
  unless the latch is set. -/
  | dmaDescriptorFetch (r : Nat) (d : List Word)
  /-- DMA_DESCRIPTOR_DONE (R365): A descriptor finishes and writes DONE and STATUS, clears OWN and posts a completion
  with IRQ. -/
  | dmaDescriptorDone (r : Nat) (m : MoveIn)
  /-- DMA_STARVATION_TURN (R361): A DMA channel that has waited 100 µs takes the next 4096-byte turn at any priority.
  -/
  | dmaStarvationTurn (ch : Nat)
  /-- EGRESS_ITEM_TAKE (R380): Egress takes a committed FIFO item when every flow has room and packetises it into PES
  and TS packets. -/
  | egressItemTake (c : Nat)
  /-- EGRESS_FRAME_START (R382): When a port can start a frame, the shaper chooses a datagram by service, class and
  flow, stamps PCRs and charges the buckets. -/
  | egressFrameStart (p : Nat)
  /-- DATAGRAM_HOLD_EXPIRY (R379): HOLD_US passes since a datagram's first packet and the datagram closes. -/
  | datagramHoldExpiry (e : Nat)
  /-- PCR_INTERVAL_EXPIRY (R377): A PCR falls due and egress inserts an adaptation-only packet if no PCR_PID packet
  is ready. -/
  | pcrIntervalExpiry (e : Nat)
  /-- PSI_REPEAT_DUE (R375): A PSI template repetition falls due and its sections are read and packed. -/
  | psiRepeatDue (e : Nat) (t : Nat)
  /-- EGF_PI_WRITE (R374): A host advances a feed ring's byte count and egress takes complete records or flags
  FEED_ERR. -/
  | egfPiWrite (h : Nat) (slot : Nat) (v : Word)
  /-- EGRESS_DEPTH_SAMPLE (R383): Every 100 µs egress samples each flow's queued bytes when sampling is on. -/
  | egressDepthSample
  /-- EGR_OBS_CLR (R383): A write clears a flow's high-water marks. -/
  | egrObsClr (w : Nat) (v : Word)
  /-- DRAM_READ_RETURN (R403): A DRAM read returns, corrected, or poisoned in a DATA granule, or freezing the
  controller in a CRITICAL granule. -/
  | dramReadReturn (a : Nat) (r : DramIn)
  /-- COMMAND_CHECK_ERROR (R404): The command checker finds a mismatch, which freezes the controller or poisons a
  DATA burst. -/
  | commandCheckError (a : Option Nat) (ch : Nat) (r : DramIn)
  /-- REFRESH_DUE (R396): A refresh interval passes, a bank owes one more refresh, and forced or all-bank refresh
  follows. -/
  | refreshDue (ch : Nat) (rk : Nat) (banks : List Nat) (busy : List Nat)
  /-- MR4_POLL (R396): Every 1 ms the controller reads mode register 4 to set the refresh rate. -/
  | mr4Poll (ch : Nat) (rk : Nat) (v : Nat)
  /-- RANK_POWER_DOWN (R397): A rank idle for PD_TIMER enters power-down. -/
  | rankPowerDown (ch : Nat) (rk : Nat)
  /-- DRAM_RETRAIN_START (R399): A due retraining starts on one channel and holds its commands. -/
  | dramRetrainStart (ch : Nat) (temp : Int)
  /-- DRAM_RETRAIN_DONE (R399): A retraining ends with new values, or fails, keeps the old values and raises
  DRAM_TRAIN_FAIL. -/
  | dramRetrainDone (ok : Bool) (temp : Int)
  /-- SCRUB_BURST (R400): Scrub reads a burst and writes back a corrected single-bit error. -/
  | scrubBurst (a : Nat) (r : DramIn)
  /-- GRANULE_ZERO_DONE (R390): A device granule has been zeroed and mapped to a holding, and waiting accesses
  proceed. -/
  | granuleZeroDone (h : Nat) (g : Nat) (d : Nat)
  /-- DRC_DIAG_RELEASE (R407): Writing 1 to DRC_DIAG_INFO.VALID releases the held record unless frozen. -/
  | drcDiagRelease (w : Nat)
  /-- YOKE_GRANT_ADMIT (R421): The Yoke tests waiting requests in group order and admits each that fits, charging the
  ledger. -/
  | yokeGrantAdmit (aged : List Nat)
  /-- YOKE_RECALL_DONE (R424): A recalled job's engines finish their commands, are gated, and RECALL sets. -/
  | yokeRecallDone (key : Nat)
  /-- RAMP_STEP (R421): A clock step, start or enabling whose cost the ramp allowance has covered takes place. -/
  | rampStep
  /-- FIELD_IDLE_TIMER (R410): A Field with no grant for 100 µs, 1 ms or 10 ms enters FS2, FS3 or FS4 as the depth
  rule allows. -/
  | fieldIdleTimer (f : Nat) (l : Nat)
  /-- FIELD_WAKE_DONE (R410): A Field completes its exit latency, reloading microcode from FS4, and issues work. -/
  | fieldWakeDone (f : Nat)
  /-- PLL_STOP_TIMER (R409): A PLL stops 10 µs after its last user releases it. -/
  | pllStopTimer (k : Nat)
  /-- PLL_LOCK_LOSS (R409): A running PLL loses lock, its users stop and PLL_LOCK is raised. -/
  | pllLockLoss (k : Nat)
  /-- PLL_RELOCK (R409): The PLL locks again and its users resume. -/
  | pllRelock (k : Nat)
  /-- UNCORE_LEVEL_ENTRY (R411): A level's condition holds for its time and the uncore enters PL1 to PL4, requesting
  CL2 at PL3. -/
  | uncoreLevelEntry (l : Nat)
  /-- UNCORE_WAKE (R411): A request needing a higher level wakes the uncore. -/
  | uncoreWake (l : Nat)
  /-- UNCORE_WAKE_DONE (R413): The uncore reaches the needed level, serves held requests and sets DTB_COARSE after
  PL4. -/
  | uncoreWakeDone
  /-- ENVELOPE_CHANGE (R415): A write of PWR_ENVELOPE.ENV starts an envelope change. -/
  | envelopeChange (w : Nat) (v : Word)
  /-- ENVELOPE_FIT_TIMEOUT (R415): After 10 ms without fitting the new figures, the change is abandoned and ENV_FAIL
  sets. -/
  | envelopeFitTimeout
  /-- VOUT_POLL (R415): Every 50 µs READ_VOUT is read against the request. -/
  | voutPoll (mv : Nat)
  /-- VOUT_SETTLE_TIMEOUT (R415): VOUT is not within 10 mV after 500 µs; the old voltage is requested and VOUT and
  ENV_FAIL set. -/
  | voutSettleTimeout
  /-- ENVELOPE_CHANGE_DONE (R415): The grants take the new figures, ACTIVE changes, BUSY clears and ENV_DONE sets. -/
  | envelopeChangeDone
  /-- YOKE_CEILING_WRITE (R419): Sets the ceiling within limits and quota sums, setting OVER and recalling when below
  the ledger. -/
  | yokeCeilingWrite (w : Nat) (v : Word)
  /-- IOUT_SAMPLE (R418): Every 1 ms VDD_CORE current is read and MEASURED sets if it exceeds the ledger. -/
  | ioutSample (cu : Nat)
  /-- YOKE_CAL_UPDATE (R418): Every 1 s current is compared with the ledger and CAL moves by 1. -/
  | yokeCalUpdate
  /-- FALLOW_TASK_START (R426): A fallow task falls due, or finds an idle unit, and takes its unit. -/
  | fallowTaskStart (k : Nat) (u : Nat) (due : Bool)
  /-- LANE_RECAL (R426): A lane's shadow sampler recalibrates and swaps in at an idle symbol window. -/
  | laneRecal (l : Nat)
  /-- FIELD_SELFTEST_START (R427): A due or idle Field self-test isolates the Field for at most 3 ms. -/
  | fieldSelftestStart (f : Nat)
  /-- TEMP_SAMPLE (R428): Every 1 ms the sensors are read, HIGH and LIMIT set, the hottest Field is throttled, and
  TEMP_TRIP is raised at 120 °C. -/
  | tempSample (t0 : List Int)
  /-- DTB_STEP_WRITE (R429): A DTB_STEP write adds its signed value to the DTB once. -/
  | dtbStepWrite (w : Nat) (v : Word)
  /-- DTB_SET_WRITE (R429): A committed DTB_SET_HI write loads the DTB at the next REFCLK cycle. -/
  | dtbSetWrite (w : Nat) (v : DWord)
  /-- FC_SEV_WRITE (R432): Sets a source's severity unless it is fixed or reserved. -/
  | fcSevWrite (w : Nat) (n : Nat) (v : Word)
  /-- FC_STATUS_CLEAR (R436): Writing 1 clears a recorded fault unless a LEVEL cause persists, in which case the
  clear is counted as refused. -/
  | fcStatusClear (w : Nat) (k : Nat) (v : Word)
  /-- FC_THRESHOLD_WRITE (R435): Sets THRESHOLD, which applies at once to FAULT_N. -/
  | fcThresholdWrite (w : Nat) (v : Word)
  /-- FC_RESUME (R438): Writing RESUME leaves the safe state when allowed, with FLR teardown of every holding, or is
  counted as refused. -/
  | fcResume (w : Nat)
  /-- FC_FF_CLEAR (R440): Writing FF_CLEAR empties the first-fault area. -/
  | fcFfClear (w : Nat)
  /-- FC_SELF_MISMATCH (R439): A mismatch in the Collector's duplicated state enters the safe state with SELF set. -/
  | fcSelfMismatch
  /-- CHN_LAT_CLR (R449): A write clears the selected channel's CHN_LAT_MAX. -/
  | chnLatClr (h : Nat)
  /-- SELFTEST_FIELD (R471): ST_CMD TEST 0 starts a Field self-test as a due fallow task. -/
  | selftestField (w : Nat) (f : Nat)
  /-- SELFTEST_SERDES_NEAR (R471): ST_CMD TEST 1 runs a near-end loopback on a disabled lane. -/
  | selftestSerdesNear (w : Nat) (l : Nat)
  /-- SELFTEST_SERDES_FAR (R468): ST_CMD TEST 2 with START 1 starts a far-end loopback. -/
  | selftestSerdesFar (w : Nat) (l : Nat)
  /-- SELFTEST_SERDES_FAR_STOP (R468): ST_CMD TEST 2 with START 0 stops the far-end loopback. -/
  | selftestSerdesFarStop (w : Nat) (l : Nat)
  /-- SELFTEST_PLL (R468): ST_CMD TEST 3 checks every PLL. -/
  | selftestPll (w : Nat)
  /-- SELFTEST_TEMP (R468): ST_CMD TEST 4 checks the temperature sensors. -/
  | selftestTemp (w : Nat)
  /-- SELFTEST_REPAIR_BURN (R470): ST_CMD TEST 7 blows the soft repairs into the repair fuses. -/
  | selftestRepairBurn (w : Nat)
  /-- SELFTEST_DONE (R473): A test ends and ST_RESULT and ST_EVENT are written, with repairs or a Field disabled on
  failure. -/
  | selftestDone (r : TestRes) (reps : Nat)
  /-- BAULK_PORT_ENABLE (R476): Setting BK_PORT_CTRL.ENABLE starts a Baulk port's bring-up. -/
  | baulkPortEnable (w : Nat) (p : Nat)
  /-- BAULK_BRINGUP_RETRY (R476): An enabled port that is down repeats bring-up every 100 ms. -/
  | baulkBringupRetry (p : Nat)
  /-- LINK (R476): A LINK frame is checked against the wiring, setting UP or WIRING. -/
  | link (p : Nat) (d : Nat) (id : Nat) (port : Nat)
  /-- WRITE (R477): A received remote WRITE frame is applied to the exporting holding's memory or refused. -/
  | write (p : Nat) (h : BkHdr) (e : Nat) (off : Nat) (data : List Byte)
  /-- READ_REQ (R480): A received read request is checked against the export and answered with READ_DATA. -/
  | readReq (p : Nat) (h : BkHdr) (e : Nat) (off : Nat) (len : Nat)
  /-- READ_DATA (R480): Read data or a refusal completes the remote read. -/
  | readData (p : Nat) (h : BkHdr) (req : Nat) (st : Nat) (data : List Byte)
  /-- SIGNAL_FRAME (R481): A received remote SIGNAL adds to a semaphore of the export's holding or is refused. -/
  | signalFrame (p : Nat) (h : BkHdr) (e : Nat) (j : Nat) (n : Nat)
  /-- FLUSH (R482): A received FLUSH is answered with ACK once every earlier frame of the port is applied and
  visible. -/
  | flush (p : Nat) (h : BkHdr)
  /-- ACK (R477): An ACK releases replay-buffer frames, grants credit and answers a FLUSH or SIGNAL. -/
  | ack (p : Nat) (h : BkHdr) (credit : Nat) (ans : Option Nat)
  /-- NAK (R477): A NAK replays frames from a sequence number, and the link is lost after 8 replays. -/
  | nak (p : Nat) (h : BkHdr)
  /-- BAULK_ACK_TIMEOUT (R478): 1 ms without an ACK while frames are outstanding loses the link. -/
  | baulkAckTimeout (p : Nat)
  /-- BAULK_LANE_LOCK_LOSS (R478): Lane lock is lost, the link goes down and remote operations end with
  MEMORY_REMOTE. -/
  | baulkLaneLockLoss (p : Nat)
  /-- BAULK_EXPORT_WRITE (R479): Writes an export table entry, refused while VALID unless it clears VALID. -/
  | baulkExportWrite (w : Nat) (off : Nat) (v : Word)
  /-- BAULK_IMPORT_WRITE (R479): Writes an import entry; setting VALID advances GEN and makes the remote window
  handle. -/
  | baulkImportWrite (w : Nat) (off : Nat) (v : Word)
  /-- POOL_ENABLE (R484): Enabling BK_POOL_CTRL.EN reports the ceiling as a request to the leader. -/
  | poolEnable (w : Nat) (v : Word)
  /-- POOL_WANT_WRITE (R484): A BK_POOL_WANT write requests more share or releases slack. -/
  | poolWantWrite (w : Nat) (v : Word)
  /-- POOL_HEARTBEAT (R483): Every 10 ms a pool member sends a heartbeat on the Baulk bus. -/
  | poolHeartbeat
  /-- POOL_MESSAGE (R484): A Baulk bus pool message is handled: request, grant or recall of share. -/
  | poolMessage (dev : Nat) (kind : Nat) (dest : Nat) (val : Nat)
  /-- POOL_GATHER_END (R484): A new leader's 20 ms gathering ends and it recalls shares above the budget. -/
  | poolGatherEnd
  /-- POOL_LEADER_LOST (R484): No leader heartbeat for 100 ms keeps shares and fires POOL_LOST. -/
  | poolLeaderLost
  /-- BK_SYNC_DRIVE (R485): At each millisecond of DTB the leader drives BK_SYNC low for 1 µs. -/
  | bkSyncDrive
  /-- BK_SYNC_EDGE (R485): A follower samples its DTB at a BK_SYNC falling edge and steps or steers. -/
  | bkSyncEdge
  /-- BK_SYNC_LOST (R485): 10 ms without an edge fires SYNC_LOST. -/
  | bkSyncLost
  /-- PV_RUN (R489): Writing PV_CTRL.RUN starts or stops the serving of PV16 queues. -/
  | pvRun (h : Nat) (run : Bool)
  /-- PV_RESET (R489): Writing PV_CTRL.RESET starts the Function Level Reset teardown. -/
  | pvReset (h : Nat)
  /-- PV_SQ_TAIL_WRITE (R491): An SQ_TAIL doorbell below the ring size is accepted. -/
  | pvSqTailWrite (h : Nat) (q : Nat) (v : Word)
  /-- PV_CQ_HEAD_WRITE (R492): A CQ_HEAD write frees completion slots and drains the hold. -/
  | pvCqHeadWrite (h : Nat) (v : Word)
  /-- PV_DESCRIPTOR_TAKE (R492): The weighted round robin takes a PV16 descriptor and turns it into an internal job.
  -/
  | pvDescriptorTake (h : Nat) (d : List Word)
  /-- PV_NOP (R493): Completes with 0x00. -/
  | pvNop (f : Nat) (c : Nat)
  /-- PV_OPEN (R493): Opens the queue's channel from its channel registers and binds its flows. -/
  | pvOpen (f : Nat) (c : Nat)
  /-- PV_CLOSE (R493): Closes the channel and completes when the drain ends. -/
  | pvClose (f : Nat) (c : Nat)
  /-- PV_BS_IN (R493): Commits a host buffer as one item to the input FIFO. -/
  | pvBsIn (f : Nat) (c : Nat) (m : MoveIn)
  /-- PV_BS_OUT (R493): Copies whole coded items to a host buffer. -/
  | pvBsOut (f : Nat) (c : Nat)
  /-- PV_DECODE (R493): Decodes a picture and packs it to a frame in the aperture. -/
  | pvDecode (f : Nat) (c : Nat)
  /-- PV_ENCODE (R493): Packs in a frame from the aperture and encodes it. -/
  | pvEncode (f : Nat) (c : Nat)
  /-- PV_XCODE (R493): Decodes and encodes one picture on a transcode pair. -/
  | pvXcode (f : Nat) (c : Nat)
  /-- PV_INT_STATUS_CLEAR (R495): Writing 1 to a PV_INT_STATUS bit completes every source claimed for it. -/
  | pvIntStatusClear (h : Nat) (v : Word)
  /-- PV_INT_MASK_WRITE (R495): A mask bit cleared while its status bit is set sends the message. -/
  | pvIntMaskWrite (h : Nat) (v : Word)
  /-- PV_INT_COAL_WRITE (R495): Writes the coalescing registers of the PV16 CQ source. -/
  | pvIntCoalWrite (h : Nat) (v : Word)
  /-- PV16_PORTS_WRITE (R496): Assigns PV16 ports, installing T0 entries and services, or is refused with LAST_REFUSE
  0x17. -/
  | pv16PortsWrite (w : Nat) (h : Nat) (v : Word)
  /-- PV_PORT_ENABLE (R496): Writing PV_PORT_CTRL.ENABLE sets ingest ENABLE and egress TX_EN together. -/
  | pvPortEnable (h : Nat) (p : Nat) (on : Bool)
  /-- SYSRST_N_RELEASE (R509): SYSRST_N rises after being held low, and a boot held at step 1 of R453 proceeds. -/
  | sysrstNRelease (b : BootIn)
  /-- UNASSIGNED_OPCODE (R75): The Drill issues an instruction word whose opcode is unassigned or reserved, or whose
  XW or register file is wrong, and the job faults with JOB_FAULT_ILLEGAL unless a patch assigns the opcode. -/
  | unassignedOpcode (f : Nat) (c : Nat)
  /-- CLX_EXIT (R46): A USB4 port leaves CL0s, CL1 or CL2 within the exit time the USB4 specification gives, at the
  request of either link partner. -/
  | clxExit (p : Nat)
  /-- WRITE_LINK_ECC_ERROR (R404): The memory reports a write uncorrectable by link ECC, which freezes the controller
  for a CRITICAL or unaddressed write. -/
  | writeLinkEccError (a : Option Nat) (ch : Nat) (r : DramIn)
  /-- BAULK_FRAME_CRC_ERROR (R477): A received Baulk frame fails its CRC, is discarded, and a NAK requests replay. -/
  | baulkFrameCrcError (p : Nat)
  deriving DecidableEq, Repr

end Sys2Proof
end

