-- ==== Sys2Proof/Config.lean ====
section
/-! DEFINITION. What an implementation fixes, and the free values: constants without a body, so that nothing can be
proved about which value they give. Each is named in the assumption log. -/

namespace Sys2Proof

/-- A value the spec leaves open. The n-th one taken is `freeValue n`; the state holds n (log 12). -/
opaque Config.freeValue : Nat → DWord
/-- The quantiser step size of AV1 for a bit depth and a base_q_idx, which the AV1 standard fixes and the spec does not
give (R259, log 9). -/
opaque Config.av1Step : Nat → Nat → Nat

end Sys2Proof
end

