-- ==== Sys2Proof/Machine/Bits.lean ====
section
/-! DEFINITION. Bit fields, byte order (R2) and the counter classes (R444) of the ZQ9600. -/

namespace Sys2Proof.Machine

/-- The field of `len` bits from bit `lo` up. -/
def fld {n : Nat} (w : BitVec n) (lo len : Nat) : Nat := (w.toNat >>> lo) % 2 ^ len

/-- Field of a plain number. -/
def nfld (w lo len : Nat) : Nat := (w >>> lo) % 2 ^ len

/-- One bit of a word. -/
def bit {n : Nat} (w : BitVec n) (i : Nat) : Bool := w.getLsbD i

/-- A Bool as the number 0 or 1. -/
def b2n (b : Bool) : Nat := if b then 1 else 0

/-- The word with the field of `len` bits from bit `lo` replaced by `v`. -/
def putFld {n : Nat} (w : BitVec n) (lo len v : Nat) : BitVec n :=
  BitVec.ofNat n (w.toNat - (fld w lo len) * 2 ^ lo + (v % 2 ^ len) * 2 ^ lo)

/-- A 32-bit word from a number. -/
def w32 (v : Nat) : Word := BitVec.ofNat 32 v
/-- A 64-bit word from a number. -/
def w64 (v : Nat) : DWord := BitVec.ofNat 64 v

/-- The number the bytes spell, least significant first (R2). -/
def leNat : List Byte → Nat
  | [] => 0
  | b :: bs => b.toNat + 256 * leNat bs

/-- The number the bytes spell, most significant first (network order). -/
def beNat (bs : List Byte) : Nat := bs.foldl (fun a b => a * 256 + b.toNat) 0

/-- `n` bytes of a number, least significant first (R2). -/
def toLE : Nat → Nat → List Byte
  | 0, _ => []
  | n + 1, v => BitVec.ofNat 8 (v % 256) :: toLE n (v / 256)

/-- `n` bytes of a number, most significant first. -/
def toBE (n v : Nat) : List Byte := (toLE n v).reverse

/-- `len` bytes from byte `off`. -/
def slice (bs : List Byte) (off len : Nat) : List Byte := (bs.drop off).take len

/-- The little-endian number of `len` bytes at `off`. -/
def leAt (bs : List Byte) (off len : Nat) : Nat := leNat (slice bs off len)

/-- The big-endian number of `len` bytes at `off`. -/
def beAt (bs : List Byte) (off len : Nat) : Nat := beNat (slice bs off len)

/-- The low and high words of a 64-bit value (R55). -/
def loW (v : DWord) : Word := v.setWidth 32
/-- See `loW`. -/
def hiW (v : DWord) : Word := (v >>> 32).setWidth 32
/-- A 64-bit value from its words. -/
def joinW (hi lo : Word) : DWord := hi ++ lo

/-- Sign extension of a 32-bit immediate to 64 bits (R98). -/
def sext32 (v : Word) : DWord := v.signExtend 64

/-- An event counter field of a register with SAT in bit 31 (R444): SAT sets on the increment that brings the field
to all ones, and later increments are lost. -/
def evInc (w : Word) (lo len : Nat) : Word :=
  let f := fld w lo len
  if f + 1 ≥ 2 ^ len then w
  else
    let w' := putFld w lo len (f + 1)
    if f + 2 = 2 ^ len then w' ||| 0x80000000#32 else w'

/-- `n` increments of an event counter field. -/
def evAdd (w : Word) (lo len : Nat) : Nat → Word
  | 0 => w
  | n + 1 => evAdd (evInc w lo len) lo len n

/-- The 31-bit event counter of most counter registers. -/
def evInc31 (w : Word) : Word := evInc w 0 31

/-- Serial-number order on 32-bit sequence counters (R193, R446): `a` is before `b`. -/
def serialBefore (a b : Nat) : Bool := let d := (b + 2 ^ 32 - a % 2 ^ 32) % 2 ^ 32; 0 < d && d < 2 ^ 31

/-- The largest of a list of numbers, 0 of none. -/
def maxL (l : List Nat) : Nat := l.foldl Nat.max 0

/-- Ceiling of a quotient. -/
def cdiv (a b : Nat) : Nat := (a + b - 1) / b

/-- Round half up of a quotient. -/
def rdiv (a b : Nat) : Nat := (2 * a + b) / (2 * b)

end Sys2Proof.Machine
end

