-- ==== Sys2Proof/Machine/Ops.lean ====
section
/-! DEFINITION. The named operations on the sorted tables that hold the model's state. A table keeps its keys strictly
rising, so that equal tables are equal data. -/

namespace Sys2Proof.Machine

variable {α : Type}

/-- The value at a key. -/
def tget : Tab α → Nat → Option α
  | [], _ => none
  | (k, v) :: t, n => if k = n then some v else tget t n

/-- The value at a key, or a default. -/
def tgetD (t : Tab α) (n : Nat) (d : α) : α := (tget t n).getD d

/-- The table with a value set at a key. -/
def tset : Tab α → Nat → α → Tab α
  | [], n, x => [(n, x)]
  | (k, v) :: t, n, x =>
    if n < k then (n, x) :: (k, v) :: t
    else if n = k then (n, x) :: t
    else (k, v) :: tset t n x

/-- The table with a key removed. -/
def tdel : Tab α → Nat → Tab α
  | [], _ => []
  | (k, v) :: t, n => if k = n then tdel t n else (k, v) :: tdel t n

/-- A value present in the table changed by a function; nothing where the key is absent. -/
def tmod (t : Tab α) (n : Nat) (f : α → α) : Tab α :=
  match tget t n with
  | some x => tset t n (f x)
  | none => t

/-- Is the key present? -/
def thas (t : Tab α) (n : Nat) : Bool := (tget t n).isSome

/-- Every value changed by a function of its key. -/
def tmap {β : Type} (t : Tab α) (f : Nat → α → β) : Tab β := t.map fun p => (p.1, f p.1 p.2)

/-- The entries that a test keeps. -/
def tfilter (t : Tab α) (f : Nat → α → Bool) : Tab α := t.filter fun p => f p.1 p.2

/-- The lowest number from `lo` on, below `lo + fuel`, that the table does not hold. -/
def lowestFree (t : Tab α) : Nat → Nat → Option Nat
  | _, 0 => none
  | lo, fuel + 1 => if thas t lo then lowestFree t (lo + 1) fuel else some lo

/-- Keys strictly rising. -/
def Tab.rising : Tab α → Bool
  | [] => true
  | [_] => true
  | (a, _) :: (b, y) :: t => decide (a < b) && Tab.rising ((b, y) :: t)

/-! A bank of words (registers, or the bytes of memory) lists only the entries that differ from the bank's default. -/

variable [DecidableEq α]

/-- Read a bank. -/
def bankGet (b : Tab α) (dflt : Nat → α) (k : Nat) : α := tgetD b k (dflt k)

/-- Write a bank; writing the default removes the entry. -/
def bankSet (b : Tab α) (dflt : Nat → α) (k : Nat) (v : α) : Tab α :=
  if v = dflt k then tdel b k else tset b k v

/-- The canonical form of a bank: keys strictly rising, no entry equal to the default. -/
def bankWf (b : Tab α) (dflt : Nat → α) : Bool :=
  Tab.rising b && b.all fun p => decide (p.2 ≠ dflt p.1)

/-! Lists used as sets of numbers. -/

/-- Add a number to a set kept as a rising list. -/
def insNat : List Nat → Nat → List Nat
  | [], n => [n]
  | k :: t, n => if n < k then n :: k :: t else if n = k then k :: t else k :: insNat t n

/-- Remove a number from a set. -/
def remNat (l : List Nat) (n : Nat) : List Nat := l.filter (· ≠ n)

/-- Add or remove a number. -/
def setNat (l : List Nat) (n : Nat) (b : Bool) : List Nat := if b then insNat l n else remNat l n

/-- Replace position `i` of a list. -/
def putAt (l : List α) (i : Nat) (x : α) : List α := l.set i x

end Sys2Proof.Machine
end

