-- ==== Sys2Proof/Machine/StateHost.lean ====
section
/-! DEFINITION. The parts of the state that the host-facing blocks keep: boot and pins, time, holdings and host ports,
interrupts, faults. Every field's default is its value right after PORST_N. -/

namespace Sys2Proof.Machine

/-- Resets, straps, fuses, boot and microcode (20), pins (23). The strap, fuse and pin values are DESIGN CHOICE (log 7). -/
structure Sys where
  /-- PORST_N is held low: the state just before the rising edge of R453. -/
  porst : Bool := true
  /-- SYSRST_N is held low (R509). -/
  sysrst : Bool := false
  /-- Every rail is within its limits (R508). -/
  powerGood : Bool := true
  /-- BOOT_MODE[1:0] as sampled (R451). -/
  bootMode : Nat := 0
  /-- BAULK_ID[1:0] as sampled (R451). -/
  baulkId : Nat := 0
  /-- PV16_DEFAULT as sampled (R451). -/
  pv16Default : Bool := false
  /-- TEST_N as sampled (R451). -/
  testN : Bool := true
  /-- The board configuration record the boot took (R458). -/
  board : Option Board := none
  /-- The boot window of R459 is open. -/
  bwOpen : Bool := false
  /-- Anti-rollback count N (R466). -/
  fuseN : Nat := 0
  /-- Repair fuse entries used (R470). -/
  repairUsed : Nat := 0
  /-- The device serial number (03). -/
  serial : DWord := 0
  /-- Soft repairs in use (R470). -/
  softRepairs : Nat := 0
  /-- Trained DRAM values valid in the AON domain (R452). -/
  trained : Bool := false
  /-- Dispatch RAM parts with OVERRIDE set: class × 256 + index to the microaddress (R461). -/
  dispatch : Tab Nat := []
  /-- Patch RAM words: class × 2048 + word (R460, R465). -/
  patchRam : Tab Nat := []
  /-- A self-test on command runs: TEST and TARGET (R471). -/
  stRun : Option (Nat × Nat) := none
  /-- Lanes in far-end loopback (R468). -/
  farLoop : List Nat := []
  /-- Input levels of GPIO0 to GPIO7 (R502). -/
  gpioIn : Byte := 0
  deriving DecidableEq, Repr

/-- The device time base and the AON tick counter (R429, R447, R452). -/
structure Tim where
  /-- DTB in ns. -/
  dtb : DWord := 0
  /-- The 32-bit fraction of a ns. -/
  frac : Word := 0
  /-- A DTB_STEP written and not yet added. -/
  step : Option Word := none
  /-- A DTB_SET committed and not yet loaded. -/
  set : Option DWord := none
  /-- The 48-bit AON tick counter. -/
  aon : BitVec 48 := 0
  /-- AONCLK's phase against REFCLK, in 32768ths of 25 MHz (the model's own, log 2). -/
  phase : Nat := 0
  deriving DecidableEq, Repr

/-- The four holding states (R21). -/
inductive HSt where
  | absent | dormant | active | resetting
  deriving DecidableEq, Repr

/-- What started an abrupt teardown (R35). -/
inductive Td where
  | disable | flr | vfDisable | linkLoss
  deriving DecidableEq, Repr

/-- One holding (02). -/
structure Holding where
  /-- ENABLE. -/
  enable : Bool := false
  /-- PERS as written. -/
  pers : Bool := false
  /-- The personality in force: PV16 (R28). -/
  pv : Bool := false
  /-- STATE (R21). -/
  st : HSt := .absent
  /-- The function exists on the link (R21). -/
  present : Bool := false
  /-- The function is in D3hot (R48). -/
  d3 : Bool := false
  /-- The PCI Express function mask of its MSI-X capability (R161). -/
  fnMask : Bool := false
  /-- Channel quota (R31). -/
  qChan : Nat := 0
  /-- DRAM quota in granules (R31). -/
  qDram : Nat := 0
  /-- Cell cap in units of 256 cells (R31). -/
  qMax : Nat := 0
  /-- Reserved cells in units of 256 cells (R31). -/
  qMin : Nat := 0
  /-- Current quota in cu (R31). -/
  qYoke : Nat := 0
  /-- The channel numbers a PV16 holding has reserved, ascending (R29). -/
  pvChans : List Nat := []
  /-- HLDT_EVENT. -/
  events : BitVec 5 := 0
  /-- HLDT_PV16_PORTS (R496). -/
  pvPorts : BitVec 4 := 0
  /-- RESULT of HLD_ADM_CTRL. -/
  result : Nat := 0
  /-- The teardown in progress (R36). -/
  td : Option Td := none
  /-- Its pictures have been cut off at 60 ms (R36 step 4). -/
  cut : Bool := false
  /-- The function came back during the teardown (R38). -/
  back : Bool := false
  /-- DRAM bytes in use (R33). -/
  dramBytes : Nat := 0
  /-- Held low words of 64-bit registers, by bar × 2^26 + offset (R57). -/
  lowHeld : Tab Word := []
  /-- Read latches of 64-bit registers, by bar × 2^26 + offset (R55). -/
  latch : Tab Word := []
  /-- Admin entries taken and not yet carried out, oldest first (R143). -/
  adm : List (List DWord) := []
  /-- SET_SQ_ENABLE commands with ENABLE 0 whose completion waits: (QID, TAG) (R143). -/
  idleWait : List (Nat × Nat) := []
  /-- PV16 PORT and ERR sources: pending, active (R495). -/
  pvPend : BitVec 2 := 0
  /-- See `pvPend`. -/
  pvAct : BitVec 2 := 0
  deriving DecidableEq, Repr

/-- The administrative role (R23, R24). -/
structure Adm where
  /-- The owner; none while the role is vacant. -/
  owner : Option Nat := none
  /-- The last holding that had the role since reset (R27). -/
  prev : Option Nat := none
  /-- The lease runs (R24). -/
  lease : Bool := false
  /-- LAST_REFUSE. -/
  refuse : Nat := 0
  deriving DecidableEq, Repr

/-- Link power states of a USB4 port (R46). -/
inductive Clx where
  | cl0 | cl0s | cl1 | cl2
  deriving DecidableEq, Repr

/-- A USB4 host port (03). -/
structure HPort where
  /-- The PCIe tunnel path is active. -/
  up : Bool := false
  /-- Generation of the link: 2, 3 or 4; 0 while it has never trained. -/
  gen : Nat := 0
  /-- The link runs on a single lane. -/
  single : Bool := false
  /-- The training before: generation and single lane (R44). -/
  prev : Option (Nat × Bool) := none
  /-- Link power state. -/
  clx : Clx := .cl0
  /-- CL0s, CL1, CL2 enabled by the connection manager (R46). -/
  clxEn : BitVec 3 := 0
  /-- NumVFs the host has enabled. -/
  vfs : Nat := 0
  /-- The link is out of its CL states and DMA waits for it (R45). -/
  outage : Bool := false
  deriving DecidableEq, Repr

/-- One interrupt source (R158, R160). -/
structure Src where
  /-- TARGET holding. -/
  hold : Nat := 0
  /-- TARGET vector. -/
  vec : Nat := 0
  /-- TARGET priority. -/
  prio : Nat := 0
  /-- TARGET enable. -/
  en : Bool := false
  /-- PENDING. -/
  pend : Bool := false
  /-- ACTIVE. -/
  act : Bool := false
  /-- MASKED. -/
  mask : Bool := false
  /-- Event counter, 0 to 255. -/
  ev : Nat := 0
  /-- Coalescing count as written; 0 acts as 1. -/
  cnt : Nat := 1
  /-- Coalescing time in µs as written; 0 acts as 1. -/
  time : Nat := 1
  /-- The coalescing timer runs. -/
  timer : Bool := false
  deriving DecidableEq, Repr

/-- A VACANT route (R159). -/
structure Vac where
  /-- VECTOR of IGF_VACANT_VEC. -/
  vec : Nat := 0
  /-- PENDING. -/
  pend : Bool := false
  /-- ACTIVE. -/
  act : Bool := false
  deriving DecidableEq, Repr

/-- The Interrupt Gatherer (07). -/
structure Intr where
  /-- Sources 0 to 1342; one not listed is as `srcDflt` (R156, the reset of IG_TARGET). -/
  src : Tab Src := []
  /-- The VACANT routes of holdings 0 and 16, by holding. -/
  vac : Tab Vac := []
  /-- Messages held by a PCI Express mask or D3hot, as h × 64 + vector (R161). -/
  held : List Nat := []
  deriving DecidableEq, Repr

/-- A fault log entry (R441). -/
structure LogE where
  /-- Source. -/
  src : Nat
  /-- Recorded severity. -/
  sev : Nat
  /-- 0 device, 1 holding, 2 channel. -/
  scope : Nat
  /-- Holding named, or 0. -/
  hold : Nat
  /-- Channel named, or 0. -/
  chan : Nat
  /-- FC_SEQ when recorded. -/
  seq : Word
  /-- DTB when recorded. -/
  time : DWord
  /-- INFO0. -/
  info0 : Nat
  /-- CODE. -/
  code : Nat
  /-- INFO1. -/
  info1 : Nat
  deriving DecidableEq, Repr

/-- A source that has fired in this step and is not recorded yet (the model's own: recorded at the end of the step). -/
structure Fire where
  /-- Source. -/
  src : Nat
  /-- Holding named. -/
  hold : Option Nat := none
  /-- Channel named. -/
  chan : Option Nat := none
  /-- INFO0. -/
  info0 : Nat := 0
  /-- CODE. -/
  code : Nat := 0
  /-- INFO1. -/
  info1 : Nat := 0
  deriving DecidableEq, Repr

/-- The Fault Collector (19). -/
structure Flt where
  /-- Sources that fired in this step. -/
  fired : List Fire := []
  /-- Severities that differ from R431's defaults. -/
  sev : Tab Nat := []
  /-- Set FC_STATUS bits, with the severity each keeps (R434). -/
  status : Tab Nat := []
  /-- LEVEL sources whose cause persists. -/
  cause : List Nat := []
  /-- The device is in the safe state (R437). -/
  safe : Bool := false
  /-- SELF (R439). -/
  self : Bool := false
  /-- The FAULT_N line is pulled low by another device (R435). -/
  lineLow : Bool := false
  /-- Log entries 0 to 511 that are written (R440). -/
  log : Tab LogE := []
  /-- FC_SEQ. -/
  seq : Word := 0
  /-- Entries used in the first-fault area. -/
  ff : Nat := 0
  /-- ROLL_NEXT. -/
  roll : Nat := 0
  /-- FC_FF_LOST, kept across SYSRST_N. -/
  ffLost : Word := 0
  deriving DecidableEq, Repr

end Sys2Proof.Machine
end

