-- ==== Sys2Proof/Machine/StateJob.lean ====
section
/-! DEFINITION. The parts of the state that queues and jobs keep: rings (06), job contexts and scoreboards (04), the
work that asynchronous instructions have outstanding, object slots, semaphores and barriers (05). -/

namespace Sys2Proof.Machine

/-- A completion entry on its way into a CQ ring (R135); PHASE, SQ_CI and TIME are added when it is written. -/
structure Cqe where
  /-- FINAL. -/
  final : Bool
  /-- TAG. -/
  tag : Nat
  /-- STATUS. -/
  status : Nat
  /-- SQID. -/
  sqid : Nat
  /-- FIELD. -/
  field : Nat
  /-- CONTEXT. -/
  ctx : Nat
  /-- RESULT. -/
  result : DWord
  deriving DecidableEq, Repr

/-- A submission queue (06). -/
structure Sq where
  /-- Device-wide number. -/
  num : Nat
  /-- Ring base, a bus address. -/
  base : Nat
  /-- Ring size as log2. -/
  log2 : Nat
  /-- Priority (R78). -/
  prio : Nat := 0
  /-- Local id of the bound CQ. -/
  cqid : Nat
  /-- The device's consumer index (R120). -/
  ci : Nat := 0
  /-- The last accepted producer index. -/
  pi : Nat := 0
  /-- ENABLE. -/
  enable : Bool := true
  /-- Entries read and not yet taken, oldest first (R133). -/
  fetched : List (List DWord) := []
  /-- The open sheaf: its context key while its job runs (R126). -/
  sheaf : Option Nat := none
  /-- Entries are discarded up to LAST (R519). -/
  discard : Bool := false
  /-- Stopped by a failed read (R518). -/
  stopped : Bool := false
  /-- The entry at CI was read with the wrong PHASE (R134). -/
  retry : Bool := false
  /-- PHASE_RETRY. -/
  phaseRetry : Word := 0
  /-- ORPHANS. -/
  orphans : Word := 0
  /-- DB_INVALID. -/
  dbInvalid : Word := 0
  deriving DecidableEq, Repr

/-- A completion queue (06). -/
structure Cq where
  /-- Device-wide number, its interrupt source. -/
  num : Nat
  /-- Ring base, a bus address. -/
  base : Nat
  /-- Ring size as log2. -/
  log2 : Nat
  /-- DROP_OK. -/
  dropOk : Bool := false
  /-- The device's producer index. -/
  pi : Nat := 0
  /-- The last accepted consumer index. -/
  ci : Nat := 0
  /-- The hold of at most 64 entries, oldest first (R137). -/
  hold : List Cqe := []
  /-- Dispatch from the bound SQs is stopped (R138). -/
  stop : Bool := false
  /-- Entries were dropped just before the next one (R140). -/
  ovf : Bool := false
  /-- CQ_FULL. -/
  full : Word := 0
  /-- DROPPED. -/
  dropped : Word := 0
  /-- DB_INVALID. -/
  dbInvalid : Word := 0
  deriving DecidableEq, Repr

/-- What a job context waits for (R62, R64, R82, R90, R96, R101-R105, R116). -/
inductive Wait where
  /-- Nothing: the context may be ready. -/
  | none
  /-- The Field base grant and the Field's wake (R68, R90). -/
  | base
  /-- A program line at this word offset (R64). -/
  | line
  /-- SLEEP until a DTB time (R96). -/
  | sleep (until_ : Nat)
  /-- A fence of classes (bits WORD, PIXEL, MOVE, FIFO) at a scope (R101). -/
  | fence (cls scope : Nat)
  /-- WAIT on a semaphore slot for n, with X (R102). -/
  | sem (slot n : Nat) (x tmo : Bool)
  /-- BARRIER on a slot, with X (R102). -/
  | bar (slot : Nat) (x tmo : Bool)
  /-- CLAIM of a class, with X (R116). -/
  | claim (cls : Nat) (x tmo : Bool)
  /-- A grant that the instruction at the program counter needs (R90). -/
  | grant
  /-- The answer of a SIGNAL through a remote window (R481). -/
  | remote
  deriving DecidableEq, Repr

/-- A PV16 descriptor taken (R490) and run as an internal job (R65). -/
structure PvJob where
  /-- OP. -/
  op : Nat
  /-- IDR. -/
  idr : Bool
  /-- LEN. -/
  len : Nat
  /-- ADDR. -/
  addr : Nat
  /-- AP_OFF. -/
  ap : Nat
  /-- STRIDE. -/
  stride : Nat
  /-- Instructions of the job that have issued. -/
  step : Nat := 0
  /-- PICTURE of the completion. -/
  pic : Word := 0xFFFFFFFF
  /-- CONCEALED, IDR, STUBBLE of the completion. -/
  flags : Nat := 0
  /-- The status of its DEC.PIC that the completion reports unless a later one is worse (log 53). -/
  code : Nat := 0
  deriving DecidableEq, Repr

/-- A job context (R69, R70). -/
structure Ctx where
  /-- Holding of the job. -/
  hold : Nat
  /-- Local id of its SQ; for an internal PV16 job, its PV16 queue. -/
  sqid : Nat
  /-- The descriptor of an internal PV16 job (R65). -/
  pv : Option PvJob := none
  /-- TAG. -/
  tag : Nat := 0
  /-- Current class C0 to C7. -/
  cls : Nat := 0
  /-- Yoke timeout in 100 µs, 0 none. -/
  tmo : Nat := 0
  /-- AFFINITY. -/
  aff : Nat := 0
  /-- AFF_ARG. -/
  affArg : Nat := 0
  /-- Priority of its SQ (R78). -/
  prio : Nat := 0
  /-- Program counter, a word offset. -/
  pc : Nat := 0
  /-- G0 to G15 that differ from 0. -/
  g : Tab DWord := []
  /-- K0 to K15 that differ from the null handle. -/
  k : Tab Word := []
  /-- Z. -/
  z : Bool := false
  /-- N. -/
  n : Bool := false
  /-- C. -/
  c : Bool := false
  /-- T. -/
  t : Bool := false
  /-- Return stack, top first, at most 4. -/
  stack : List Nat := []
  /-- Program words the Drill has (R62, R64), by word offset. -/
  prog : Tab DWord := []
  /-- Words of an inline job read so far. -/
  words : Nat := 0
  /-- Entries of an inline job taken (R61). -/
  entries : Nat := 1
  /-- Program length once the program is finished (R77). -/
  plen : Option Nat := none
  /-- Program address of a pointed job (R125). -/
  ptr : Option DWord := none
  /-- The word offset at which a fault of an entry takes effect (R519). -/
  bad : Option Nat := none
  /-- The word offset of a branch to a word not yet known to lie in the program (R77). -/
  from_ : Nat := 0
  /-- What it waits for. -/
  wait : Wait := .none
  /-- The host-scope fence of a POST, IRQ or the final completion has completed (R87, R105). -/
  fenced : Bool := false
  /-- The end is recorded: status and result (R83, R86). -/
  ended : Option (Nat × DWord) := none
  /-- It ended under R84. -/
  fault : Bool := false
  /-- Its queue was disabled while its sheaf was open (R126). -/
  cut : Bool := false
  /-- It holds the grant of its class (R90). -/
  granted : Bool := false
  /-- Issue number of its last instruction (R78). -/
  last : Nat := 0
  /-- Classes of its unfenced writes to host memory (R101). -/
  ports : Nat := 0
  /-- Baulk ports its unfenced remote writes went through: bit p of class WORD, 3 + p of class MOVE (R482). -/
  bports : Nat := 0
  /-- Remote ports whose FLUSH has been acknowledged (R482). -/
  backed : Nat := 0
  /-- Channels or groups it closed that still drain (R109). -/
  drains : List Nat := []
  deriving DecidableEq, Repr

/-- The operands of an outstanding asynchronous or word-access instruction (R79, R95). -/
inductive WorkKind where
  /-- LD from an address, with W (R100). -/
  | ld (addr : DWord) (w : Bool)
  /-- DEC.PIC on a channel into a buffer (R112): picture slot, R, NV. -/
  | decPic (chan : Nat) (pic : Option Nat) (rows nv : Bool)
  /-- ENC.PIC on a channel from a source buffer; the counter of a picture that came while the lookahead filled. -/
  | encPic (chan src : Nat) (early : Option Word)
  /-- ENC.LADDER on a group from a source buffer, likewise. -/
  | encLadder (grp src : Nat) (early : Option Word)
  /-- ANALYZE. -/
  | analyze (chan src : Nat)
  /-- SCALE: destination, source, source window x y w h. -/
  | scale (dst src x y w h : Nat) (rows : Bool)
  /-- CONVERT. -/
  | convert (dst src : Nat) (rows : Bool)
  /-- STATS: channel, destination, record selection, buffer length. -/
  | stats (chan : Nat) (addr : DWord) (sel : Nat) (len : Nat)
  /-- XFER: destination, source, length, BF, priority. -/
  | xfer (dst src : DWord) (len : Nat) (bf : Bool) (prio : Nat)
  /-- FILL: destination, pattern, length, BF, priority. -/
  | fill (dst pat : DWord) (len : Nat) (bf : Bool) (prio : Nat)
  /-- PACK: picture, address, stride, IN, BF, priority. -/
  | pack (pic : Nat) (addr : DWord) (stride : Nat) (inn bf : Bool) (prio : Nat)
  deriving DecidableEq, Repr

/-- An outstanding instruction. -/
structure Work where
  /-- Context key: Field × 32 + context. -/
  ctx : Nat
  /-- Holding. -/
  hold : Nat
  /-- What it does. -/
  kind : WorkKind
  /-- The G register it will write (R80). -/
  d : Nat
  /-- The engines it keeps busy need the grant (R116). -/
  engine : Bool
  /-- Fence class: 0 WORD, 1 PIXEL, 2 MOVE, 3 FIFO, 4 none (R148). -/
  fcls : Nat
  /-- Buffers it still uses (R73). -/
  uses : List Nat := []
  deriving DecidableEq, Repr

/-- What an object slot refers to (R72). -/
structure Obj where
  /-- Holding that owns it. -/
  hold : Nat
  /-- The object: channel number, buffer number, flow number, group number. -/
  ref : Nat
  deriving DecidableEq, Repr

/-- A semaphore (R102, R103). -/
structure Sem where
  /-- Holding. -/
  hold : Nat
  /-- Count. -/
  count : Nat
  /-- Waiting contexts with their n, in order of arrival. -/
  waiters : List (Nat × Nat) := []
  deriving DecidableEq, Repr

/-- A barrier (R102). -/
structure Bar where
  /-- Holding. -/
  hold : Nat
  /-- Participant count. -/
  parts : Nat
  /-- Contexts that have arrived. -/
  arrived : List Nat := []
  deriving DecidableEq, Repr

/-- Queues and jobs. -/
structure Jobs where
  /-- Submission queues by h × 1024 + id. -/
  sq : Tab Sq := []
  /-- Completion queues by h × 1024 + id. -/
  cq : Tab Cq := []
  /-- Job contexts in use, by Field × 32 + context. -/
  ctx : Tab Ctx := []
  /-- Outstanding instructions by number. -/
  work : Tab Work := []
  /-- The next number (the model's own). -/
  nextWork : Nat := 0
  /-- The next issue number (R78: least recently issued). -/
  nextIssue : Nat := 1
  /-- Starved contexts that take the next issue, by Field (R78). -/
  starved : Tab Nat := []
  /-- Object slots in use, by TYPE × 2^20 + INDEX. -/
  obj : Tab Obj := []
  /-- Generations that differ from 0, by TYPE × 2^20 + INDEX (R72). -/
  gen : Tab Nat := []
  /-- Semaphores by slot. -/
  sem : Tab Sem := []
  /-- Barriers by slot. -/
  bar : Tab Bar := []
  deriving DecidableEq, Repr

end Sys2Proof.Machine
end

