-- ==== Sys2Proof/Machine/StateNet.lean ====
section
/-! DEFINITION. The parts of the state that move data: Granary cells and stream FIFOs (15), DMA and receive rings (15),
network ingest (14) and egress (16). -/

namespace Sys2Proof.Machine

/-- A cell's metadata word (R345); a cell that is not listed is free. -/
structure Cell where
  /-- NEXT; 0x7FFFFF at the last cell. -/
  next : Nat
  /-- HEAD. -/
  head : Bool
  /-- ALLOCATED (head only). -/
  alloc : Bool
  /-- REFS (head only). -/
  refs : Nat
  /-- HOLDING (head only). -/
  hold : Nat
  deriving DecidableEq, Repr

/-- An item of a stream FIFO (R352): a chain and its header. -/
structure Item where
  /-- Head cell of its chain. -/
  cell : Nat
  /-- Cells of the chain that are not freed yet. -/
  cells : Nat
  /-- Cells of the chain already freed (R354). -/
  gone : Nat := 0
  /-- LEN. -/
  len : Nat
  /-- KIND is gap marker. -/
  gap : Bool
  /-- RESET. -/
  reset : Bool
  /-- TIME. -/
  time : DWord
  /-- ITEMS of a gap marker. -/
  items : Nat
  /-- BYTES of a gap marker. -/
  bytes : Nat
  /-- Payload of a data item. -/
  data : List Byte
  /-- Bytes of the payload that the consumer has read (R moves within the item). -/
  rd : Nat := 0
  /-- The poisoned payload bytes read as a gap (R228). -/
  poison : Bool := false
  /-- The picture this row belongs to, with its PTS, DTS and random-access flag, for egress (R373). -/
  pic : Option (Word × DWord × DWord × Bool) := none
  /-- It is the picture's last row. -/
  last : Bool := false
  /-- It is the first row of a picture with a timestamp discontinuity (R378). -/
  disc : Bool := false
  deriving DecidableEq, Repr

/-- A pending gap marker (R356). -/
structure Gap where
  /-- ITEMS. -/
  items : Nat
  /-- BYTES. -/
  bytes : Nat
  /-- TIME of the first item lost. -/
  time : DWord
  /-- RESET: a FIFO reset made it, and it found no cell yet (R357). -/
  reset : Bool := false
  deriving DecidableEq, Repr

/-- A stream FIFO (R351 to R357). Its pointers are the lengths of its parts: P lies before `keep`, M at its start when
`mark` is set, R between `keep` and `items`, C at the end of `items`, W after `unc`. -/
structure Fifo where
  /-- Committed items the consumer has read and not released, oldest first. -/
  keep : List Item := []
  /-- Committed items not yet read, oldest first. -/
  items : List Item := []
  /-- Uncommitted items behind the producer mark, oldest first. -/
  unc : List Item := []
  /-- The consumer mark M: it stands before the item of `keep` at this position, or at R (R353). -/
  mark : Option Nat := none
  /-- The producer mark, as the number of items of `unc` before it. -/
  pmark : Nat := 0
  /-- The pending gap marker. -/
  pend : Option Gap := none
  deriving DecidableEq, Repr

/-- The Granary. -/
structure Grn where
  /-- Allocated cells by number. -/
  cells : Tab Cell := []
  /-- Stream FIFOs: 2c the input, 2c + 1 the output of channel c. -/
  fifo : Tab Fifo := []
  /-- Staging chains of encodes over several Fields, by channel × 4 + band (R256). -/
  stage : Tab (List Item) := []
  deriving DecidableEq, Repr

/-- A DMA descriptor being run (R364). -/
structure Desc where
  /-- The eight words of the descriptor. -/
  w : List Word
  deriving DecidableEq, Repr

/-- A descriptor ring (R363 to R367). -/
structure DRing where
  /-- HEAD. -/
  head : Nat := 0
  /-- RUNNING. -/
  run : Bool := false
  /-- The poke latch. -/
  latch : Bool := false
  /-- The descriptor in progress. -/
  cur : Option Desc := none
  /-- It waits for a cell or for room (R12). -/
  wait : Bool := false
  /-- Head of the chain it fills, and the cells it has (R517). -/
  chain : Option Nat := none
  /-- See `chain`. -/
  cells : Nat := 0
  deriving DecidableEq, Repr

/-- A receive ring's own state (R358); its registers are in the BAR0 bank. -/
structure RxRing where
  /-- The device's producer index. -/
  pi : Nat := 0
  /-- Frames lost since the last record (DROPS). -/
  drops : Nat := 0
  deriving DecidableEq, Repr

/-- DMA. -/
structure Dma where
  /-- Descriptor rings 0 to 15. -/
  ring : Tab DRing := []
  /-- Receive rings 0 to 1023. -/
  rx : Tab RxRing := []
  /-- DMA channels with a starvation turn due (R361). -/
  turn : List Nat := []
  deriving DecidableEq, Repr

/-- A received frame, from the destination address to before the FCS (R315, R316). -/
structure Frame where
  /-- Port. -/
  port : Nat
  /-- Bytes without the FCS. -/
  data : List Byte
  /-- START. -/
  start : DWord
  /-- ARRIVE. -/
  arrive : DWord
  deriving DecidableEq, Repr

/-- A T1 entry (R325, ING_TBL). -/
structure T1E where
  /-- Profile. -/
  prof : Nat
  /-- Key, 37 bytes. -/
  key : List Byte
  /-- FLOW. -/
  flow : Nat
  /-- ROLE. -/
  role : Nat
  /-- PORTS. -/
  ports : Nat
  /-- HOLDING. -/
  hold : Nat
  /-- TS. -/
  ts : Bool
  /-- ACTION. -/
  action : Word
  deriving DecidableEq, Repr

/-- A T2 entry (R326). -/
structure T2E where
  /-- FLOW. -/
  flow : Nat
  /-- PID. -/
  pid : Nat
  /-- ACTION. -/
  action : Word
  deriving DecidableEq, Repr

/-- A packet held in a reordering window or in the FEC history (R336, R338). -/
structure Pkt where
  /-- Sequence number at the window's width. -/
  num : Nat
  /-- ARRIVE of its frame. -/
  arrive : DWord
  /-- Payload the channel is to receive. -/
  pay : List Byte
  /-- Head cell of its chain. -/
  cell : Nat
  /-- RTP packet bytes for recovery. -/
  rtp : List Byte
  deriving DecidableEq, Repr

/-- A FEC packet of ST 2022-1 held for recovery (R338). -/
structure FecPkt where
  /-- Row packet (ROLE 3) rather than column. -/
  row : Bool
  /-- SNBase. -/
  base : Nat
  /-- Offset between members. -/
  offset : Nat
  /-- Number of members NA. -/
  na : Nat
  /-- Length recovery. -/
  lenRec : Nat
  /-- PT recovery. -/
  ptRec : Nat
  /-- Timestamp recovery. -/
  tsRec : Nat
  /-- Payload of the XOR. -/
  pay : List Byte
  deriving DecidableEq, Repr

/-- An ingest flow (R336 to R340). -/
structure Flow where
  /-- Holding. -/
  hold : Nat
  /-- Channel. -/
  chan : Nat
  /-- Object slot of its handle. -/
  slot : Nat
  /-- MODE. -/
  mode : Nat
  /-- PORT. -/
  port : Nat
  /-- PORT_B. -/
  portB : Nat
  /-- PID. -/
  pid : Nat
  /-- REORDER_US. -/
  reorder : Nat
  /-- METER, none for 0xFFFF. -/
  meter : Option Nat
  /-- Expected number E; none before the first packet. -/
  e : Option Nat := none
  /-- Held packets in order of number from E. -/
  held : List Pkt := []
  /-- Numbers declared lost whose gap marker waits for the next packet (R336). -/
  run : Nat := 0
  /-- The last 64 numbers delivered. -/
  done : List Nat := []
  /-- The last 128 media packets (FEC). -/
  hist : List Pkt := []
  /-- FEC packets held. -/
  fec : List FecPkt := []
  /-- Headers of the last received media packet (R329). -/
  lastHdr : List Byte := []
  /-- Paths up: bit 0 A, bit 1 B (R337). -/
  up : Nat := 0
  /-- It is source-lost (R318). -/
  lost : Bool := false
  deriving DecidableEq, Repr

/-- A meter's buckets (R332), in millionths of a bit, so that refills at ns and kbit/s are exact. -/
structure MBkt where
  /-- Committed tokens. -/
  c : Nat
  /-- Peak tokens. -/
  p : Nat
  /-- DTB of the last refill. -/
  t : DWord
  deriving DecidableEq, Repr

/-- A network port (14). -/
structure NPort where
  /-- LINK. -/
  link : Bool := false
  /-- Frames in the receive buffer, oldest first. -/
  buf : List Frame := []
  deriving DecidableEq, Repr

/-- A table command in progress (ING_TBL_CMD). -/
structure TblCmd where
  /-- RESULT it will set. -/
  result : Nat
  deriving DecidableEq, Repr

/-- Network ingest. -/
structure Ing where
  /-- Ports 0 to 7. -/
  port : Tab NPort := []
  /-- T1 entries. -/
  t1 : List T1E := []
  /-- T2 entries. -/
  t2 : List T2E := []
  /-- Flows by tag. -/
  flow : Tab Flow := []
  /-- Exception tokens taken from a full bucket, by holding. -/
  taken : Tab Nat := []
  /-- Meter buckets that are not full, by meter. -/
  mbkt : Tab MBkt := []
  /-- Meter words written and not yet committed, by address. -/
  munc : Tab Word := []
  /-- The table command in progress. -/
  cmd : Option TblCmd := none
  deriving DecidableEq, Repr

/-- A TS packet queued in an egress flow (R380). -/
structure TsPkt where
  /-- The 188 bytes; a PCR is written at departure. -/
  data : List Byte
  /-- The DTS of its picture, for LATE (R378): a video packet has one. -/
  dts : Option DWord := none
  /-- It carries a PCR. -/
  pcr : Bool := false
  /-- Head cells of the items whose last packet this is: its flow's references go when it departs (R380). -/
  refs : List Nat := []
  /-- Commit times of those items, or the time of the EGF_PI write of a feed record (DELAY, R383). -/
  since : List DWord := []
  /-- Its cell; none for a packet that egress makes of its own (log 43). -/
  cell : Option Nat := none
  /-- It ends a live-link item: its datagram closes after it (R379). -/
  close : Bool := false
  deriving DecidableEq, Repr

/-- A PSI template's state (R375). -/
structure Psi where
  /-- PSI_ADDR. -/
  addr : DWord
  /-- PSI_PID. -/
  pid : Nat
  /-- PSI_MS. -/
  ms : Nat
  /-- EN. -/
  en : Bool
  /-- CRC. -/
  crc : Bool
  /-- The last complete copy of its sections. -/
  copy : Option (List Byte) := none
  deriving DecidableEq, Repr

/-- An egress flow (16). -/
structure EFlow where
  /-- Holding. -/
  hold : Nat
  /-- Channel. -/
  chan : Nat
  /-- Object slot of its handle. -/
  slot : Nat
  /-- MODE. -/
  mode : Nat
  /-- SERVICE. -/
  svc : Nat
  /-- PORT. -/
  port : Nat
  /-- VIDEO_PID. -/
  vpid : Nat
  /-- PCR_PID (VIDEO_PID for 0). -/
  ppid : Nat
  /-- PKTS. -/
  pkts : Nat
  /-- PCR_MS. -/
  pcrMs : Nat
  /-- HOLD_US. -/
  holdUs : Nat
  /-- DSCP. -/
  dscp : Nat
  /-- TTL. -/
  ttl : Nat
  /-- FEED_SLOT. -/
  feed : Option Nat
  /-- FEED_LOG2. -/
  feedLog2 : Nat
  /-- FEED_BASE. -/
  feedBase : DWord
  /-- CIR, PIR in kbit/s. -/
  cir : Nat
  /-- See `cir`. -/
  pir : Nat
  /-- CBS, PBS in bytes. -/
  cbs : Nat
  /-- See `cbs`. -/
  pbs : Nat
  /-- QUANTUM. -/
  quantum : Nat
  /-- QLIMIT. -/
  qlimit : Nat
  /-- SSRC. -/
  ssrc : Word
  /-- MUX_DELAY_US. -/
  muxDelay : Nat
  /-- VLAN. -/
  vlan : Nat
  /-- DST_MAC. -/
  mac : List Byte
  /-- DST_ADDR, SRC_ADDR: 16 bytes each. -/
  dst : List Byte
  /-- See `dst`. -/
  srcA : List Byte
  /-- DST_PORT. -/
  dport : Nat
  /-- SRC_PORT. -/
  sport : Nat
  /-- PSI templates 0 to 3. -/
  psi : List Psi
  /-- Queue of video packets, oldest first. -/
  video : List TsPkt := []
  /-- Queue of feed packets. -/
  feedQ : List TsPkt := []
  /-- Queue of PSI packets. -/
  psiQ : List TsPkt := []
  /-- Packets of the datagram being filled. -/
  dgram : List TsPkt := []
  /-- The closed datagram that waits for the shaper, if any. -/
  ready : List TsPkt := []
  /-- The last packet taken was a video packet (R376). -/
  lastVideo : Bool := false
  /-- Continuity counters by PID. -/
  cc : Tab Nat := []
  /-- OFFSET of the programme clock; none before the first picture. -/
  offset : Option Nat := none
  /-- A PCR fell due before OFFSET was set (R377). -/
  pcrDue : Bool := false
  /-- discontinuity_indicator goes into the next PCR (R378). -/
  discDue : Bool := false
  /-- RTP sequence number. -/
  rtpSeq : Nat := 0
  /-- The picture being packetised (R373). -/
  curPic : Option Word := none
  /-- Bytes of that picture not yet in a packet. -/
  rest : List Byte := []
  /-- The picture's first packet is still to be made; it sets random_access_indicator when this is true. -/
  start : Option Bool := none
  /-- Its DTS. -/
  curDts : DWord := 0
  /-- Head cell and commit time of each item whose last byte is in `rest`. -/
  tail : List (Nat × DWord) := []
  /-- DTB of the last EGF_PI write taken (R383). -/
  feedTime : DWord := 0
  /-- Its reading is stopped by SCLOSE (R380). -/
  closing : Bool := false
  /-- Committed and peak tokens, millionths of a bit. -/
  ctok : Nat := 0
  /-- See `ctok`. -/
  ptok : Nat := 0
  /-- DTB of the last refill. -/
  tref : DWord := 0
  /-- Deficit counter. -/
  deficit : Nat := 0
  deriving DecidableEq, Repr

/-- Tokens of a service or a port. -/
structure Tok where
  /-- Committed tokens, millionths of a bit. -/
  c : Nat
  /-- Peak tokens. -/
  p : Nat
  /-- DTB of the last refill. -/
  t : DWord
  deriving DecidableEq, Repr

/-- Egress. -/
structure Egr where
  /-- Flows by number. -/
  flow : Tab EFlow := []
  /-- Service tokens; a service not listed is full. -/
  svc : Tab Tok := []
  /-- Port tokens; a port not listed is full. -/
  port : Tab Tok := []
  /-- Round-robin position: last service served, by port × 4 + class, with its datagrams left (R382). -/
  rr : Tab (Nat × Nat) := []
  /-- Last flow served, by service. -/
  last : Tab Nat := []
  deriving DecidableEq, Repr

end Sys2Proof.Machine
end

