-- ==== Sys2Proof/Machine/StatePow.lean ====
section
/-! DEFINITION. The parts of the state that memory, power and the links between devices keep: the DRAM controller (17),
the Yoke, clocks and power levels (18), Baulk (21), and PV16 holdings' own queues (22). -/

namespace Sys2Proof.Machine

/-- The DRAM controller (17). -/
structure Drm where
  /-- Bytes of device memory by device address; an unlisted byte reads 0 (log 6). -/
  mem : List Host.Cell := []
  /-- Granule map: holding × 4096 + granule to the device granule (R390). -/
  map : Tab Nat := []
  /-- Poisoned 32-byte bursts, by device address / 32 (R403). -/
  poison : List Nat := []
  /-- Raw capacity in granules of 16 MiB (R385). -/
  raw : Nat := 0
  /-- Ranks per channel. -/
  ranks : Nat := 1
  /-- FROZEN (R405). -/
  frozen : Bool := false
  /-- The channel in retraining (R399). -/
  retrain : Option Nat := none
  /-- RETRAIN_CH. -/
  lastCh : Nat := 0
  /-- Channels whose retraining is due (R399). -/
  due : List Nat := []
  /-- Refreshes owed that are not 0, by (channel × 2 + rank) × 16 + bank (R396). -/
  owed : Tab Nat := []
  /-- Refresh-rate report of mode register 4, by channel × 2 + rank. -/
  mr4 : Tab Nat := []
  /-- Open rows by (channel × 2 + rank) × 16 + bank (R395). -/
  row : Tab Nat := []
  /-- Rotating pointers by channel (R394). -/
  ptr : Tab Nat := []
  /-- Ranks in power-down, channel × 2 + rank (R397). -/
  pd : List Nat := []
  /-- Every rank is in self-refresh or deep self-refresh (R405, R411). -/
  self : Bool := true
  deriving DecidableEq, Repr

/-- A grant of the Yoke (R421, R423). -/
structure Grant where
  /-- Context key k for the grant of its class, 512 + k for the Field base; 256 + f for a self-test of Field f;
  1024 + 8 × k + f for the grant on span Field f (R205). -/
  key : Nat
  /-- Field. -/
  field : Nat
  /-- Holding charged. -/
  hold : Nat
  /-- Engines held: bits 0-5 PE, 6-7 SE, 8-10 EE (R6); bit 11 the Field base. -/
  eng : Nat
  /-- What it is charged for, in cu: engine to the figure it was admitted with; 12 a self-test (R423). -/
  paid : Tab Nat
  /-- The charge is borrowed (R423). -/
  borrowed : Bool
  deriving DecidableEq, Repr

/-- A waiting request (R422). -/
structure YReq where
  /-- As `Grant.key`. -/
  key : Nat
  /-- Field. -/
  field : Nat
  /-- Holding. -/
  hold : Nat
  /-- Class asked for. -/
  cls : Nat
  /-- It ranks as live-link work. -/
  live : Bool
  /-- A fallow task: 1 due, 2 not due; 0 a job. -/
  fallow : Nat
  deriving DecidableEq, Repr

/-- A ramp cost waiting to be taken (R421). -/
structure Ramp where
  /-- Field, or 8 and up for an uncore PLL, as `Yoke.unlocked` numbers them. -/
  unit : Nat
  /-- cu. -/
  cost : Nat
  /-- The clock in 100 MHz that the step reaches, 0 for an engine start. -/
  clk : Nat
  /-- The grant whose enabling waits for it. -/
  key : Option Nat := none
  deriving DecidableEq, Repr

/-- A Field (R410, R425, R427). -/
structure FieldSt where
  /-- FS0 to FS4. -/
  fs : Nat := 4
  /-- FCLK in 100 MHz, 0 while its PLL is off. -/
  clk : Nat := 0
  /-- The Field is waking. -/
  waking : Bool := false
  /-- It drains (R39). -/
  draining : Bool := false
  /-- A self-test: 1 a due one waits for the Field's pictures, 2 isolated by a due one or a command, 3 by one not due. -/
  test : Nat := 0
  /-- It is throttled by temperature: steps of 100 MHz below its clock (R428). -/
  throttle : Nat := 0
  /-- PLL stop timer runs (R409). -/
  pllStop : Bool := false
  deriving DecidableEq, Repr

/-- The Yoke and power (18). -/
structure Yoke where
  /-- Grants, oldest first. -/
  grants : List Grant := []
  /-- Waiting requests, oldest first. -/
  reqs : List YReq := []
  /-- Grants being recalled, by context key (R424). -/
  recalls : List Nat := []
  /-- Ramp costs waiting, oldest first. -/
  ramp : List Ramp := []
  /-- CAL (R418). -/
  cal : Nat := 64
  /-- Fields at 1.8 GHz (R425). -/
  fast : List Nat := []
  /-- Fields' states; one not listed is as at reset. -/
  field : Tab FieldSt := []
  /-- Uncore level PL0 to PL4 (R411). -/
  pl : Nat := 0
  /-- Every GPIO is an input: since PL4, until PL0 (R502). -/
  gpioOff : Bool := false
  /-- The level a wake is going to. -/
  wake : Option Nat := none
  /-- PLLs unlocked: 0-7 Fields, 8 uncore, 9 DRAM, 10-11 network quads, 12 Baulk, 13-14 USB4 (R409). -/
  unlocked : List Nat := []
  /-- PLLs other than the Fields' that run. -/
  plls : List Nat := []
  /-- PLLs in the 10 µs after their last release. -/
  pllIdle : List Nat := []
  /-- The envelope a change goes to, and its step (R415). -/
  change : Option (Nat × Nat) := none
  /-- Fallow tasks running, by task number and unit: task × 32 + unit (R426). -/
  fallow : List Nat := []
  /-- Temperature throttling is on (R428). -/
  hot : Bool := false
  deriving DecidableEq, Repr

/-- A Baulk port (21). -/
structure BPort where
  /-- UP. -/
  up : Bool := false
  /-- Next sequence number to send. -/
  tx : Nat := 0
  /-- Next sequence number expected. -/
  rx : Nat := 0
  /-- Frames sent and not acknowledged: (sequence number, type, body) (R477). -/
  replay : List (Nat × Nat × List Byte) := []
  /-- Consecutive replays of one frame, and its sequence number (R478). -/
  nreplay : Nat := 0
  /-- See `nreplay`. -/
  naked : Nat := 0
  /-- Credit in bytes at the peer. -/
  credit : Nat := 0
  /-- Who waits for the answer to a frame: (sequence number, work number or context, kind 0 load, 1 SIGNAL, 2 FLUSH). -/
  wait : List (Nat × Nat × Nat) := []
  deriving DecidableEq, Repr

/-- The Baulk interface, the board current pool and BK_SYNC (21). -/
structure Baulk where
  /-- Ports B0 to B2. -/
  port : Tab BPort := []
  /-- Generations of import entries that are not 0 (R479). -/
  gen : Tab Nat := []
  /-- Devices whose heartbeats are heard: BAULK_ID. -/
  present : List Nat := []
  /-- Shares as the leader knows them, by BAULK_ID. -/
  shares : Tab Nat := []
  /-- YOKE_CEILINGs reported, by BAULK_ID. -/
  ceil : Tab Nat := []
  /-- Requests not yet met, oldest first: BAULK_ID, cu. -/
  want : List (Nat × Nat) := []
  /-- A new leader gathers (R484). -/
  gather : Bool := false
  /-- The last difference a follower steered by, ns (R485). -/
  diff : Int := 0
  /-- The rate steered by BK_SYNC. -/
  steer : Int := 0
  deriving DecidableEq, Repr

/-- A PV16 completion in the hold (R490). -/
structure PvCqe where
  /-- CODE. -/
  code : Nat
  /-- QUEUE. -/
  queue : Nat
  /-- TAG. -/
  tag : Nat
  /-- RESULT. -/
  result : Nat
  /-- PICTURE. -/
  pic : Word
  /-- CONCEALED, IDR, STUBBLE. -/
  flags : Nat
  deriving DecidableEq, Repr

/-- The queues of a PV16 holding (22); its registers are in the BAR0 bank. -/
structure Pv where
  /-- Producer slot and lap of the completion ring. -/
  tail : Nat := 0
  /-- See `tail`. -/
  tailLap : Bool := true
  /-- Consumer slot (CQ_HEAD as accepted). -/
  head : Nat := 0
  /-- The completion hold. -/
  hold : List PvCqe := []
  /-- Dispatch is stopped (R138). -/
  stop : Bool := false
  /-- SQ heads by queue. -/
  sqHead : Tab Nat := []
  /-- SQ tails as accepted. -/
  sqTail : Tab Nat := []
  /-- SQ phase of the next descriptor, by queue; absent 1. -/
  sqPhase : Tab Bool := []
  /-- Queues whose head descriptor was read with the wrong PHASE (R134). -/
  retry : List Nat := []
  /-- Descriptors read again with the right PHASE and not taken, by queue. -/
  fetched : Tab (List Word) := []
  /-- Queues stopped by a failed read (R50). -/
  halt : List Nat := []
  /-- Round-robin: pass 1 to 15, queue, and descriptors left in the visit (R492). -/
  pass : Nat := 1
  /-- See `pass`. -/
  visit : Nat := 0
  /-- See `pass`. -/
  left : Nat := 0
  deriving DecidableEq, Repr

end Sys2Proof.Machine
end

