-- ==== Sys2Proof/Machine/StateVid.lean ====
section
/-! DEFINITION. The parts of the state that channels keep: channel blocks and state (08), picture buffers (08, 09),
timestamps, long-term references, lookahead (08, 11), rate control (12), ladder and multiplex groups (12, 13). -/

namespace Sys2Proof.Machine

/-- Channel states (R173). -/
inductive ChSt where
  | opened | running | sourceLost | draining | failed
  deriving DecidableEq, Repr

/-- Reference marks (R183). -/
inductive Mark where
  | none | short | long
  deriving DecidableEq, Repr

/-- A channel block (R107). -/
structure Blk where
  /-- DIR: 0 decode, 1 encode, 2 transcode pair. -/
  dir : Nat
  /-- CODEC. -/
  codec : Nat
  /-- CLASS is live-link. -/
  live : Bool
  /-- PROFILE. -/
  profile : Nat
  /-- LEVEL. -/
  level : Nat
  /-- CHROMA. -/
  chroma : Nat
  /-- DEPTH. -/
  depth : Nat
  /-- WIDTH. -/
  width : Nat
  /-- HEIGHT. -/
  height : Nat
  /-- RATE_NUM. -/
  num : Nat
  /-- RATE_DEN. -/
  den : Nat
  /-- PRESET. -/
  preset : Nat
  /-- RC_MODE. -/
  rcMode : Nat
  /-- LOOKAHEAD. -/
  look : Nat
  /-- POOL. -/
  pool : Nat
  /-- BITRATE. -/
  bitrate : Nat
  /-- MAXRATE. -/
  maxrate : Nat
  /-- BUFSIZE. -/
  bufsize : Nat
  /-- GOP. -/
  gop : Nat
  /-- FIFO_CELLS. -/
  fifoCells : Nat
  /-- HOME as given. -/
  home : Nat
  /-- SPAN. -/
  span : Nat
  /-- TIER. -/
  tier : Nat
  deriving DecidableEq, Repr

/-- A picture buffer, a plain buffer, or an empty picture (R183, R226). -/
structure Buf where
  /-- Holding. -/
  hold : Nat
  /-- Channel whose pool it is of; none for a plain buffer, an empty picture and after CLOSED (R176). -/
  chan : Option Nat := none
  /-- It is a picture (TYPE 2) rather than a plain buffer (TYPE 3). -/
  pic : Bool := true
  /-- An empty picture: no storage (R226). -/
  empty : Bool := false
  /-- Bytes charged to the holding while it stands alone. -/
  size : Nat := 0
  /-- Device-memory offset of a plain buffer. -/
  addr : Nat := 0
  /-- Depth its samples are stored at. -/
  depth : Nat := 8
  /-- Reference mark. -/
  mark : Mark := .none
  /-- OUTPUT_PENDING. -/
  outp : Bool := false
  /-- Position in output order, counted over the whole stream (R200). -/
  order : Int := 0
  /-- TIME of the item that brought its first byte (R449). -/
  t0 : DWord := 0
  /-- The HELD pin. -/
  held : Bool := false
  /-- Valid handles (R183). -/
  handles : Nat := 0
  /-- ROWS state (R81). -/
  rows : Bool := false
  /-- Rows published (R201). -/
  rowsPub : Nat := 0
  /-- It is a gleaned substitute (R233). -/
  subst : Bool := false
  /-- BUF_WIDTH, BUF_HEIGHT, BUF_CHROMA, BUF_DEPTH, COLOUR, HDR_PEAK, SDR_WHITE as written, by id (R304). -/
  par : Tab Nat := []
  /-- Header. -/
  hdr : Hdr := {}
  /-- Planes of samples at the stored depth: rows of samples; luma, then chroma as stored (R178). -/
  planes : List (List (List Nat)) := []
  /-- Motion field records (R213), 16 bytes each. -/
  motion : List (List Byte) := []
  deriving DecidableEq, Repr

/-- A long-term slot (R190, R191). -/
structure Ltr where
  /-- Buffer. -/
  buf : Nat
  /-- Picture counter of its picture. -/
  counter : Word
  /-- Acknowledged. -/
  ack : Bool := false
  deriving DecidableEq, Repr

/-- A source picture accepted for encoding (R189, R240): in the lookahead, or read in place with LOOKAHEAD 0. -/
structure LkPic where
  /-- Picture counter. -/
  counter : Word
  /-- Source buffer, until it is copied; with LOOKAHEAD 0 until it is coded. -/
  src : Option Nat
  /-- The source's header. -/
  hdr : Hdr := {}
  /-- Depth of the source's samples. -/
  depth : Nat := 8
  /-- The source window differs from the channel's size (R239). -/
  resized : Bool := false
  /-- A long-term slot that PLTR.SET gave it. -/
  ltrSet : Option Nat := none
  /-- PLTR.LOSS makes it the recovery picture (R191). -/
  loss : Bool := false
  /-- FORCE_IDR took it. -/
  idr : Bool := false
  /-- The outstanding instruction that brought it. -/
  work : Nat
  /-- DTB when its first source row was published (R449). -/
  t0 : DWord := 0
  /-- Its pre-search results, once its source is there (R244). -/
  pre : Option PreIn := none
  /-- Luma samples of its display window, row by row (R312). -/
  luma : List Nat := []
  /-- MEAN and FADE of R311. -/
  mean : Nat := 0
  /-- See `mean`. -/
  fade : Bool := false
  deriving DecidableEq, Repr

/-- A CTU row, or a macroblock row of the PV16 model, coded and kept (R271, R313). -/
structure RowRec where
  /-- Coded bits. -/
  bits : Nat
  /-- Step index q; quantiser index j under the PV16 model. -/
  q : Nat
  /-- BUDGET of R313. -/
  budget : Nat
  /-- OVER of R313. -/
  overBy : Int
  /-- STEP of R313. -/
  step : Nat
  /-- RETRIED. -/
  retried : Bool
  /-- STUBBLE. -/
  stubble : Bool
  /-- Coded bits of each unit. -/
  units : List Nat
  /-- Motion records of the row's blocks (R309). -/
  motion : List (List Byte)
  deriving DecidableEq, Repr

/-- A band of a picture being coded (R256, R276): the whole picture when one Field codes it. -/
structure Band where
  /-- Its Field. -/
  field : Nat
  /-- First row. -/
  first : Nat
  /-- Rows. -/
  count : Nat
  /-- Its share of T. -/
  t : Nat
  /-- Its share of L. -/
  l : Nat
  /-- Its share of L_lvl. -/
  llvl : Nat
  /-- Rows coded and kept, first row first. -/
  rows : List RowRec := []
  /-- Step index of the next row. -/
  q : Nat
  /-- The ceiling step has been taken: q never falls (R271). -/
  ceil : Bool := false
  /-- The row after `rows` is coded again (R272). -/
  retry : Bool := false
  /-- Rows from here on are coded in stubble mode. -/
  stubble : Bool := false
  /-- Retries used. -/
  retries : Nat := 0
  /-- DTB when its latest row ended. -/
  tRow : DWord := 0
  deriving DecidableEq, Repr

/-- A row that waits for a cell or for room (R12, R517): its report, the head of its chain and the cells it has. -/
structure Stall where
  /-- The report. -/
  row : RowIn
  /-- Head cell. -/
  head : Option Nat := none
  /-- Cells taken. -/
  cells : Nat := 0
  deriving DecidableEq, Repr

/-- The picture being coded (12). -/
structure Cur where
  /-- Which source picture. -/
  pic : LkPic
  /-- Picture type: 0 I, 1 P, 2 B. -/
  ptype : Nat
  /-- B depth, 0 for I and P. -/
  depth : Nat
  /-- It is an IDR. -/
  idr : Bool
  /-- It predicts only from a long-term slot's picture (R191). -/
  ltrRef : Bool
  /-- It takes a reference mark. -/
  isRef : Bool
  /-- References per block (R307). -/
  nref : Nat
  /-- Complexity c (R261). -/
  c : Nat
  /-- Row complexities. -/
  rowC : List Nat
  /-- Budget T, none where no T exists (R275). -/
  t : Option Nat
  /-- Hard limit L. -/
  l : Nat
  /-- Whether L includes an HRD bound, and the buffer fullness in bits just before the removal (R265). -/
  hrd : Bool
  /-- See `hrd`. -/
  cpb : Int
  /-- Planned step index q_plan. -/
  qplan : Nat
  /-- QP_MIN and QP_MAX in steps of q, and FILLER, as they stood when the picture was budgeted (R260). -/
  qmin : Nat
  /-- See `qmin`. -/
  qmax : Nat
  /-- See `qmin`. -/
  filler : Bool
  /-- Rate budgeted at, kbit/s. -/
  rate : Nat
  /-- DTB when its time budget started (R267). -/
  start : DWord
  /-- The time budget has ended. -/
  timeout : Bool := false
  /-- Bands, top first. -/
  bands : List Band
  /-- Bands already committed whole. -/
  front : Nat := 0
  /-- A row that waits, with its band. -/
  stall : Option Stall := none
  /-- Buffer of the reconstruction; none while it waits for one (R185). -/
  buf : Option Nat := none
  /-- Stuffing bits (R266). -/
  stuff : Nat := 0
  deriving DecidableEq, Repr

/-- A section of STATS for the latest picture (R308). -/
structure StatSec where
  /-- TYPE. -/
  typ : Nat
  /-- RECSIZE. -/
  size : Nat
  /-- COLS. -/
  cols : Nat
  /-- ROWS. -/
  rows : Nat
  /-- Records. -/
  recs : List (List Byte)
  deriving DecidableEq, Repr

/-- A picture coded and committed that an instruction is still to report (R240, R284). -/
structure Coded where
  /-- Picture counter. -/
  counter : Word
  /-- Status code (R275). -/
  code : Nat
  /-- Bits [31:16] of the status word. -/
  bits : Nat
  /-- PTS. -/
  pts : DWord
  /-- Picture type. -/
  ptype : Nat
  /-- NREF. -/
  nref : Nat
  /-- STATS sections by IMM bit. -/
  secs : Tab (List StatSec)
  /-- CHN_RC_STATE. -/
  rcState : Word
  /-- CHN_RC_CPB. -/
  cpb : Nat
  /-- It counts in CHN_RC_EVENTS as stubble, as HRD violation. -/
  evStub : Bool
  /-- See `evStub`. -/
  evHrd : Bool
  deriving DecidableEq, Repr

/-- A channel's rate-control state (12). -/
structure Rc where
  /-- Model coefficients a_t of I, P, B; none before the first picture of the type (R263). -/
  a : Tab Nat := []
  /-- Cost e of the most recent coded P picture (R262). -/
  eP : Option Nat := none
  /-- Pictures and bits coded since SOPEN or the last change of rate (R262). -/
  pics : Nat := 0
  /-- See `pics`. -/
  bits : Nat := 0
  /-- Buffer fullness just before the next removal, in bits × RATE_NUM; none before the first picture (R265). -/
  cpb : Option Int := none
  /-- Fill rate in force, kbit/s (R264). -/
  fill : Nat := 0
  /-- The rate of the last picture budgeted. -/
  rate : Nat := 0
  /-- Assigned multiplex rate (R278). -/
  muxRate : Option Nat := none
  /-- Multiplex weight of the last tick, and ticks without a picture (R279). -/
  muxW : Nat := 0
  /-- See `muxW`. -/
  muxIdle : Nat := 0
  /-- Complexities of the last pictures, newest first (CQ, R263). -/
  hist : List Nat := []
  /-- PV16 estimates W_t of I, P, B (R281). -/
  w : List Nat := []
  /-- PV16 virtual fullness d_t, signed (R282). -/
  d : List Int := []
  /-- PV16 pool G not yet spent (R280). -/
  pool : Int := 0
  /-- Pictures of the GOP still to code: I, P, B (R280, R281). -/
  gopI : Nat := 0
  /-- See `gopI`. -/
  gopP : Nat := 0
  /-- See `gopI`. -/
  gopB : Nat := 0
  deriving DecidableEq, Repr

/-- Timestamp extension state of one kind (R194). -/
structure Ts where
  /-- Previous raw value p. -/
  raw : Nat
  /-- Previous extended value e. -/
  ext : DWord
  deriving DecidableEq, Repr

/-- A channel (08). -/
structure Chan where
  /-- Holding. -/
  hold : Nat
  /-- The channel block. -/
  blk : Blk
  /-- State (R173); CLOSED channels are not listed. -/
  st : ChSt := .opened
  /-- A picture has begun (R174). -/
  begun : Bool := false
  /-- Object slot INDEX of its handle. -/
  slot : Nat
  /-- Home Field (R68). -/
  home : Nat
  /-- Home asked for by SPARAM HOME. -/
  homeSet : Option Nat := none
  /-- Home asked for by the Drill that issued the instruction of the next picture. -/
  homeIss : Option Nat := none
  /-- Span Fields left out of the picture in progress (R205, R257). -/
  left : List Nat := []
  /-- Picture counter (R192). -/
  counter : Word := 0
  /-- Parameters that differ from their defaults, by id (R260, R304). -/
  par : Tab Nat := []
  /-- PTS extension. -/
  pts : Option Ts := none
  /-- DTS extension. -/
  dts : Option Ts := none
  /-- Long-term slots 0 to 3. -/
  ltr : Tab Ltr := []
  /-- PLTR.SET awaits the next ENC.PIC. -/
  ltrSet : Option Nat := none
  /-- PLTR.LOSS awaits the next ENC.PIC. -/
  loss : Bool := false
  /-- FORCE_IDR awaits the next picture. -/
  idr : Bool := false
  /-- Lookahead, oldest first. -/
  look : List LkPic := []
  /-- Pictures accepted, up to LOOKAHEAD (R240). -/
  filled : Nat := 0
  /-- Counter of the last IDR coded. -/
  lastIdr : Option Word := none
  /-- Counter of the newest picture coded that is no B picture. -/
  top : Option Word := none
  /-- Pictures committed that an instruction is still to report, oldest first. -/
  coded : List Coded := []
  /-- Mean luma of the last three pictures searched, newest first (R311). -/
  means : List Nat := []
  /-- The picture being coded. -/
  cur : Option Cur := none
  /-- Rate control. -/
  rc : Rc := {}
  /-- Ladder group and rung. -/
  grp : Option (Nat × Nat) := none
  /-- Multiplex group. -/
  mux : Option Nat := none
  /-- Analysis-area pages (R245). -/
  pages : Nat := 0
  /-- The picture of the last ANALYZE and its results (R246). -/
  anal : Option (Nat × PreIn) := none
  /-- Missing-picture identity to its substitute (R233). -/
  subs : Tab Nat := []
  /-- The last picture returned: its header and planes (R225). -/
  last : Option (Hdr × List (List (List Nat))) := none
  /-- Latest instruction kind for STATS: 0 ENC, 1 DEC, 2 ANALYZE (R305). -/
  statSrc : Option Nat := none
  /-- STATS sections of the latest picture, by IMM bit. -/
  statSec : Tab (List StatSec) := []
  /-- COUNTER of the STATS header. -/
  statCnt : Word := 0
  /-- PTS of the STATS header. -/
  statPts : DWord := 0
  /-- PTYPE of the STATS header. -/
  statType : Nat := 0
  /-- WIDTH and HEIGHT of the STATS header. -/
  statW : Nat := 0
  /-- See `statW`. -/
  statH : Nat := 0
  /-- NREF of the STATS header. -/
  statNref : Nat := 0
  /-- Gap markers received, saturating (QUERY 0x0013). -/
  gaps : Nat := 0
  /-- The picture in decode has reached its cycle ceiling (R221). -/
  ceil : Bool := false
  deriving DecidableEq, Repr

/-- The picture that the rungs of a ladder group are coding (R288, R290). -/
structure GrpPic where
  /-- Which source picture. -/
  pic : LkPic
  /-- Picture type. -/
  ptype : Nat
  /-- B depth. -/
  depth : Nat
  /-- It is an IDR. -/
  idr : Bool
  /-- A later picture refers to it. -/
  isRef : Bool
  /-- Pictures behind it in the lookahead: complexity, type, depth (R262). -/
  behind : List (Nat × Nat × Nat)
  /-- Rungs that have begun it. -/
  begun : List Nat := []
  /-- Rungs that are done with it. -/
  done : Tab Coded := []
  deriving DecidableEq, Repr

/-- A ladder group (R285). -/
structure Grp where
  /-- Holding. -/
  hold : Nat
  /-- Rungs: number to channel. -/
  rungs : Tab Nat := []
  /-- The rungs are fixed by the first ENC.LADDER (R111). -/
  fixed : Bool := false
  /-- LADDER_DEPTH (R299). -/
  deep : Bool := false
  /-- SCLOSE has issued. -/
  closing : Bool := false
  /-- The group's lookahead, oldest first (R189). -/
  look : List LkPic := []
  /-- Pictures accepted, up to RUNG0's LOOKAHEAD. -/
  filled : Nat := 0
  /-- The picture the rungs are coding. -/
  coding : Option GrpPic := none
  /-- Pictures that every rung is done with and no instruction has reported, oldest first: results by rung. -/
  coded : List (Tab Coded) := []
  deriving DecidableEq, Repr

/-- A multiplex group (R277). -/
structure Mux where
  /-- Holding. -/
  hold : Nat
  /-- Total rate in kbit/s. -/
  rate : Nat
  /-- The rate a MUX_RATE write sets at the next tick (R279). -/
  next : Option Nat := none
  /-- Member channels, ascending. -/
  members : List Nat := []
  /-- Members that take part from the last tick (R279). -/
  active : List Nat := []
  /-- Bits committed since the group opened. -/
  bits : Nat := 0
  /-- Ticks since the group opened. -/
  ticks : Nat := 0
  deriving DecidableEq, Repr

/-- Channels, buffers and groups. -/
structure Vid where
  /-- Channels that are not CLOSED, by number. -/
  chan : Tab Chan := []
  /-- Buffers by number. -/
  buf : Tab Buf := []
  /-- The next buffer number (the model's own). -/
  nextBuf : Nat := 0
  /-- Ladder groups by number 0 to 31. -/
  grp : Tab Grp := []
  /-- Multiplex groups by number 0 to 15. -/
  mux : Tab Mux := []
  deriving DecidableEq, Repr

end Sys2Proof.Machine
end

