-- ==== Sys2Proof/Machine/State.lean ====
section
/-! DEFINITION. The whole state of the ZQ9600, its state after reset, and the names of what stops a step. -/

namespace Sys2Proof.Machine

/-- Something the device sends to the outside (log 4). -/
inductive Out where
  /-- A posted write to the memory of a function's host: holding, bus address, bytes. -/
  | hostWrite (h addr : Nat) (bytes : List Byte)
  /-- The flushing read of R153 on a function's port. -/
  | flushRead (h : Nat)
  /-- An MSI-X message: holding, vector (R161). -/
  | msix (h vec : Nat)
  /-- An Unsupported Request completion to a function (R48, R49). -/
  | unsupported (h : Nat)
  /-- A request for CL2 on a port (R46). -/
  | askCl2 (p : Nat)
  /-- A frame of a network port, without its FCS (R382). -/
  | frame (p : Nat) (bytes : List Byte)
  /-- A Baulk frame: port, type, sequence number, body (R477). -/
  | baulk (p typ seq : Nat) (body : List Byte)
  /-- A message on the Baulk bus: kind 0 heartbeat (to all: 4; ceiling + 2048 × share), 1 request (cu wanted besides),
  2 grant (new share), 3 recall (new share); to a device; a value (R483, R484, log 51). -/
  | bus (kind dest val : Nat)
  /-- BK_SYNC driven low for 1 µs (R485). -/
  | bkSync
  /-- A voltage requested of the regulator, in mV (R415). -/
  | vout (mv : Nat)
  deriving DecidableEq, Repr

/-- The state of the block. -/
structure State where
  /-- Boot, straps, pins. -/
  sys : Sys := {}
  /-- Time. -/
  tim : Tim := {}
  /-- BAR2 registers that differ from their reset value, by BAR2 offset (R58). -/
  b2 : Tab Word := []
  /-- BAR0 registers that differ from their reset value, by holding × 2^16 + offset (R54). -/
  b0 : Tab Word := []
  /-- Registers of channels shown through CHN_SEL (R167), by channel × 2^16 + BAR0 offset. -/
  bc : Tab Word := []
  /-- Holdings 0 to 31; one not listed is as `Holding`'s defaults. -/
  hold : Tab Holding := []
  /-- The administrative role. -/
  adm : Adm := {}
  /-- USB4 ports 0 and 1. -/
  hport : Tab HPort := []
  /-- The Interrupt Gatherer. -/
  intr : Intr := {}
  /-- The Fault Collector. -/
  flt : Flt := {}
  /-- Queues and jobs. -/
  job : Jobs := {}
  /-- Channels, buffers, groups. -/
  vid : Vid := {}
  /-- Cells and FIFOs. -/
  grn : Grn := {}
  /-- DMA. -/
  dma : Dma := {}
  /-- Ingest. -/
  ing : Ing := {}
  /-- Egress. -/
  egr : Egr := {}
  /-- DRAM. -/
  drm : Drm := {}
  /-- Yoke, clocks, power levels. -/
  yoke : Yoke := {}
  /-- Baulk. -/
  baulk : Baulk := {}
  /-- PV16 holdings, by holding. -/
  pv : Tab Pv := []
  /-- What the block has sent out, newest first (log 4). -/
  out : List Out := []
  /-- What the last register read returned (log 4). -/
  readData : DWord := 0
  /-- How many free values have been taken (log 12). -/
  free : Nat := 0
  /-- The commands that wait, first in first out. -/
  pending : List Instr := []
  deriving DecidableEq, Repr

/-- What makes a step fault. -/
inductive Fault where
  /-- A DRAM event named a burst beyond the device's memory. Raised by the DRAM commands; safe. -/
  | noSuchBurst (addr : Nat)
  deriving DecidableEq, Repr

/-- What makes a step refuse. -/
inductive Refusal where
  /-- A row that has no meaning yet. Raised by `exec` only; safe. -/
  | notModelled (mnemonic : String)
  /-- The opcode has a patch routine, whose microcode the spec does not give (R461). Raised by UNASSIGNED_OPCODE;
  safe. -/
  | patchRoutine (opcode : Nat)
  /-- BOOT_MODE 0b11 with TEST_N low selects factory test, which the spec does not describe (R451). Raised by
  BOOT_START and SYSRST_N_RELEASE; safe. -/
  | factoryTest
  deriving DecidableEq, Repr

/-- The machine right after reset: the straps not sampled, no boot yet (R453, R509). R23 gives holding 0 the
administrative role and R30 its ENABLE, in the strap setting of log 7. -/
def State.reset : State :=
  { hold := [(0, { enable := true })], adm := { owner := some 0 } }

end Sys2Proof.Machine
end

