-- ==== Sys2Proof/Machine/Regs.lean ====
section
/-! DEFINITION. The register banks: addresses, reset values, access codes (R4), and the accessors every meaning uses. -/

namespace Sys2Proof.Machine

/-! BAR2 addresses (R58). -/
namespace A
abbrev admLeaseMs : Nat := 0x100
abbrev hldDramAvail : Nat := 0x108
abbrev devRsvFree : Nat := 0x10
abbrev hostpCtrl (p : Nat) : Nat := 0x200 + 0x10 * p
abbrev hostpStatus (p : Nat) : Nat := 0x204 + 0x10 * p
abbrev hostpDenied (p : Nat) : Nat := 0x208 + 0x10 * p
abbrev hostpPartial (p : Nat) : Nat := 0x20C + 0x10 * p
abbrev yokeCeiling : Nat := 0x100000
abbrev yokeEvent : Nat := 0x10000C
abbrev yokeIout : Nat := 0x100010
abbrev pwrEnvelope : Nat := 0x100100
abbrev pwrLimit : Nat := 0x100108
abbrev pwrPmbus : Nat := 0x10010C
abbrev tempStatus : Nat := 0x100180
abbrev tempCfg : Nat := 0x100184
abbrev tempEvent : Nat := 0x100188
abbrev dtbSet : Nat := 0x100208
abbrev dtbRate : Nat := 0x100210
abbrev fcCtrl : Nat := 0x200100
abbrev fcClrRefused : Nat := 0x200110
abbrev fcSafeFrames : Nat := 0x200120
abbrev igSpurious : Nat := 0x306000
abbrev igTargetRefused : Nat := 0x306004
abbrev grnSpill : Nat := 0x400000
abbrev grnEvent : Nat := 0x40000C
abbrev grnErr : Nat := 0x400010
abbrev dmaRingOwner (r : Nat) : Nat := 0x500000 + 4 * r
abbrev drcCfg : Nat := 0x600000
abbrev drcCtrl : Nat := 0x600004
abbrev drcLatTarget (r : Nat) : Nat := 0x600040 + 4 * r
abbrev drcEvent : Nat := 0x600104
abbrev drcErr : Nat := 0x600108
abbrev drcRef : Nat := 0x60010C
abbrev drcDiagAddr : Nat := 0x600110
abbrev drcDiagInfo : Nat := 0x600118
abbrev drcChTrain (c : Nat) : Nat := 0x600200 + 4 * c
abbrev ingQuad (q : Nat) : Nat := 0x800000 + 4 * q
abbrev ingPortCtrl (p : Nat) : Nat := 0x800100 + 0x20 * p
abbrev ingPortStatus (p : Nat) : Nat := 0x800104 + 0x20 * p
abbrev ingPortFrames (p : Nat) : Nat := 0x800108 + 0x20 * p
abbrev ingPortBytes (p : Nat) : Nat := 0x800110 + 0x20 * p
abbrev ingPortErr (p : Nat) : Nat := 0x800118 + 0x20 * p
abbrev ingPause : Nat := 0x800200
abbrev ingGraph : Nat := 0x800204
abbrev ingWrRefused : Nat := 0x800208
abbrev ingMisdirect : Nat := 0x80020C
abbrev ingExcCfg (h : Nat) : Nat := 0x800400 + 0x10 * h
abbrev ingExcRate (h : Nat) : Nat := 0x800404 + 0x10 * h
abbrev ingExcDrop (h : Nat) : Nat := 0x800408 + 0x10 * h
abbrev ingNode (n : Nat) : Nat := 0x801000 + 0x10 * n
abbrev ingTrans (t : Nat) : Nat := 0x801400 + 8 * t
abbrev ingT0 (i : Nat) : Nat := 0x802000 + 0x10 * i
abbrev ingTblCmd : Nat := 0x803000
abbrev ingTblData : Nat := 0x803040
abbrev ingMeter (m : Nat) : Nat := 0x804000 + 0x10 * m
abbrev egrPort (p : Nat) : Nat := 0xA00000 + 0x20 * p
abbrev egrSvc (v : Nat) : Nat := 0xA00100 + 0x20 * v
abbrev egrStatus : Nat := 0xA00900
abbrev egrEvent : Nat := 0xA00904
abbrev egrFlow (e : Nat) : Nat := 0xA01000 + 0x20 * e
abbrev bkPortCtrl (p : Nat) : Nat := 0xC00000 + 0x10 * p
abbrev bkPortStatus (p : Nat) : Nat := 0xC00004 + 0x10 * p
abbrev bkPortErr (p : Nat) : Nat := 0xC00008 + 0x10 * p
abbrev bkPoolCtrl : Nat := 0xC00100
abbrev bkPoolWant : Nat := 0xC00104
abbrev bkPoolStatus : Nat := 0xC00108
abbrev bkSyncCtrl : Nat := 0xC00200
abbrev bootStatus : Nat := 0xD00000
abbrev bootVersion : Nat := 0xD00004
abbrev bootPatchVersion : Nat := 0xD00008
abbrev bootEvent : Nat := 0xD00010
abbrev gpioDir : Nat := 0xD00100
abbrev gpioOut : Nat := 0xD00104
abbrev stCmd : Nat := 0xE00000
abbrev stStatus : Nat := 0xE00004
abbrev stEvent : Nat := 0xE00008
abbrev stResult (u : Nat) : Nat := 0xE00100 + 4 * u
abbrev fld (f : Nat) : Nat := 0x1000000 + 0x200000 * f
abbrev fldEvent (f : Nat) : Nat := 8 + fld f
abbrev drl (f : Nat) : Nat := 0x1000 + fld f
end A

/-! BAR0 offsets (R54, R167). -/
namespace B
abbrev fnLtol : Nat := 0x10
abbrev admqSqBase : Nat := 0x100
abbrev admqCqBase : Nat := 0x108
abbrev admqCtrl : Nat := 0x110
abbrev admqNums : Nat := 0x114
abbrev chnSel : Nat := 0x200
abbrev chnEvent : Nat := 0x20C
abbrev decCtrl : Nat := 0x218
abbrev decConcealed : Nat := 0x21C
abbrev decGleaned : Nat := 0x220
abbrev decLast : Nat := 0x224
abbrev decLastPic : Nat := 0x228
abbrev encSearch : Nat := 0x22C
abbrev rcState : Nat := 0x230
abbrev rcRate : Nat := 0x234
abbrev rcCpb : Nat := 0x238
abbrev rcEvents : Nat := 0x23C
abbrev rcRetry : Nat := 0x240
abbrev ingPkts : Nat := 0x248
abbrev ingLoss : Nat := 0x250
abbrev ingRepair : Nat := 0x254
abbrev ingPath : Nat := 0x258
abbrev ingDrop : Nat := 0x25C
abbrev egfPi (i : Nat) : Nat := 0x300 + 8 * i
abbrev egfCi (i : Nat) : Nat := 0x304 + 8 * i
abbrev rxr (i : Nat) : Nat := 0x400 + 0x10 * i
abbrev dmar (r : Nat) : Nat := 0x600 + 0x20 * r
abbrev msixCtl (v : Nat) : Nat := 0x80C + 0x10 * v
abbrev bwCtrl : Nat := 0xF00
abbrev dramCrit : Nat := 0x1030
abbrev igfSel : Nat := 0x4410
abbrev igfRefused : Nat := 0x4420
abbrev hcJobs : Nat := 0x8000
abbrev hcDma : Nat := 0x8008
abbrev hcJobfault : Nat := 0x8010
abbrev hcCancelled : Nat := 0x8014
abbrev hcYoke : Nat := 0x8018
abbrev hcAbort : Nat := 0x801C
abbrev latLast : Nat := 0x8100
abbrev latMax : Nat := 0x8104
abbrev waitYoke : Nat := 0x8110
abbrev waitDma : Nat := 0x8118
abbrev waitMem : Nat := 0x8120
abbrev waitFallow : Nat := 0x8128
end B

/-- Reset value of a BAR2 register. -/
def dflt2 (a : Nat) : Word :=
  if a = A.admLeaseMs then 1000
  else if a = 0x200 || a = 0x210 then 4
  else if a = A.yokeCeiling then 320
  else if a = A.pwrEnvelope then 0x11
  else if a = A.pwrLimit then 0x44
  else if a = A.tempCfg then 0x6E69
  else if a = A.fcCtrl then 2
  else if a = A.drcCtrl then 16
  else if 0x600040 ≤ a && a < 0x600080 then
    let r := (a - 0x600040) / 4
    if r < 8 then 2000 else if r = 10 || r = 14 then 4000 else if r = 15 then 8000 else 1000
  else if 0x800404 ≤ a && a < 0x800600 && a % 16 = 4 then 0x2007D0
  else if 0xA00000 ≤ a && a < 0xA00100 && a % 32 = 0x18 then 0x400040
  else if a = A.egrStatus then 1
  else if 0x1000000 ≤ a && a % 0x200000 = 0 then 1
  else 0

/-- Reset value of a BAR0 register, by holding × 2^16 + offset. The MSI-X mask bits' reset is PRESUMED (log 7). -/
def dflt0 (k : Nat) : Word :=
  let a := k % 0x10000
  if a = B.admqCtrl then 2
  else if a = B.chnSel then 0x100
  else if a = B.dramCrit then 1
  else if ((0x800 ≤ a && a < 0xC00) || (0x3000 ≤ a && a < 0x3040)) && a % 16 = 12 then 1
  else 0

/-- Reset value of a channel register. -/
def dfltC (_k : Nat) : Word := 0

namespace State

/-- A BAR2 register. -/
def r2 (s : State) (a : Nat) : Word := bankGet s.b2 dflt2 a
/-- Set a BAR2 register. -/
def w2 (s : State) (a : Nat) (v : Word) : State := { s with b2 := bankSet s.b2 dflt2 a v }
/-- A BAR0 register of a holding. -/
def r0 (s : State) (h a : Nat) : Word := bankGet s.b0 dflt0 (0x10000 * h + a)
/-- Set a BAR0 register. -/
def w0 (s : State) (h a : Nat) (v : Word) : State := { s with b0 := bankSet s.b0 dflt0 (0x10000 * h + a) v }
/-- A register of a channel. -/
def rch (s : State) (c a : Nat) : Word := bankGet s.bc dfltC (0x10000 * c + a)
/-- Set a register of a channel. -/
def wch (s : State) (c a : Nat) (v : Word) : State := { s with bc := bankSet s.bc dfltC (0x10000 * c + a) v }

/-- OR bits into a BAR2 register. -/
def or2 (s : State) (a : Nat) (v : Word) : State := s.w2 a (s.r2 a ||| v)
/-- OR bits into a channel register. -/
def orch (s : State) (c a : Nat) (v : Word) : State := s.wch c a (s.rch c a ||| v)
/-- Replace a field of a BAR2 register. -/
def put2 (s : State) (a lo len v : Nat) : State := s.w2 a (putFld (s.r2 a) lo len v)
/-- Replace a field of a BAR0 register. -/
def put0 (s : State) (h a lo len v : Nat) : State := s.w0 h a (putFld (s.r0 h a) lo len v)
/-- Replace a field of a channel register. -/
def putch (s : State) (c a lo len v : Nat) : State := s.wch c a (putFld (s.rch c a) lo len v)
/-- Count in an event counter field of a BAR2 register (R444). -/
def cnt2 (s : State) (a lo len : Nat) : State := s.w2 a (evInc (s.r2 a) lo len)
/-- Count in a BAR0 event counter of 31 bits. -/
def cnt0 (s : State) (h a : Nat) : State := s.w0 h a (evInc31 (s.r0 h a))
/-- Count in an event counter field of a channel register. -/
def cntch (s : State) (c a lo len : Nat) : State := s.wch c a (evInc (s.rch c a) lo len)
/-- Count `n` in an event counter field of a channel register. -/
def addch (s : State) (c a lo len n : Nat) : State := s.wch c a (evAdd (s.rch c a) lo len n)
/-- A 64-bit value of a BAR2 pair. -/
def q2 (s : State) (a : Nat) : DWord := joinW (s.r2 (a + 4)) (s.r2 a)
/-- Set a BAR2 pair. -/
def wq2 (s : State) (a : Nat) (v : DWord) : State := (s.w2 a (loW v)).w2 (a + 4) (hiW v)
/-- A 64-bit value of a BAR0 pair. -/
def q0 (s : State) (h a : Nat) : DWord := joinW (s.r0 h (a + 4)) (s.r0 h a)
/-- Set a BAR0 pair. -/
def wq0 (s : State) (h a : Nat) (v : DWord) : State := (s.w0 h a (loW v)).w0 h (a + 4) (hiW v)
/-- A 64-bit value of a channel pair. -/
def qch (s : State) (c a : Nat) : DWord := joinW (s.rch c (a + 4)) (s.rch c a)
/-- Set a channel pair. -/
def wqch (s : State) (c a : Nat) (v : DWord) : State := (s.wch c a (loW v)).wch c (a + 4) (hiW v)
/-- Add to a 64-bit traffic counter (R444: it wraps). -/
def addq2 (s : State) (a n : Nat) : State := s.wq2 a (s.q2 a + w64 n)
/-- See `addq2`. -/
def addq0 (s : State) (h a n : Nat) : State := s.wq0 h a (s.q0 h a + w64 n)
/-- See `addq2`. -/
def addqch (s : State) (c a n : Nat) : State := s.wqch c a (s.qch c a + w64 n)

/-- Something sent to the outside (log 4). -/
def emit (s : State) (o : Out) : State := { s with out := o :: s.out }

/-- Holding `h`. -/
def hd (s : State) (h : Nat) : Holding := tgetD s.hold h {}
/-- Set a holding. -/
def setHd (s : State) (h : Nat) (x : Holding) : State := { s with hold := tset s.hold h x }
/-- Change a holding. -/
def modHd (s : State) (h : Nat) (f : Holding → Holding) : State := s.setHd h (f (s.hd h))
/-- USB4 port `p`. -/
def hp (s : State) (p : Nat) : HPort := tgetD s.hport p {}
/-- Change a USB4 port. -/
def modHp (s : State) (p : Nat) (f : HPort → HPort) : State := { s with hport := tset s.hport p (f (s.hp p)) }
/-- Field `f`. -/
def fs (s : State) (f : Nat) : FieldSt := tgetD s.yoke.field f {}
/-- Change a Field. -/
def modFs (s : State) (f : Nat) (g : FieldSt → FieldSt) : State :=
  { s with yoke := { s.yoke with field := tset s.yoke.field f (g (s.fs f)) } }
/-- Take a free value: the next value of `Config.freeValue` (log 12). -/
def takeFree (s : State) : DWord × State := (Config.freeValue s.free, { s with free := s.free + 1 })

/-- The holding is ACTIVE (R21). -/
def active (s : State) (h : Nat) : Bool := (s.hd h).st == .active
/-- The holding is native (R28). -/
def native (s : State) (h : Nat) : Bool := !(s.hd h).pv

end State

/-- A row of the access table: registers at `base + i × stride`, `i < count`; the mask of its RW bits and of its W1C
bits. A W1C bit 31 is the SAT of counters (R445). -/
structure RegRow where
  /-- First offset. -/
  base : Nat
  /-- Distance. -/
  stride : Nat := 4
  /-- How many. -/
  count : Nat := 1
  /-- RW bits. -/
  rw : Nat := 0
  /-- W1C bits. -/
  w1c : Nat := 0
  deriving DecidableEq, Repr

/-- The SAT bit. -/
def satBit : Nat := 0x80000000

/-- The BAR2 registers that REGISTER_WRITE writes by their access codes. -/
def rows2 : List RegRow :=
  [ { base := 0x100, rw := 0xFFFF }, { base := 0x200, stride := 0x10, count := 2, rw := 7 },
    { base := 0x204, stride := 0x10, count := 2, w1c := 0x60 },
    { base := 0x208, stride := 0x10, count := 2, w1c := satBit },
    { base := 0x20C, stride := 0x10, count := 2, w1c := satBit },
    { base := 0x10000C, w1c := 0xFF }, { base := 0x100108, rw := 0x77 }, { base := 0x10010C, rw := 0x7F },
    { base := 0x100184, rw := 0xFFFF }, { base := 0x100188, w1c := 3 }, { base := 0x100210, rw := 0xFFFFFFFF },
    { base := 0x200110, w1c := satBit }, { base := 0x306000, count := 2, w1c := satBit },
    { base := 0x40000C, w1c := 0x3F }, { base := 0x400010, w1c := satBit } ] ++
  [ { base := 0x600004, rw := 0xFF }, { base := 0x600040, count := 16, rw := 0xFFFF },
    { base := 0x600104, w1c := 0x1F }, { base := 0x600108, count := 2, w1c := satBit },
    { base := 0x800100, stride := 0x20, count := 8, rw := 0x1F6 },
    { base := 0x800104, stride := 0x20, count := 8, w1c := 0xF00 },
    { base := 0x800118, stride := 0x20, count := 8, w1c := satBit },
    { base := 0x800204, rw := 0x3F }, { base := 0x800208, count := 2, w1c := satBit },
    { base := 0x800400, stride := 0x10, count := 32, rw := 0x07FF07FF },
    { base := 0x800404, stride := 0x10, count := 32, rw := 0xFFFFFF },
    { base := 0x800408, stride := 0x10, count := 32, w1c := satBit },
    { base := 0x803040, count := 16, rw := 0xFFFFFFFF } ] ++
  [ { base := 0xA00000, stride := 0x20, count := 8, rw := 1 },
    { base := 0xA00008, stride := 0x20, count := 8, rw := 0xFFFFFFFF },
    { base := 0xA0000C, stride := 0x20, count := 8, rw := 0xFFFF },
    { base := 0xA00010, stride := 0x20, count := 8, rw := 0xFFFFFFFF },
    { base := 0xA00014, stride := 0x20, count := 8, rw := 0xFFFFFFFF },
    { base := 0xA00018, stride := 0x20, count := 8, rw := 0x0FFF0FFF },
    { base := 0xA00100, stride := 0x20, count := 64, rw := 0x3FFF3F },
    { base := 0xA00104, stride := 0x20, count := 64, rw := 0xFFFFFFFF },
    { base := 0xA00108, stride := 0x20, count := 64, rw := 0xFFFFFFFF },
    { base := 0xA0010C, stride := 0x20, count := 64, rw := 0xFFFFFFFF },
    { base := 0xA00110, stride := 0x20, count := 64, rw := 0xFFFFFFFF },
    { base := 0xA00904, w1c := 7 }, { base := 0xA01018, stride := 0x20, count := 256, w1c := satBit } ] ++
  [ { base := 0xC00004, stride := 0x10, count := 3, w1c := 0x700 },
    { base := 0xC00008, stride := 0x10, count := 3, w1c := satBit },
    { base := 0xC00100, rw := 0x1FFF0001 }, { base := 0xC00108, w1c := 0xC000 },
    { base := 0xC00200, rw := 0xFFFF0003 }, { base := 0xD00010, w1c := 0xF },
    { base := 0xD00100, count := 2, rw := 0xFF }, { base := 0xE00000, rw := 0x1F07 }, { base := 0xE00008, w1c := 7 },
    { base := 0x1000008, stride := 0x200000, count := 8, w1c := 3 },
    { base := 0x1001000, stride := 0x200000, count := 8, rw := 0x13F },
    { base := 0x1001010, stride := 0x200000, count := 8, w1c := satBit } ]

/-- The BAR0 registers of a native function that REGISTER_WRITE writes by their access codes. -/
def rows0 : List RegRow :=
  [ { base := 0x10, rw := 0xFFFFF },
    { base := 0x800, stride := 0x10, count := 64, rw := 0xFFFFFFFF },
    { base := 0x804, stride := 0x10, count := 64, rw := 0xFFFFFFFF },
    { base := 0x808, stride := 0x10, count := 64, rw := 0xFFFFFFFF },
    { base := 0x80C, stride := 0x10, count := 64, rw := 1 },
    { base := 0x1030, rw := 0x1F }, { base := 0x4410, rw := 0x7FF }, { base := 0x4420, w1c := satBit },
    { base := 0x8010, count := 4, w1c := satBit } ]

/-- The registers of the channel that CHN_SEL selects. -/
def rowsC : List RegRow :=
  [ { base := 0x20C, w1c := 0xFF }, { base := 0x218, rw := 0x7FFFF }, { base := 0x21C, count := 2, w1c := satBit },
    { base := 0x22C, w1c := satBit }, { base := 0x23C, count := 2, w1c := satBit },
    { base := 0x250, count := 2, w1c := satBit }, { base := 0x25C, w1c := satBit } ]

/-- The row of an access table that an offset belongs to. -/
def findRow (rows : List RegRow) (a : Nat) : Option RegRow :=
  rows.find? fun r => r.base ≤ a && (a - r.base) % r.stride == 0 && (a - r.base) / r.stride < r.count

/-- The new value of a register written by its access codes (R4, R445): RW bits take the written value, W1C bits
written 1 clear, and a SAT written 1 clears the whole register. -/
def regWritten (r : RegRow) (old v : Word) : Word :=
  if r.w1c = satBit then (if bit v 31 then 0 else old)
  else ((old &&& ~~~ w32 r.rw) ||| (v &&& w32 r.rw)) &&& ~~~ (v &&& w32 r.w1c)

end Sys2Proof.Machine
end

