-- ==== Sys2Proof/Machine/Intr.lean ====
section
/-! DEFINITION. The Interrupt Gatherer's operations (07): firing, delivery, messages, claims. -/

namespace Sys2Proof.Machine

/-- A source as reset leaves it (IG_TARGET's reset value). -/
def srcDflt (n : Nat) : Src := if 1312 ≤ n ∧ n ≤ 1342 then { prio := 15, en := true } else {}

/-- A reserved source number, or 2047 (R156, R157). -/
def srcReserved (n : Nat) : Bool := 1343 ≤ n

namespace State

/-- Source `n`. -/
def src (s : State) (n : Nat) : Src := tgetD s.intr.src n (srcDflt n)
/-- Set source `n`. -/
def setSrc (s : State) (n : Nat) (x : Src) : State := { s with intr := { s.intr with src := tset s.intr.src n x } }
/-- The VACANT route of a holding (R159). -/
def vac (s : State) (h : Nat) : Vac := tgetD s.intr.vac h {}
/-- Set the VACANT route of a holding. -/
def setVac (s : State) (h : Nat) (x : Vac) : State := { s with intr := { s.intr with vac := tset s.intr.vac h x } }

end State

/-- One firing of a source (R160). -/
def Src.fire (x : Src) : Src :=
  let ev := Nat.min 255 (x.ev + 1)
  if Nat.max 1 x.cnt ≤ ev then { x with ev := 0, timer := false, pend := true }
  else { x with ev := ev, timer := true }

/-- A source becomes PENDING by its count or its time: the counter clears and the timer stops (R160). -/
def Src.becomePending (x : Src) : Src := { x with ev := 0, timer := false, pend := true }

/-- A firing of source `n`; a reserved source never fires (R156). -/
def State.fire (s : State) (n : Nat) : State := if srcReserved n then s else s.setSrc n (s.src n).fire

/-- The source is deliverable (R160). A device-level or holding source names the administrative role, so none is
delivered while the role is vacant (R27). -/
def deliverable (s : State) (n : Nat) (x : Src) : Bool :=
  x.pend && !x.act && !x.mask && x.en && s.active x.hold && (n < 1280 || s.adm.owner.isSome)

/-- The VACANT route of holding `h` is deliverable (R159). -/
def vacDeliverable (s : State) (h : Nat) (x : Vac) : Bool := x.pend && !x.act && s.active h && s.native h

/-- The vectors of native functions that have a deliverable source, as h × 64 + v. -/
def delivVecs (s : State) : List Nat :=
  let a := s.intr.src.foldl
    (fun l p => if deliverable s p.1 p.2 && s.native p.2.hold then insNat l (p.2.hold * 64 + p.2.vec) else l) []
  s.intr.vac.foldl (fun l p => if vacDeliverable s p.1 p.2 then insNat l (p.1 * 64 + p.2.vec) else l) a

/-- The PCI Express masks or D3hot hold a message of vector `v` of function `h` (R161). -/
def msgMasked (s : State) (h v : Nat) : Bool :=
  let x := s.hd h
  x.d3 || x.fnMask || bit (s.r0 h ((if x.pv then 0x300C else 0x80C) + v * 16)) 0

/-- Send the message of vector `v` of function `h`, or hold it (R161). -/
def sendMsg (s : State) (h v : Nat) : State :=
  if msgMasked s h v then { s with intr := { s.intr with held := insNat s.intr.held (h * 64 + v) } }
  else s.emit (.msix h v)

/-- The PV_INT_STATUS bit of a source of PV16 holding `h`: CQ at 0, channels at 8 and up (R495). -/
def pvBitOf (s : State) (h n : Nat) : Nat :=
  if n < 1024 then 0 else 8 + ((s.hd h).pvChans.findIdx (· == n - 1024))

/-- The vector of a PV_INT_STATUS bit (R495). -/
def pvVecOf (b : Nat) : Nat := if b ≤ 1 then 0 else if b < 24 then 1 else if b = 24 then 2 else 3

/-- Set a PV_INT_STATUS bit; the vector sends a message when it rises with its mask bit clear (R495). -/
def pvRaise (s : State) (h b : Nat) : State :=
  let w := s.r0 h 0x10
  if bit w b then s
  else
    let s1 := s.w0 h 0x10 (w ||| w32 (2 ^ b))
    if bit (s.r0 h 0x14) b then s1 else sendMsg s1 h (pvVecOf b)

/-- A PV16 function's sources are claimed at once on its behalf (R495). -/
def pvClaimSrcs (s : State) : State :=
  s.intr.src.foldl
    (fun t p =>
      if deliverable t p.1 p.2 && (t.hd p.2.hold).pv then
        pvRaise (t.setSrc p.1 { p.2 with pend := false, act := true }) p.2.hold (pvBitOf t p.2.hold p.1)
      else t) s

/-- The PORT (0) and ERR (1) sources of PV16 functions, claimed at once (R495). -/
def pvClaimOwn (s : State) : State :=
  s.hold.foldl
    (fun t p =>
      if p.2.pv && p.2.st == .active then
        [0, 1].foldl
          (fun u i =>
            let x := u.hd p.1
            if bit x.pvPend i && !bit x.pvAct i then
              pvRaise (u.setHd p.1 { x with pvPend := x.pvPend &&& ~~~ (BitVec.ofNat 2 (2 ^ i)),
                                            pvAct := x.pvAct ||| BitVec.ofNat 2 (2 ^ i) }) p.1 (24 + i)
            else u) t
      else t) s

/-- The PORT or ERR source of a PV16 holding fires (R495). -/
def pvFire (s : State) (h i : Nat) : State := s.modHd h fun x => { x with pvPend := x.pvPend ||| BitVec.ofNat 2 (2 ^ i) }

/-- Claims for PV16 functions, and the messages of every vector that has passed, between `s0` and `s`, from having no
deliverable source to having one (R161). -/
def settle (s0 s : State) : State :=
  let s1 := pvClaimOwn (pvClaimSrcs s)
  let before := delivVecs s0
  (delivVecs s1).foldl (fun t k => if before.contains k then t else sendMsg t (k / 64) (k % 64)) s1

/-- What a CLAIM of vector `v` by holding `h` returns: the deliverable source of highest PRIO, the lowest number of
equal ones; a VACANT route has PRIO 15 and comes first for its own number (R162, R159). Each candidate is
(priority, number, it is the VACANT route). -/
def claimPick (s : State) (h v : Nat) : Option (Nat × Nat × Bool) :=
  let cs := s.intr.vac.filterMap (fun p =>
      if p.1 = h && p.2.vec = v && vacDeliverable s h p.2 then some (15, 1280 + h, true) else none)
    ++ s.intr.src.filterMap (fun p =>
      if p.2.hold = h && p.2.vec = v && deliverable s p.1 p.2 then some (p.2.prio, p.1, false) else none)
  cs.foldl (fun best c =>
    match best with
    | none => some c
    | some b => if b.1 < c.1 || (b.1 = c.1 && c.2.1 < b.2.1) then some c else some b) none

/-- A VACANT event sets the bit of HLDT_EVENT in the entries of holdings 0 and 16 and makes their route PENDING
(R41, R159). -/
def vacantEvent (s : State) : State :=
  [0, 16].foldl
    (fun t h => (t.modHd h fun x => { x with events := x.events ||| 0b10000#5 }).setVac h { t.vac h with pend := true }) s

/-- Set bits of HLDT_EVENT and raise the holding source (R41). -/
def holdEvent (s : State) (h : Nat) (b : BitVec 5) : State :=
  (s.modHd h fun x => { x with events := x.events ||| b }).fire (1280 + h)

/-- An allocation failed against a quota: QUOTA_HIT (HLDT_EVENT). -/
def quotaHit (s : State) (h : Nat) : State := holdEvent s h 0b01000#5

/-- A channel event: the bits of CHN_EVENT, then source 1024 + c (R177, R155). -/
def chanEvent (s : State) (c b : Nat) : State := (s.orch c B.chnEvent (w32 (2 ^ b))).fire (1024 + c)

/-- Bits of a BAR2 event register set, then its device-level source (R155). -/
def devEvent (s : State) (a b n : Nat) : State := (s.or2 a (w32 (2 ^ b))).fire n

/-- A fault source fires; it is recorded at the end of the step (R434). -/
def State.raise (s : State) (f : Fire) : State := { s with flt := { s.flt with fired := s.flt.fired ++ [f] } }

/-- The administrative role is vacant from now on (R24): its owner is remembered for R27, and VACANT is raised. -/
def roleVacant (s : State) : State :=
  match s.adm.owner with
  | none => s
  | some h => vacantEvent { s with adm := { s.adm with owner := none, prev := some h, lease := false } }

end Sys2Proof.Machine
end

