-- ==== Sys2Proof/Machine/Cells.lean ====
section
/-! DEFINITION. The Granary's operations (15): cells, chains, references, and stream FIFOs. -/

namespace Sys2Proof.Machine

/-- The NEXT of a last cell (R345). -/
def lastCell : Nat := 0x7FFFFF

/-- Every cell: on chip and spill (R343). -/
def totalCells (s : State) : Nat := 65536 + fld (s.r2 A.grnSpill) 0 7 * 65536

/-- Cells charged to a holding (R347). -/
def usedCells (s : State) (h : Nat) : Nat := (s.grn.cells.filter fun p => p.2.hold == h).length

/-- Free cells. -/
def freeCells (s : State) : Nat := totalCells s - s.grn.cells.length

/-- A holding's cell minimum in cells; a MIN above MAX acts as MAX (HLDT_QUOTA_CELL). -/
def cellMin (x : Holding) : Nat := Nat.min x.qMin x.qMax * 256

/-- The unused minimums of every other enabled holding (R347; enabled: log 14). -/
def othersMin (s : State) (h : Nat) : Nat :=
  s.hold.foldl (fun n p => if p.1 ≠ h && p.2.enable then n + (cellMin p.2 - usedCells s p.1) else n) 0

/-- An allocation of one cell for the holding succeeds (R347). -/
def cellOk (s : State) (h : Nat) : Bool :=
  let u := usedCells s h
  let x := s.hd h
  decide (u < x.qMax * 256) && decide (0 < freeCells s) &&
    (decide (u < cellMin x) || decide (othersMin s h < freeCells s))

/-- A failed allocation sets EXHAUSTED when no cell is free, HOLD_MAX otherwise (R347), and raises 1319 (R368). -/
def cellFail (s : State) : State := devEvent s A.grnEvent (if freeCells s = 0 then 0 else 1) 1319

/-- Set the Granary's cells. -/
def State.setCells (s : State) (c : Tab Cell) : State := { s with grn := { s.grn with cells := c } }

/-- Take the lowest-numbered free cell for a holding (R346). -/
def takeCell (s : State) (h : Nat) : Option (Nat × State) :=
  if cellOk s h then
    match lowestFree s.grn.cells 0 (totalCells s) with
    | some c =>
      some (c, s.setCells (tset s.grn.cells c { next := lastCell, head := false, alloc := false, refs := 0, hold := h }))
    | none => none
  else none

/-- Take `n` cells together: all or none of them (R517). The state that comes back on a failure is the one in which the
first failing cell was asked for. -/
def takeCells (s : State) (h : Nat) : Nat → (Option (List Nat)) × State
  | 0 => (some [], s)
  | n + 1 =>
    match takeCell s h with
    | none => (none, s)
    | some (c, s1) =>
      match takeCells s1 h n with
      | (some l, s2) => (some (c :: l), s2)
      | (none, s2) => (none, s2)

/-- Link taken cells into a chain with REFS 1 and ALLOCATED 1 (R348). -/
def linkChain (t : Tab Cell) (h : Nat) (head : Bool) : List Nat → Tab Cell
  | [] => t
  | c :: rest =>
    linkChain (tset t c { next := rest.head?.getD lastCell, head := head, alloc := head, refs := if head then 1 else 0,
                          hold := h }) h false rest

/-- A chain of `n` cells for a holding, or none with the event of R347. -/
def allocChain (s : State) (h n : Nat) : Option Nat × State :=
  match takeCells s h n with
  | (some l, s1) => (l.head?, s1.setCells (linkChain s1.grn.cells h true l))
  | (none, s1) => (none, cellFail s1 |>.setCells s.grn.cells)

/-- Append one more cell to the chain whose last cell is found from `head` (an Entropy Engine or a DMA descriptor fills
an item cell by cell, R517). -/
def chainLast (t : Tab Cell) (c : Nat) : Nat → Nat
  | 0 => c
  | n + 1 =>
    match tget t c with
    | some x => if x.next = lastCell then c else chainLast t x.next n
    | none => c

/-- Take one cell and put it at the end of a chain; with no chain yet it becomes the head. -/
def growChain (s : State) (h : Nat) (head : Option Nat) : Option (Nat × State) :=
  match takeCell s h with
  | none => none
  | some (c, s1) =>
    match head with
    | none => some (c, s1.setCells (linkChain s1.grn.cells h true [c]))
    | some k =>
      let l := chainLast s1.grn.cells k s1.grn.cells.length
      some (k, s1.setCells (tmod s1.grn.cells l fun x => { x with next := c }))

/-- Walk a chain and return its cells to the bitmap (R348). -/
def freeWalk (t : Tab Cell) (c : Nat) : Nat → Tab Cell
  | 0 => t
  | n + 1 =>
    match tget t c with
    | some x => if x.next = lastCell then tdel t c else freeWalk (tdel t c) x.next n
    | none => t

/-- A decrement of a chain's references (R348); on a freed chain or a cell that is no head it is a double free, which
changes nothing and is counted and faulted (R349). `who` is the requester. -/
def decRef (s : State) (c who : Nat) : State :=
  match tget s.grn.cells c with
  | some x =>
    if x.head && x.alloc then
      if x.refs ≤ 1 then s.setCells (freeWalk s.grn.cells c s.grn.cells.length)
      else s.setCells (tset s.grn.cells c { x with refs := x.refs - 1 })
    else
      (devEvent (s.cnt2 A.grnErr 0 16) A.grnEvent 2 1319).raise { src := 8, hold := some x.hold, info0 := c, info1 := who }
  | none => (devEvent (s.cnt2 A.grnErr 0 16) A.grnEvent 2 1319).raise { src := 8, info0 := c, info1 := who }

/-- An increment of a chain's references; at 255 it is refused, counted and faulted (R350). The Bool says that the
reference was taken. -/
def incRef (s : State) (c who : Nat) : Bool × State :=
  match tget s.grn.cells c with
  | some x =>
    if x.head && x.alloc then
      if x.refs ≥ 255 then
        (false, (devEvent (s.cnt2 A.grnErr 16 14) A.grnEvent 3 1319).raise
          { src := 9, hold := some x.hold, info0 := c, info1 := who })
      else (true, s.setCells (tset s.grn.cells c { x with refs := x.refs + 1 }))
    else (false, s)
  | none => (false, s)

/-- Free the first `k` cells of a chain whose REFS is 1; the next cell becomes its head (R354, log 15). -/
def freePrefix (t : Tab Cell) (c : Nat) : Nat → Nat × Tab Cell
  | 0 => (c, t)
  | k + 1 =>
    match tget t c with
    | some x =>
      if x.next = lastCell then (c, t)
      else freePrefix (tmod (tdel t c) x.next fun y => { y with head := true, alloc := true, refs := 1 }) x.next k
    | none => (c, t)

/-! Stream FIFOs. -/

/-- The input FIFO of a channel. -/
def fin_ (c : Nat) : Nat := 2 * c
/-- The output FIFO of a channel. -/
def fout (c : Nat) : Nat := 2 * c + 1

/-- A FIFO. -/
def State.fifo (s : State) (k : Nat) : Fifo := tgetD s.grn.fifo k {}
/-- Set a FIFO. -/
def State.setFifo (s : State) (k : Nat) (f : Fifo) : State :=
  { s with grn := { s.grn with fifo := tset s.grn.fifo k f } }

/-- Cells that an item of `len` payload bytes takes (R352). -/
def itemCells (len : Nat) : Nat := cdiv (16 + len) 256

/-- The cells a FIFO holds against FIFO_CELLS: gap markers never count (R351). -/
def fifoUsed (f : Fifo) : Nat :=
  (f.keep ++ f.items ++ f.unc).foldl (fun n i => if i.gap then n else n + i.cells) 0

/-- The payload of a gap marker (R352). -/
def gapBytes (g : Gap) : List Byte := toLE 4 g.items ++ toLE 4 g.bytes ++ toLE 8 0

/-- Saturation of a marker's 32-bit counts. -/
def sat32 (n : Nat) : Nat := Nat.min n 0xFFFFFFFF

/-- Add lost items and bytes to a FIFO's pending marker (R356). -/
def addPending (f : Fifo) (items bytes : Nat) (t : DWord) : Fifo :=
  match f.pend with
  | some g => { f with pend := some { g with items := sat32 (g.items + items), bytes := sat32 (g.bytes + bytes) } }
  | none => { f with pend := some { items := sat32 items, bytes := sat32 bytes, time := t } }

/-- The item of a gap marker. -/
def gapItem (g : Gap) (cell : Nat) : Item :=
  { cell := cell, cells := 1, len := 16, gap := true, reset := g.reset, time := g.time, items := g.items, bytes := g.bytes,
    data := gapBytes g }

/-- A committed marker sets CHN_EVENT.GAP once and counts for QUERY 0x0013 (R356). -/
def gapCommitted (s : State) (c : Nat) : State :=
  chanEvent { s with vid := { s.vid with chan := tmod s.vid.chan c fun x => { x with gaps := x.gaps + 1 } } } c 3

/-- Commit the FIFO's pending marker if a cell is found for it (R356): false when one is pending and no cell is. -/
def commitPending (s : State) (k h : Nat) : Bool × State :=
  match (s.fifo k).pend with
  | none => (true, s)
  | some g =>
    match allocChain s h 1 with
    | (some c, s1) =>
      let f := s1.fifo k
      (true, gapCommitted (s1.setFifo k { f with items := f.items ++ [gapItem g c], pend := none }) (k / 2))
    | (none, s1) => (false, s1)

/-- Place and commit one whole item, or drop it into the pending marker (R353, R356): ingest's way. The item's payload,
its TIME, the channel's holding and FIFO_CELLS. The Bool says that the item was committed. -/
def commitWhole (s : State) (k h lim : Nat) (data : List Byte) (t : DWord) : Bool × State :=
  let n := itemCells data.length
  let f := s.fifo k
  let drop := fun (u : State) => u.setFifo k (addPending (u.fifo k) 1 data.length t)
  if fifoUsed f + n ≤ lim then
    match allocChain s h n with
    | (none, s1) => (false, drop s1)
    | (some c, s1) =>
      match commitPending s1 k h with
      | (false, s2) => (false, drop (decRef s2 c 0))
      | (true, s2) =>
        let f2 := s2.fifo k
        (true, s2.setFifo k { f2 with items := f2.items ++
          [{ cell := c, cells := n, len := data.length, gap := false, reset := false, time := t, items := 0, bytes := 0,
             data := data }] })
  else (false, drop s)

/-- Drop the FIFO's reference on every item of a list. -/
def dropItems (s : State) (l : List Item) : State := l.foldl (fun t i => decRef t i.cell 0) s

/-- A producer rewind (R353): the uncommitted items beyond the producer mark are freed. -/
def producerRewind (s : State) (k : Nat) : State :=
  let f := s.fifo k
  (dropItems s (f.unc.drop f.pmark)).setFifo k { f with unc := f.unc.take f.pmark }

/-- Commit the first `n` uncommitted items of a FIFO, stamped with the DTB (R352, R353), the pending marker ahead of
them when it finds its cell (R356). -/
def commitUnc (s : State) (k h n : Nat) : State :=
  if n = 0 then s
  else
    let s1 := (commitPending s k h).2
    let f := s1.fifo k
    s1.setFifo k { f with items := f.items ++ (f.unc.take n).map (fun i => { i with time := s.tim.dtb }),
                          unc := f.unc.drop n, pmark := f.pmark - n }

/-- A consumer rewind (R353): R goes back to M. -/
def consumerRewind (f : Fifo) : Fifo :=
  match f.mark with
  | none => f
  | some m => { f with keep := f.keep.take m, items := (f.keep.drop m).map (fun i => { i with rd := 0 }) ++ f.items }

/-- The consumer reads past the first `n` items. -/
def consumerRead (f : Fifo) (n : Nat) : Fifo := { f with keep := f.keep ++ f.items.take n, items := f.items.drop n }

/-- A consumer release of the first `n` items read, never beyond M (R354). -/
def fifoRelease (s : State) (k n : Nat) : State :=
  let f := s.fifo k
  let n' := Nat.min n (f.mark.getD f.keep.length)
  (dropItems s (f.keep.take n')).setFifo k { f with keep := f.keep.drop n', mark := f.mark.map (· - n') }

/-- A consumer release up to payload byte `b` of the first item that is still held (R354): the cells wholly before P in
an item whose REFS is 1. -/
def fifoReleaseIn (s : State) (k b : Nat) : State :=
  let f := s.fifo k
  let inKeep := !f.keep.isEmpty
  match (if inKeep then f.keep.head? else f.items.head?) with
  | none => s
  | some i =>
    match tget s.grn.cells i.cell with
    | some x =>
      if x.head && x.alloc && x.refs = 1 && f.mark ≠ some 0 then
        let n := Nat.min ((16 + Nat.min b i.len) / 256 - i.gone) (i.cells - 1)
        let (c, t) := freePrefix s.grn.cells i.cell n
        let i' := { i with cell := c, cells := i.cells - n, gone := i.gone + n }
        (s.setCells t).setFifo k
          (if inKeep then { f with keep := i' :: f.keep.drop 1 } else { f with items := i' :: f.items.drop 1 })
      else s
    | none => s

/-- Counts of the items that a reset marker reports (R357). -/
def resetCounts (l : List Item) (g : Gap) : Gap :=
  l.foldl (fun g i => if i.gap then { g with items := sat32 (g.items + i.items), bytes := sat32 (g.bytes + i.bytes) }
                      else { g with items := sat32 (g.items + 1), bytes := sat32 (g.bytes + i.len) }) g

/-- A FIFO reset (R357): every cell freed, a RESET marker first that counts what the consumer could still have needed,
GRN_FIFO_PTR raised and FIFO_RESET set. -/
def fifoReset (s : State) (k h : Nat) : State :=
  let f := s.fifo k
  let need := (match f.mark with | some m => f.keep.drop m | none => []) ++ f.items
  let p := f.pend.getD { items := 0, bytes := 0, time := s.tim.dtb }
  let t := match need.head? with | some i => i.time | none => s.tim.dtb
  let g := resetCounts need { p with time := t, reset := true }
  let s1 := (dropItems s (f.keep ++ f.items ++ f.unc)).setFifo k {}
  let s2 := match allocChain s1 h 1 with
    | (some c, u) => gapCommitted (u.setFifo k { items := [gapItem g c] }) (k / 2)
    | (none, u) => u.setFifo k { pend := some g }
  (devEvent s2 A.grnEvent 4 1319).raise { src := 10, hold := some h, chan := some (k / 2) }

/-- Free everything a FIFO holds. -/
def fifoFree (s : State) (k : Nat) : State :=
  let f := s.fifo k
  let s1 := dropItems s (f.keep ++ f.items ++ f.unc)
  { s1 with grn := { s1.grn with fifo := tdel s1.grn.fifo k } }

end Sys2Proof.Machine
end

