-- ==== Sys2Proof/Machine/YokeOps.lean ====
section
/-! DEFINITION. The Yoke's operations (18): figures, the ledger, grants, recalls and the ramp. -/

namespace Sys2Proof.Machine

/-- A figure of the current cost table (R416). Column 0 ECONOMY, 1 STANDARD, 2 PEAK at 1.6 GHz, 3 PEAK at 1.8 GHz;
engine 0-5 PE, 6-7 SE, 8-10 EE, 11 the Field base. -/
def tableFig (col e : Nat) : Nat :=
  if e < 6 then [6, 10, 11, 12].getD col 0
  else if e < 8 then [5, 9, 10, 11].getD col 0
  else if e < 11 then [3, 5, 6, 7].getD col 0
  else [7, 11, 12, 13].getD col 0

/-- The clock of a column, in 100 MHz. -/
def colClk (col : Nat) : Nat := [10, 16, 16, 18].getD col 16

/-- A figure at a clock of f × 100 MHz below the envelope's, and at a CAL (R416, R418). -/
def figure (cal col f e : Nat) : Nat :=
  let t := tableFig col e
  let fe := colClk col
  let at_ := if f < fe then cdiv (t * (fe + 3 * f)) (4 * fe) else t
  cdiv (at_ * cal) 64

/-- The envelope in force (PWR_ENVELOPE.ACTIVE). -/
def envActive (s : State) : Nat := fld (s.r2 A.pwrEnvelope) 4 2

/-- The column a Field is charged in: PEAK at 1.8 GHz for the Fields the Yoke has raised (R425). -/
def fieldCol (s : State) (env f : Nat) : Nat := if env = 2 then (if s.yoke.fast.contains f then 3 else 2) else env

/-- The clock a Field climbs to: its envelope's, less what temperature takes, at least 200 MHz (R414, R428). -/
def targetClk (s : State) (env f : Nat) : Nat := Nat.max 2 (colClk (fieldCol s env f) - (s.fs f).throttle)

/-- What an engine of a Field is charged at now (R416, R418). -/
def engCost (s : State) (f e : Nat) : Nat :=
  let env := envActive s
  figure s.yoke.cal (fieldCol s env f) (targetClk s env f) e

/-- Σ of a table of charges. -/
def paidSum (t : Tab Nat) : Nat := t.foldl (fun n p => n + p.2) 0

/-- The ledger total: 208 cu and every charge (R418). -/
def ledger (s : State) : Nat := s.yoke.grants.foldl (fun n g => n + paidSum g.paid) 208

/-- YOKE_LEDGER.BORROWED (R423). -/
def borrowed (s : State) : Nat := s.yoke.grants.foldl (fun n g => if g.borrowed then n + paidSum g.paid else n) 0

/-- HLDT_QUOTA_YOKE.GRANTED of a holding (R423). -/
def granted (s : State) (h : Nat) : Nat :=
  s.yoke.grants.foldl (fun n g => if g.hold = h then n + paidSum g.paid else n) 0

/-- The ceiling. -/
def ceiling (s : State) : Nat := fld (s.r2 A.yokeCeiling) 0 11

/-- The engines that grants of a Field enable, as a bit set. -/
def enabledEng (s : State) (f : Nat) : Nat :=
  s.yoke.grants.foldl (fun m g => if g.field = f then m ||| g.eng else m) 0

/-- Engines of a class beyond the Drill: EE, PE, SE (R89). -/
def classEng (c : Nat) : Nat × Nat × Nat :=
  match c with
  | 1 => (1, 0, 0) | 2 => (1, 1, 0) | 3 => (1, 1, 1) | 4 => (1, 2, 1) | 5 => (2, 3, 1) | 6 => (2, 4, 2)
  | 7 => (3, 6, 2) | _ => (0, 0, 0)

/-- Choose `n` engines from `base` to `base + k - 1`, those already enabled first (R91). -/
def pickEng (en base k n : Nat) : Nat :=
  let l := (List.range k).map (· + base)
  let on := l.filter fun e => en.testBit e
  let off := l.filter fun e => !en.testBit e
  ((on ++ off).take n).foldl (fun m e => m ||| 2 ^ e) 0

/-- The engines a class takes on a Field whose enabled engines are `en` (R91). -/
def classSet (en c : Nat) : Nat :=
  let (ee, pe, se) := classEng c
  pickEng en 0 6 pe ||| pickEng en 6 2 se ||| pickEng en 8 3 ee

/-- The key of the grant that context `k` has on span Field `f` (R205). -/
def spanKey (k f : Nat) : Nat := 1024 + k * 8 + f

/-- The engines a request asks for: the base alone (keys 512 to 1023), the class's engines otherwise. -/
def reqSet (s : State) (r : YReq) : Nat :=
  if 512 ≤ r.key && r.key < 1024 then 2 ^ 11 else classSet (enabledEng s r.field) r.cls

/-- What a request would be charged for: its engines that are not enabled yet (R421), and the base when the Field holds
no grant; for a self-test the whole Field figure less the Field's present charge (R427). -/
def reqPaid (s : State) (r : YReq) : Tab Nat :=
  let en := enabledEng s r.field
  if 256 ≤ r.key && r.key < 512 then
    let whole := (List.range 12).foldl (fun n e => n + engCost s r.field e) 0
    let now := s.yoke.grants.foldl (fun n g => if g.field = r.field then n + paidSum g.paid else n) 0
    [(12, whole - now)]
  else
    let set := reqSet s r ||| (if en.testBit 11 then 0 else 2 ^ 11)
    (List.range 12).filterMap fun e =>
      if set.testBit e && !en.testBit e then some (e, engCost s r.field e) else none

/-- The current quota of a holding; a Field self-test, charged to the model's holding 32, has no quota to exceed (R423, R427,
log 58). -/
def yokeQuota (s : State) (h : Nat) : Nat := if h < 32 then (s.hd h).qYoke else 2047

/-- The request is within its holding's quota. -/
def reqWithin (s : State) (r : YReq) : Bool :=
  decide (granted s r.hold + paidSum (reqPaid s r) ≤ yokeQuota s r.hold)

/-- The group of R422. -/
def reqGroup (s : State) (r : YReq) : Nat :=
  if r.fallow = 1 then 2 else if r.fallow = 2 then 5
  else if r.live then 1 else if reqWithin s r then 3 else 4

/-- No grant is admitted: the ledger is above the ceiling (R419), or an envelope change waits to fit (R415). -/
def admitStopped (s : State) : Bool :=
  decide (ceiling s < ledger s) || (match s.yoke.change with | some (_, 1) => true | _ => false)

/-- Costs that the ramp allowance must cover for a grant: the clock steps of a Field that starts, or the engines' charge
at the present clock of a running one (R421). Charge 12 is that of a self-test: the engines not enabled yet. -/
def rampFor (s : State) (f : Nat) (key : Nat) (paid : Tab Nat) : List Ramp :=
  let env := envActive s
  let col := fieldCol s env f
  let en := enabledEng s f
  let fig := fun clk e => if e < 12 then figure s.yoke.cal col clk e
    else (List.range 12).foldl (fun n i => if en.testBit i then n else n + figure s.yoke.cal col clk i) 0
  let at_ := fun clk => paid.foldl (fun n p => n + fig clk p.1) 0
  let now := (s.fs f).clk
  if now = 0 then
    let top := targetClk s env f
    { unit := f, cost := at_ 2, clk := 2, key := some key } ::
      ((List.range (top - 2)).map fun i => { unit := f, cost := at_ (i + 3) - at_ (i + 2), clk := i + 3 })
  else [{ unit := f, cost := at_ now, clk := 0, key := some key }]

/-- The charge of a Field's engines at another column and clock: the grants of the Field with new figures; a self-test's is
the whole Field figure less the others (R427). -/
def rechargeList (cal col clk f : Nat) (gs : List Grant) : List Grant :=
  let whole := (List.range 12).foldl (fun n e => n + figure cal col clk e) 0
  let now := gs.foldl (fun n g => if g.field = f then g.paid.foldl (fun m p => if p.1 < 12 then m + figure cal col clk p.1 else m) n
    else n) 0
  gs.map fun g =>
    if g.field = f then { g with paid := tmap g.paid fun e _ => if e < 12 then figure cal col clk e else whole - now } else g

/-- The ledger total of a list of grants. -/
def ledgerOf (gs : List Grant) : Nat := gs.foldl (fun n g => n + paidSum g.paid) 208

/-- The ledger total at another envelope's figures (R415): Fields below `n` at the clock they climb to, the others at their
present clock, or one below the new maximum. -/
def envTop (s : State) (e n : Nat) : Nat :=
  ledgerOf ((List.range 8).foldl
    (fun gs f =>
      let c := (s.fs f).clk
      let clk := if f < n then targetClk s e f else Nat.min (colClk e) (if c = 0 then 18 else c)
      rechargeList s.yoke.cal e clk f gs) s.yoke.grants)

/-- Set the Yoke. -/
def State.setYoke (s : State) (y : Yoke) : State := { s with yoke := y }

/-- The job context of a grant key. -/
def grantCtx (key : Nat) : Nat := if 1024 ≤ key then (key - 1024) / 8 else if 512 ≤ key then key - 512 else key

/-- A context that waited for a grant proceeds (R90): a class grant at once, a base grant when its Field is awake
(R68). -/
def grantProceed (s : State) (key : Nat) : State :=
  if 1024 ≤ key then s
  else { s with job := { s.job with ctx := tmod s.job.ctx (grantCtx key) fun x =>
      if 512 ≤ key then
        (if x.wait == .base && !(s.fs (grantCtx key / 32)).waking then { x with wait := .none } else x)
      else
        match x.wait with
        | .grant => { x with wait := .none, granted := true }
        | .claim cls _ _ =>
          { x with wait := .none, granted := true, cls := cls, pc := x.pc + 1, t := false, z := true,
                   g := bankSet x.g (fun _ => 0) 15 0 }
        | _ => { x with granted := true } } }

/-- Admit a request: its charge enters the ledger whole (R421), the ramp takes its cost, and a sleeping Field starts to
wake (R410). A grant that costs nothing proceeds at once. -/
def admitReq (s : State) (r : YReq) : State :=
  let paid := reqPaid s r
  let eng := reqSet s r ||| (if (enabledEng s r.field).testBit 11 then 0 else 2 ^ 11)
  let old := s.yoke.grants.find? fun g => g.key == r.key
  let bor := paidSum paid ≠ 0 && decide (yokeQuota s r.hold < granted s r.hold + paidSum paid)
  let g : Grant := match old with
    | some o => { o with eng := o.eng ||| eng, paid := paid.foldl (fun t p => tset t p.1 p.2) o.paid,
                         borrowed := o.borrowed || bor }
    | none => { key := r.key, field := r.field, hold := r.hold, eng := eng, paid := paid, borrowed := bor }
  let ramp := if paidSum paid = 0 then [] else rampFor s r.field r.key paid
  let s1 := s.setYoke { s.yoke with
    grants := (s.yoke.grants.filter fun g => g.key ≠ r.key) ++ [g],
    reqs := s.yoke.reqs.filter fun q => q.key ≠ r.key,
    ramp := s.yoke.ramp ++ ramp }
  let s2 := if 2 ≤ (s1.fs r.field).fs && !(256 ≤ r.key && r.key < 512) then
      s1.modFs r.field fun x => { x with waking := true, pllStop := false } else s1
  if ramp.isEmpty then grantProceed s2 r.key else s2

/-- The waiting requests in the order of R422: group, then age. -/
def reqOrder (s : State) : List YReq :=
  (List.range 7).flatMap fun g => s.yoke.reqs.filter fun r => reqGroup s r == g

/-- A request older than `r` has waited 1 ms and is not admitted (R422). -/
def blockedBy (s : State) (aged : List Nat) (r : YReq) : Bool :=
  (s.yoke.reqs.takeWhile fun q => q.key ≠ r.key).any fun q => aged.contains q.key

/-- A grant made while the envelope changes fits at the new figures too (R415, R418). -/
def envFits (s : State) : Bool :=
  match s.yoke.change with | some (e, _) => decide (envTop s e 8 ≤ ceiling s) | none => true

/-- One pass over the waiting requests: each that fits is admitted (R421, R422). -/
def admitPass (aged : List Nat) (s : State) : State :=
  (reqOrder s).foldl
    (fun t r =>
      if admitStopped t || blockedBy t aged r then t
      else if ledger t + paidSum (reqPaid t r) ≤ ceiling t && envFits (admitReq t r) then admitReq t r else t) s

/-- Recharge a Field at its present column and target clock (R418). -/
def recharge (s : State) (f : Nat) : State :=
  let env := envActive s
  s.setYoke { s.yoke with
    grants := rechargeList s.yoke.cal (fieldCol s env f) (targetClk s env f) f s.yoke.grants }

/-- Step a Field back from 1.8 GHz to 1.6 GHz (R425). -/
def stepBack (s : State) (f : Nat) : State :=
  let s1 := recharge (s.setYoke { s.yoke with fast := remNat s.yoke.fast f }) f
  s1.modFs f fun x => { x with clk := Nat.min x.clk (targetClk s1 (envActive s1) f) }

/-- Step PEAK upgrades back, the last offered first, until `need` cu fit under the ceiling (R425). -/
def stepBacks (s : State) (need : Nat) : Nat → State
  | 0 => s
  | n + 1 =>
    if ledger s + need ≤ ceiling s then s
    else match s.yoke.fast.getLast? with
      | some f => stepBacks (stepBack s f) need n
      | none => s

/-- Recall borrowed grants, newest first, until `need` cu would fit (R424). The recalled grants leave the ledger when
their recall completes. -/
def recallFor (s : State) (need : Nat) : State :=
  let s1 := stepBacks s need 8
  let going := s1.yoke.grants.foldl (fun n g => if s1.yoke.recalls.contains g.key then n + paidSum g.paid else n) 0
  let start := ledger s1 + need - going
  let (_, rs) := s1.yoke.grants.reverse.foldl
    (fun (p : Nat × List Nat) g =>
      if p.1 ≤ ceiling s1 then p
      else if g.borrowed && !s1.yoke.recalls.contains g.key && paidSum g.paid ≠ 0 then (p.1 - paidSum g.paid, p.2 ++ [g.key])
      else p) (start, [])
  s1.setYoke { s1.yoke with recalls := s1.yoke.recalls ++ rs }

/-- The requests of groups 1 to 3 that are within their quota and do not fit recall borrowed charges (R424). -/
def recallPass (s : State) : State :=
  s.yoke.reqs.foldl
    (fun t r =>
      if reqGroup t r ≤ 3 && reqWithin t r && ceiling t < ledger t + paidSum (reqPaid t r) then
        recallFor t (paidSum (reqPaid t r)) else t) s

/-- Fields home to a live-link channel first, then by number: the order PEAK upgrades are offered in (R425). -/
def upgradeOrder (s : State) : List Nat :=
  let live := fun f => s.vid.chan.any fun p => p.2.home == f && p.2.blk.live
  (List.range 8).filter live ++ (List.range 8).filter fun f => !live f

/-- PEAK clock upgrades that fit (R425). -/
def upgradePass (s : State) : State :=
  if envActive s = 2 && s.yoke.change.isNone then
    (upgradeOrder s).foldl
      (fun t f =>
        let g := t.yoke.grants.any fun g => g.field == f
        if g && !t.yoke.fast.contains f && (t.fs f).throttle = 0 then
          let t1 := t.setYoke { t.yoke with fast := t.yoke.fast ++ [f] }
          let t2 := recharge t1 f
          if ledger t2 ≤ ceiling t2 then
            let mid := ledgerOf (rechargeList t.yoke.cal 3 17 f t.yoke.grants)
            t2.setYoke { t2.yoke with ramp := t2.yoke.ramp ++
              [{ unit := f, cost := mid - ledger t, clk := 17 }, { unit := f, cost := ledger t2 - mid, clk := 18 }] }
          else t
        else t) s
  else s

/-- Which of the grants `l` are borrowed after charges have passed (R423): those that were, or that took a charge over (their
charge differs in `was`), and carry their holding above its quota, the oldest counted first. -/
def markBorrowed (s : State) (was l : List Grant) : List Grant :=
  ((l.zip was).foldl
    (fun (p : List Grant × Tab Nat) q =>
      let g := q.1
      let n := tgetD p.2 g.hold 0 + paidSum g.paid
      let b := (g.borrowed || g.paid ≠ q.2.paid) && paidSum g.paid ≠ 0 && decide (yokeQuota s g.hold < n)
      (p.1 ++ [{ g with borrowed := b }], tset p.2 g.hold n)) ([], [])).1

/-- A grant ends: each engine it paid for passes to the oldest remaining grant of the Field that holds it, and is
released otherwise (R91, R423). -/
def releaseGrant (s : State) (key : Nat) : State :=
  match s.yoke.grants.find? fun g => g.key == key with
  | none => s
  | some g =>
    let rest := s.yoke.grants.filter fun x => x.key ≠ key
    let rest' := g.paid.foldl
      (fun (l : List Grant) p =>
        match l.findIdx? fun x => x.field == g.field && x.eng.testBit p.1 with
        | some i => l.modify i fun x => { x with paid := tset x.paid p.1 p.2 }
        | none => l) rest
    s.setYoke { s.yoke with grants := markBorrowed s rest rest', recalls := remNat s.yoke.recalls key,
                            ramp := s.yoke.ramp.map fun r => if r.key = some key then { r with key := none } else r }

/-- Every grant and request of a job context ends. -/
def releaseCtx (s : State) (key : Nat) : State :=
  let s1 := releaseGrant (releaseGrant s key) (key + 512)
  let s2 := (List.range 8).foldl (fun t f => releaseGrant t (spanKey key f)) s1
  s2.setYoke { s2.yoke with reqs := s2.yoke.reqs.filter fun q =>
    q.key ≠ key && q.key ≠ key + 512 && !(spanKey key 0 ≤ q.key && q.key ≤ spanKey key 7) }

/-- Put a request at the end of the waiting list, unless it waits already. -/
def askGrant (s : State) (r : YReq) : State :=
  if s.yoke.reqs.any fun q => q.key == r.key then s else s.setYoke { s.yoke with reqs := s.yoke.reqs ++ [r] }

/-- The cost of starting an uncore unit, by the number of its PLL (R417). -/
def uncoreCost (s : State) (i : Nat) : Nat :=
  if i = 9 then 64
  else if i = 10 || i = 11 then (if fld (s.r2 (A.ingQuad (i - 10))) 0 2 = 1 then 6 else 10)
  else if i = 12 then 8 else if i = 13 || i = 14 then 5 else 72

/-- An uncore PLL is claimed: it starts when the ramp has covered its cost, or goes on running (R409, R421). -/
def claimPll (s : State) (i : Nat) : State :=
  let y := { s.yoke with pllIdle := remNat s.yoke.pllIdle i }
  if y.plls.contains i || y.ramp.any (fun r => r.unit == i) then s.setYoke y
  else s.setYoke { y with ramp := y.ramp ++ [{ unit := i, cost := uncoreCost s i, clk := 0 }] }

/-! Changes of envelope (R415). -/

/-- The voltage of an envelope in mV (R414). -/
def envVolt (e : Nat) : Nat := [650, 720, 800].getD e 720

/-- The ledger total at another envelope's figures, at each Field's present clock (R415 step 1). -/
def envTotal (s : State) (e : Nat) : Nat := envTop s e 0

/-- The cost of one clock step of a Field at an envelope's figures (R421). -/
def envStepCost (s : State) (e f clk : Nat) : Nat :=
  let at_ := fun k => (rechargeList s.yoke.cal e k f s.yoke.grants).foldl
    (fun n g => if g.field = f then n + paidSum g.paid else n) 0
  at_ (clk + 1) - at_ clk

/-- The memory runs at 6400 MT/s under an envelope: always in ECONOMY, else as configured (R386, R414). -/
def dramRun6400 (s : State) (e : Nat) : Bool := e = 0 || fld (s.r2 A.drcCfg) 0 2 = 0

/-- A voltage is requested of the regulator; every channel's retraining is due (R399, R415). -/
def askVolt (s : State) (mv : Nat) : State :=
  { s.emit (.vout mv) with drm := { s.drm with due := List.range 16 } }

/-- A change that waits to fit goes on when the new figures fit: the clocks above the new maximum step down, a change to
ECONOMY switches the memory, and VOUT_COMMAND is sent (R415 steps 1 to 3). -/
def envAdvance (s : State) : State :=
  match s.yoke.change with
  | some (e, 1) =>
    if envTotal s e ≤ ceiling s then
      let s1 := (List.range 8).foldl
        (fun t f => if colClk e < (t.fs f).clk then t.modFs f fun x => { x with clk := colClk e } else t) s
      let s2 := if e = 0 then s1.put2 A.drcCfg 5 1 1 else s1
      (askVolt s2 (envVolt e)).setYoke { s2.yoke with change := some (e, 3) }
    else s
  | _ => s

/-- A LEVEL source's cause begins or ends (R431). -/
def setCause (s : State) (n : Nat) (b : Bool) : State := { s with flt := { s.flt with cause := setNat s.flt.cause n b } }

end Sys2Proof.Machine
end

