-- ==== Sys2Proof/Machine/Mem.lean ====
section
/-! DEFINITION. Device memory as jobs and engines reach it: the granule map (R390), and bytes in one canonical form. -/

namespace Sys2Proof.Machine

/-- Bytes of a granule (R31). -/
def granule : Nat := 0x1000000

/-- What a byte of device memory that nothing has written reads as: 0 (DESIGN CHOICE, log 6). -/
def memDflt (_a : Nat) : Byte := 0

/-- The canonical form of memory: addresses strictly rising, no entry equal to what an unlisted address reads as. -/
def Memory.wf (m : List Host.Cell) : Bool := bankWf m memDflt

/-- Read one byte. -/
def readByte (m : List Host.Cell) (a : Nat) : Byte := bankGet m memDflt a

/-- Write one byte. -/
def writeByte (m : List Host.Cell) (a : Nat) (v : Byte) : List Host.Cell := bankSet m memDflt a v

/-- Write bytes from an address up. -/
def writeBytes (m : List Host.Cell) (a : Nat) : List Byte → List Host.Cell
  | [] => m
  | v :: vs => writeBytes (writeByte m a v) (a + 1) vs

/-- The device address of byte `off` of a holding's memory, none while its granule is not mapped (R390). -/
def devAddr (s : State) (h off : Nat) : Option Nat :=
  (tget s.drm.map (4096 * h + off / granule)).map fun g => granule * g + off % granule

/-- Every granule of a range is mapped. -/
def devMapped (s : State) (h off len : Nat) : Bool :=
  len = 0 || (List.range ((off + len - 1) / granule - off / granule + 1)).all fun i =>
    thas s.drm.map (4096 * h + off / granule + i)

/-- Bytes of a holding's device memory. -/
def readDev (s : State) (h off len : Nat) : List Byte :=
  (List.range len).map fun i => match devAddr s h (off + i) with | some a => readByte s.drm.mem a | none => 0

/-- A write of `len` bytes covers all 32 bytes of the burst `b` of device memory (R403). -/
def wholeBurst (s : State) (h off len b : Nat) : Bool :=
  (List.range (len / 32 + 1)).any fun j =>
    let i := (32 - off % 32) % 32 + 32 * j
    decide (i + 32 ≤ len) && devAddr s h (off + i) == some (32 * b)

/-- Write bytes of a holding's device memory; a burst written whole is poisoned no longer (R403). -/
def writeDev (s : State) (h off : Nat) (bs : List Byte) : State :=
  let m := bs.zipIdx.foldl
    (fun m p => match devAddr s h (off + p.2) with | some a => writeByte m a p.1 | none => m) s.drm.mem
  { s with drm := { s.drm with mem := m, poison := s.drm.poison.filter fun b => !wholeBurst s h off bs.length b } }

/-- A burst of the range holds poison (R403). -/
def devPoison (s : State) (h off len : Nat) : Bool :=
  len ≠ 0 && s.drm.poison.any fun b => (List.range ((off % 32 + len + 31) / 32)).any fun i =>
    match devAddr s h (off / 32 * 32 + i * 32) with | some a => a / 32 == b | none => false

/-- Where a 64-bit address operand points (R76). -/
inductive Place where
  /-- Byte of the holding's device memory. -/
  | dev (off : Nat)
  /-- A Baulk remote window: the address bits. -/
  | remote (a : Nat)
  /-- Bus address in the memory of the function's host. -/
  | host (a : Nat)
  deriving DecidableEq, Repr

/-- The place of a range, none where R76 refuses it: an offset at or beyond the quota, or the encoding 0b11. -/
def place (s : State) (h : Nat) (a : DWord) (len : Nat) : Option Place :=
  let off := a.toNat % 2 ^ 62
  match fld a 62 2 with
  | 0 => if off + len ≤ (s.hd h).qDram * granule && off < (s.hd h).qDram * granule then some (.dev off) else none
  | 1 => some (.remote off)
  | 2 => some (.host off)
  | _ => none

end Sys2Proof.Machine
end

