-- ==== Sys2Proof/Machine/Operands.lean ====
section
/-! DEFINITION. The words of Staco (04, 05): word 0's fields, the form each opcode has, registers, and handles. -/

namespace Sys2Proof.Machine

/-- The fields of word 0 (R74). -/
structure Ins where
  /-- OP. -/
  op : Nat
  /-- XW. -/
  xw : Nat
  /-- MOD. -/
  mod : Nat
  /-- D. -/
  d : Nat
  /-- A. -/
  a : Nat
  /-- B. -/
  b : Nat
  /-- Bit 31. -/
  rsv : Nat
  /-- IMM. -/
  imm : Word
  deriving DecidableEq, Repr

/-- Decode word 0 (R74). -/
def insOf (w : DWord) : Ins :=
  { op := fld w 0 8, xw := fld w 8 2, mod := fld w 10 6, d := fld w 16 5, a := fld w 21 5, b := fld w 26 5,
    rsv := fld w 31 1, imm := hiW w }

/-- The word of given fields (R74). -/
def wordOf (i : Ins) : DWord :=
  joinW i.imm (w32 (i.op % 256 + i.xw % 4 * 2 ^ 8 + i.mod % 64 * 2 ^ 10 + i.d % 32 * 2 ^ 16 + i.a % 32 * 2 ^ 21 +
    i.b % 32 * 2 ^ 26 + i.rsv % 2 * 2 ^ 31))

/-- What a register field must name (R93): nothing (the field is 0), a G register, a K register, or either. -/
inductive RegSpec where
  | zero | g | k | any
  deriving DecidableEq, Repr

/-- The register specifier is of the file the field wants (R75). -/
def RegSpec.file (r : RegSpec) (n : Nat) : Bool :=
  match r with
  | .zero => true
  | .g => n < 16
  | .k => 16 ≤ n
  | .any => true

/-- The form of an instruction: its length, its register fields, whether IMM is used, its modifier bits (R94). -/
structure Form where
  /-- Extra words. -/
  xw : Nat := 0
  /-- D. -/
  d : RegSpec := .zero
  /-- A. -/
  a : RegSpec := .zero
  /-- B. -/
  b : RegSpec := .zero
  /-- IMM is used. -/
  imm : Bool := false
  /-- Modifier bits that are defined. -/
  mods : Nat := 0
  deriving DecidableEq, Repr

/-- The form of each assigned opcode; none for one that is unassigned or reserved (R75). -/
def formOf (i : Ins) : Option Form :=
  let m := i.mod.testBit 0
  match i.op with
  | 0x00 => some {}
  | 0x01 => some { imm := true, mods := 0xF }
  | 0x02 => some { imm := true }
  | 0x03 => some {}
  | 0x04 => some { a := if m then .g else .zero, mods := 1 }
  | 0x05 => some { a := .g, mods := 1 }
  | 0x20 => some (if m then { d := .any, imm := true, mods := 1 } else { d := .any, a := .any, mods := 1 })
  | 0x21 => some { xw := 1, d := .g }
  | 0x22 | 0x23 | 0x24 | 0x25 | 0x26 | 0x27 | 0x28 | 0x29 | 0x2A =>
    some (if m then { d := .g, a := .g, imm := true, mods := 1 } else { d := .g, a := .g, b := .g, mods := 1 })
  | 0x2B => some (if m then { a := .g, imm := true, mods := 1 } else { a := .g, b := .g, mods := 1 })
  | 0x30 => some { d := .g, a := .g, imm := true, mods := 1 }
  | 0x31 => some { a := .g, b := .g, imm := true, mods := 1 }
  | 0x40 => some { imm := true }
  | 0x41 => some { a := .k, imm := true, mods := 1 }
  | 0x42 => some { a := .k, imm := true }
  | 0x43 => some { a := .k, imm := true, mods := 1 }
  | 0x44 => some { a := .g, b := if i.mod.testBit 1 then .g else .zero, mods := 3 }
  | 0x45 => some { a := .k, mods := 1 }
  | 0x60 => some { d := .k, a := .g, imm := true, mods := 7 }
  | 0x61 => some { a := .k }
  | 0x62 => some (if m then { d := .any, a := .k, imm := true, mods := 1 } else { a := .k, b := .any, imm := true, mods := 1 })
  | 0x63 => some { d := .k, a := if m then .g else .k, mods := 1 }
  | 0x64 => some { a := .k }
  | 0x65 => some { a := .k, imm := true }
  | 0x66 => some { a := .k, b := if i.mod % 4 = 2 then .zero else .g, mods := 3 }
  | 0x80 => some { d := .g, a := .k, b := .k, mods := 3 }
  | 0x81 | 0x82 | 0x83 | 0x85 => some { d := .g, a := .k, b := .k, mods := 1 }
  | 0x84 => some { xw := if i.mod.testBit 1 then 1 else 0, d := .g, a := .k, b := .k, mods := 3 }
  | 0x86 => some { xw := 1, d := .g, a := .k, b := .g, imm := true }
  | 0xC0 | 0xC1 => some { d := .g, a := .g, b := .g, imm := true, mods := 7 }
  | 0xC2 | 0xC3 => some { d := .k, a := .k, b := .g, imm := true }
  | 0xC4 => some { d := .g, a := .k, b := .g, imm := true, mods := 0xF }
  | 0xE0 => some { imm := true, mods := 1 }
  | 0xE1 => some {}
  | 0xE2 =>
    some { d := .g, a := if [0x10, 0x11, 0x12, 0x13, 0x20, 0x30].contains i.imm.toNat then .k else .zero, imm := true }
  | _ => none

/-- The length and the register files are those of the instruction (R75). -/
def formOk (i : Ins) (f : Form) : Bool := i.xw = f.xw && f.d.file i.d && f.a.file i.a && f.b.file i.b

/-- Every bit the form does not use is 0 (R74, R94). -/
def reservedOk (i : Ins) (f : Form) : Bool :=
  i.rsv = 0 && (i.mod &&& (63 - f.mods)) = 0 && (f.d != .zero || i.d = 0) && (f.a != .zero || i.a = 0) &&
    (f.b != .zero || i.b = 0) && (f.imm || i.imm = 0)

/-! Registers of a context. -/

/-- G register `n`. -/
def Ctx.gr (x : Ctx) (n : Nat) : DWord := tgetD x.g n 0
/-- Set G register `n`. -/
def Ctx.setG (x : Ctx) (n : Nat) (v : DWord) : Ctx := { x with g := bankSet x.g (fun _ => 0) n v }
/-- K register `n` (0 to 15). -/
def Ctx.kr (x : Ctx) (n : Nat) : Word := tgetD x.k n 0
/-- Set K register `n`. -/
def Ctx.setK (x : Ctx) (n : Nat) (v : Word) : Ctx := { x with k := bankSet x.k (fun _ => 0) n v }
/-- The value of a register specifier: a handle zero-extended (R99). -/
def Ctx.reg (x : Ctx) (r : Nat) : DWord := if r < 16 then x.gr r else BitVec.setWidth 64 (x.kr (r - 16))
/-- Write a register specifier; a K register takes bits [31:0] (R99). -/
def Ctx.setReg (x : Ctx) (r : Nat) (v : DWord) : Ctx := if r < 16 then x.setG r v else x.setK (r - 16) (loW v)
/-- The handle in a K register specifier. -/
def Ctx.hnd (x : Ctx) (r : Nat) : Word := x.kr (r - 16)

/-- A synchronous instruction's status: G15 takes the code, Z says that it is OK (R71). -/
def Ctx.status (x : Ctx) (code : Nat) : Ctx := { x.setG 15 (w64 (code % 0x10000)) with z := code = 0 }

/-- The next instruction after one of `n` extra words. -/
def Ctx.advance (x : Ctx) (n : Nat) : Ctx := { x with pc := x.pc + 1 + n }

/-- The second operand: B, or IMM sign-extended in the I form (R98). -/
def Ctx.opB (x : Ctx) (i : Ins) : DWord := if i.mod.testBit 0 then sext32 i.imm else x.gr i.b

/-- Ga + IMM as a signed displacement (R100). -/
def Ctx.ea (x : Ctx) (i : Ins) : DWord := x.gr i.a + sext32 i.imm

/-! Handles (R72, R73). -/

/-- TYPE of a handle. -/
def hType (h : Word) : Nat := fld h 28 4
/-- GEN of a handle. -/
def hGen (h : Word) : Nat := fld h 20 8
/-- Slot key of a handle: TYPE × 2^20 + INDEX. -/
def hSlot (h : Word) : Nat := 0x100000 * hType h + fld h 0 20

/-- The handle of an object slot at its present generation. -/
def mkHandle (s : State) (slot : Nat) : Word :=
  w32 (slot / 0x100000 * 2 ^ 28 + (tgetD s.job.gen slot 0) % 256 * 2 ^ 20 + slot % 0x100000)

/-- The object a handle of one of `types` names for a holding; none is JOB_FAULT_HANDLE (R73). -/
def useHandle (s : State) (h : Nat) (types : List Nat) (k : Word) : Option Obj :=
  if types.contains (hType k) then
    match tget s.job.obj (hSlot k) with
    | some o => if o.hold = h && tgetD s.job.gen (hSlot k) 0 % 256 = hGen k then some o else none
    | none => none
  else none

/-- Set the queues and jobs. -/
def State.setJob (s : State) (j : Jobs) : State := { s with job := j }

/-- Take the lowest free object slot of a TYPE (log 10): the new handle. INDEX of a semaphore or barrier is below 65,536
(R481). -/
def newHandle (s : State) (typ h ref : Nat) : Option (Word × State) :=
  match lowestFree s.job.obj (0x100000 * typ) (if typ = 8 || typ = 9 then 0x10000 else 0x100000) with
  | some k =>
    let s1 := s.setJob { s.job with obj := tset s.job.obj k { hold := h, ref := ref } }
    some (mkHandle s1 k, s1)
  | none => none

/-- Free an object slot: its generation advances, wrapping at 256 (R72). -/
def freeSlot (s : State) (slot : Nat) : State :=
  if thas s.job.obj slot then
    s.setJob { s.job with
      obj := tdel s.job.obj slot,
      gen := bankSet s.job.gen (fun _ => 0) slot ((tgetD s.job.gen slot 0 + 1) % 256) }
  else s

/-! Status codes (R85). -/
namespace St
abbrev ok : Nat := 0x0000
abbrev concealed : Nat := 0x0001
abbrev stubble : Nat := 0x0002
abbrev hrd : Nat := 0x0003
abbrev ltrStale : Nat := 0x0004
abbrev level : Nat := 0x0005
abbrev resized : Nat := 0x0006
abbrev queued : Nat := 0x0007
abbrev rxReady : Nat := 0x0008
abbrev illegal : Nat := 0x0100
abbrev handle : Nat := 0x0101
abbrev bounds : Nat := 0x0102
abbrev stack : Nat := 0x0103
abbrev cls : Nat := 0x0104
abbrev operand : Nat := 0x0105
abbrev state : Nat := 0x0106
abbrev pool : Nat := 0x0200
abbrev granary : Nat := 0x0201
abbrev yoke : Nat := 0x0202
abbrev queue : Nat := 0x0203
abbrev cancelQueue : Nat := 0x0300
abbrev cancelHolding : Nat := 0x0301
abbrev poison : Nat := 0x0400
abbrev hostAbort : Nat := 0x0401
abbrev remote : Nat := 0x0402
abbrev unrecoverable : Nat := 0x0500
abbrev noData : Nat := 0x0501
abbrev format : Nat := 0x0502
abbrev noPicture : Nat := 0x0503
abbrev source : Nat := 0x0504
abbrev colour : Nat := 0x0505
abbrev waitTimeout : Nat := 0x0600
abbrev saturated : Nat := 0x0601
end St

end Sys2Proof.Machine
end

