-- ==== Sys2Proof/Machine/Flags.lean ====
section
/-! DEFINITION. The arithmetic of Staco and its flags (R98). -/

namespace Sys2Proof.Machine

/-- A result with its carry. -/
structure Alu where
  /-- The 64-bit result. -/
  v : DWord
  /-- C. -/
  c : Bool
  deriving DecidableEq, Repr

/-- Sum; C is the carry out of bit 63. -/
def aluAdd (a b : DWord) : Alu := { v := a + b, c := 2 ^ 64 ≤ a.toNat + b.toNat }
/-- Difference; C says A < B unsigned. -/
def aluSub (a b : DWord) : Alu := { v := a - b, c := a.toNat < b.toNat }
/-- Low half of the unsigned product; C says the product exceeds 64 bits. -/
def aluMul (a b : DWord) : Alu := { v := a * b, c := 2 ^ 64 ≤ a.toNat * b.toNat }
/-- AND; C cleared. -/
def aluAnd (a b : DWord) : Alu := { v := a &&& b, c := false }
/-- OR; C cleared. -/
def aluOr (a b : DWord) : Alu := { v := a ||| b, c := false }
/-- XOR; C cleared. -/
def aluXor (a b : DWord) : Alu := { v := a ^^^ b, c := false }
/-- The count of a shift: bits [5:0] (R98). -/
def shiftCount (b : DWord) : Nat := fld b 0 6
/-- Left shift; C cleared. -/
def aluShl (a b : DWord) : Alu := { v := a <<< shiftCount b, c := false }
/-- Right shift with zero fill; C cleared. -/
def aluShr (a b : DWord) : Alu := { v := a >>> shiftCount b, c := false }
/-- Right shift with sign fill; C cleared. -/
def aluSar (a b : DWord) : Alu := { v := a.sshiftRight (shiftCount b), c := false }

/-- Z, N and C from a result; N is bit 63 (R98). -/
def Ctx.flags (x : Ctx) (r : Alu) : Ctx := { x with z := r.v == 0, n := r.v.getLsbD 63, c := r.c }

/-- The condition of BR on the flags (R97); none for a reserved one. -/
def Ctx.cond (x : Ctx) (cc : Nat) : Option Bool :=
  match cc with
  | 0 => some true
  | 1 => some x.z
  | 2 => some (!x.z)
  | 3 => some x.n
  | 4 => some (!x.n)
  | 5 => some x.c
  | 6 => some (!x.c)
  | 7 => some x.t
  | 8 => some (!x.t)
  | 9 => some (!x.z && !x.n)
  | 10 => some (x.z || x.n)
  | _ => none

end Sys2Proof.Machine
end

