-- ==== Sys2Proof/Machine/ChanOps.lean ====
section
/-! DEFINITION. The operations on channels and picture buffers (08): sizes, the pool, claims, DRAM quota, timestamps. -/

namespace Sys2Proof.Machine

namespace State

/-- Set channels, buffers and groups. -/
def setVid (s : State) (v : Vid) : State := { s with vid := v }
/-- A channel that is not CLOSED. -/
def chan (s : State) (c : Nat) : Option Chan := tget s.vid.chan c
/-- Set a channel. -/
def setChan (s : State) (c : Nat) (x : Chan) : State := s.setVid { s.vid with chan := tset s.vid.chan c x }
/-- Change a channel. -/
def modChan (s : State) (c : Nat) (f : Chan → Chan) : State := s.setVid { s.vid with chan := tmod s.vid.chan c f }
/-- A buffer. -/
def buf (s : State) (n : Nat) : Option Buf := tget s.vid.buf n
/-- Set a buffer. -/
def setBuf (s : State) (n : Nat) (x : Buf) : State := s.setVid { s.vid with buf := tset s.vid.buf n x }
/-- Change a buffer. -/
def modBuf (s : State) (n : Nat) (f : Buf → Buf) : State := s.setVid { s.vid with buf := tmod s.vid.buf n f }
/-- Add a buffer under the next number. -/
def addBuf (s : State) (x : Buf) : State :=
  s.setVid { s.vid with buf := tset s.vid.buf s.vid.nextBuf x, nextBuf := s.vid.nextBuf + 1 }

end State

/-- The channel decodes (R168). -/
def Blk.dec (b : Blk) : Bool := b.dir ≠ 1
/-- The channel encodes. -/
def Blk.enc (b : Blk) : Bool := b.dir ≠ 0

/-! Sizes (R178, R182). -/

/-- Up to whole 4096-byte pages. -/
def pageUp (n : Nat) : Nat := cdiv n 4096 * 4096
/-- Tiles of the luma plane. -/
def lumaTiles (w h : Nat) : Nat := cdiv w 32 * cdiv h 8
/-- Tiles of the chroma planes. -/
def chromaTiles (w h chroma : Nat) : Nat :=
  match chroma with
  | 1 => cdiv w 32 * cdiv h 16
  | 2 => lumaTiles w h
  | 3 => 2 * lumaTiles w h
  | _ => 0
/-- Bytes of a lookahead slot: a pool buffer without its motion field. -/
def slotBytes (w h chroma depth : Nat) : Nat :=
  4096 + pageUp (lumaTiles w h * 32 * depth) + pageUp (chromaTiles w h chroma * 32 * depth) +
    pageUp (lumaTiles w h + chromaTiles w h chroma)
/-- Bytes of a pool buffer. -/
def bufBytes (w h chroma depth : Nat) : Nat := slotBytes w h chroma depth + pageUp (cdiv w 16 * cdiv h 16 * 16)

/-- One buffer of a channel's pool. -/
def Blk.bufSize (b : Blk) : Nat := bufBytes b.width b.height b.chroma b.depth
/-- The lookahead store of a channel's encode side. -/
def Blk.lookSize (b : Blk) : Nat := if b.enc then b.look * slotBytes b.width b.height b.chroma b.depth else 0
/-- Pages of a channel's analysis area (R245). -/
def Blk.pages (b : Blk) : Nat :=
  if b.enc then
    cdiv (5 * cdiv b.width 16 * cdiv b.height 16 * (b.look + 1) + cdiv (5 * b.width * b.height) 8) 4096
  else 0

/-- Pages of the device reserve that analysis areas may take: 15/16 of 3/128 of the raw capacity (R520). -/
def reservePages (s : State) : Nat := s.drm.raw * granule * 3 / 128 * 15 / 16 / 4096
/-- DEV_RSV_FREE: pages free now (R520). -/
def reserveFree (s : State) : Nat := reservePages s - s.vid.chan.foldl (fun n p => n + p.2.pages) 0

/-! DRAM quota (R31, R33). -/

/-- Granules in use, rounded up (HLDT_USE). -/
def dramUsed (s : State) (h : Nat) : Nat := cdiv (s.hd h).dramBytes granule
/-- The holding's quota has room for more bytes. -/
def dramFits (s : State) (h n : Nat) : Bool := decide (cdiv ((s.hd h).dramBytes + n) granule ≤ (s.hd h).qDram)
/-- Charge bytes to a holding. -/
def chargeDram (s : State) (h n : Nat) : State := s.modHd h fun x => { x with dramBytes := x.dramBytes + n }
/-- Return bytes to a holding. -/
def refundDram (s : State) (h n : Nat) : State := s.modHd h fun x => { x with dramBytes := x.dramBytes - n }

/-- Channels that count against a holding's quota (R176). -/
def chanCount (s : State) (h : Nat) : Nat := (s.vid.chan.filter fun p => p.2.hold == h).length

/-! The pool (R183). -/

/-- Reported states. -/
inductive Rep where
  | held | long | short | outPending | unused
  deriving DecidableEq, Repr

/-- The reported state of a buffer: the first that applies (R183). -/
def Buf.rep (b : Buf) : Rep :=
  if b.held then .held
  else match b.mark with
    | .long => .long
    | .short => .short
    | .none => if b.outp then .outPending else .unused

/-- Claims of a buffer: valid handles, and issued work and pictures being coded that refer to it (R183, R189). -/
def bufClaims (s : State) (n : Nat) : Nat :=
  let h := match s.buf n with | some b => b.handles | none => 0
  let w := s.job.work.foldl (fun k p => if p.2.uses.contains n then k + 1 else k) 0
  let l := s.vid.chan.foldl
    (fun k p =>
      let k1 := p.2.look.foldl (fun k i => if i.src = some n then k + 1 else k) k
      match p.2.cur with
      | some u => k1 + b2n (u.pic.src == some n) + b2n (u.buf == some n)
      | none => k1) 0
  let g := s.vid.grp.foldl
    (fun k p =>
      let k1 := p.2.look.foldl (fun k i => if i.src = some n then k + 1 else k) k
      match p.2.coding with | some u => k1 + b2n (u.pic.src == some n) | none => k1) 0
  h + w + l + g

/-- A buffer may be allocated: UNUSED and not claimed (R183). -/
def bufFree (s : State) (n : Nat) : Bool :=
  match s.buf n with
  | some b => b.rep == .unused && bufClaims s n = 0
  | none => false

/-- The buffers of a channel's pool. -/
def poolOf (s : State) (c : Nat) : List Nat := (s.vid.buf.filter fun p => p.2.chan == some c).map (·.1)

/-- The free buffers of a channel's pool, lowest number first. -/
def freeBufs (s : State) (c : Nat) : List Nat := (poolOf s c).filter (bufFree s)

/-- Buffers of a channel in a reported state. -/
def countRep (s : State) (c : Nat) (r : Rep) : Nat :=
  (s.vid.buf.filter fun p => p.2.chan == some c && p.2.rep == r).length

/-- A buffer outside any pool gives its storage back when its last claim is dropped (R176, R226). -/
def reapBuf (s : State) (n : Nat) : State :=
  match s.buf n with
  | some b =>
    if b.chan.isNone && bufClaims s n = 0 then
      refundDram (s.setVid { s.vid with buf := tdel s.vid.buf n }) b.hold b.size
    else s
  | none => s

/-- `reapBuf` on each of a list. -/
def reapBufs (s : State) (l : List Nat) : State := l.foldl reapBuf s

/-- A fresh picture of a pool buffer: what an earlier use left in it is gone. -/
def Buf.fresh (b : Buf) : Buf :=
  { hold := b.hold, chan := b.chan, size := b.size, addr := b.addr, depth := b.depth, handles := b.handles }

/-! Timestamps (R194, R195). -/

/-- round(k × 90,000 × RATE_DEN / RATE_NUM). -/
def framesTicks (b : Blk) (k : Nat) : Nat := rdiv (k * 90000 * b.den) b.num

/-- Extend a raw timestamp of `n` bits against the previous one; the Bool says that it is a discontinuity. `disc` is a
discontinuity_indicator. -/
def extendTs (b : Blk) (n raw : Nat) (disc : Bool) (prev : Option Ts) : Ts × Bool :=
  match prev with
  | none => ({ raw := raw, ext := w64 raw }, disc)
  | some p =>
    let m := (raw + 2 ^ n - p.raw % 2 ^ n) % 2 ^ n
    let big := if m < 2 ^ (n - 1) then decide (5400000 < m) else decide (5400000 < 2 ^ n - m)
    if big || disc then ({ raw := raw, ext := p.ext + w64 (framesTicks b 1) }, true)
    else
      let d : DWord := if m < 2 ^ (n - 1) then w64 m else w64 m - w64 (2 ^ n)
      ({ raw := raw, ext := p.ext + d }, false)

/-! Spans (R203, R206). -/

/-- The Field is enabled (FLD_CTRL.ENABLE). -/
def fieldOn (s : State) (f : Nat) : Bool := bit (s.r2 (A.fld f)) 0

/-- The first enabled Field from `f` on, counting past F7 to F0 (R68). -/
def nextField (s : State) (f : Nat) : Nat :=
  (((List.range 8).map fun i => (f + i) % 8).find? fun g => fieldOn s g).getD f

/-- The Fields of a channel's span, the home Field first (R203). -/
def spanFields (s : State) (home span : Nat) : List Nat :=
  home :: (((List.range 7).map fun i => (home + i + 1) % 8).filter fun g => fieldOn s g).take (span - 1)

/-- At a picture boundary the channel's home moves to the Field whose Drill issued the picture's instruction, else to the
Field of SPARAM HOME while that is enabled (R68). -/
def homeMove (s : State) (c : Nat) : State :=
  s.modChan c fun x =>
    let dest := match x.homeIss, x.homeSet with
      | some f, _ => f
      | none, some f => if bit (s.r2 (A.fld f)) 0 then f else x.home
      | none, none => x.home
    { x with home := dest, homeIss := none, homeSet := none, left := [] }

/-- The first video instruction of an OPEN channel begins (R174). -/
def beginChan (s : State) (c : Nat) : State :=
  s.modChan c fun x => { x with st := if x.st == .opened then .running else x.st, begun := true }

/-- A parameter of a channel, or its default. -/
def Chan.param (x : Chan) (id dflt : Nat) : Nat := tgetD x.par id dflt

end Sys2Proof.Machine
end

