-- ==== Sys2Proof/Machine/JobOps.lean ====
section
/-! DEFINITION. Completion rings (06), and what the Drills do around every instruction (04): which context issues, how an
instruction waits, faults and ends. -/

namespace Sys2Proof.Machine

/-! Ring indices (R120): slot in bits [14:0], lap flag in bit 15. -/

/-- The position of an index on two laps. -/
def idxPos (size i : Nat) : Nat := i / 0x8000 % 2 * size + i % 0x8000
/-- The index after `i`. -/
def idxNext (size i : Nat) : Nat :=
  if i % 0x8000 + 1 < size then i / 0x8000 % 2 * 0x8000 + i % 0x8000 + 1 else (1 - i / 0x8000 % 2) * 0x8000
/-- The distance from index `b` to index `a`. -/
def idxDist (size a b : Nat) : Nat := (idxPos size a + 2 * size - idxPos size b) % (2 * size)
/-- The PHASE bit of the entry at index `i` (R122). -/
def idxPhase (i : Nat) : Nat := 1 - i / 0x8000 % 2

/-- Key of a queue: holding × 1024 + local id. -/
def qkey (h q : Nat) : Nat := h * 1024 + q

/-! Completions (R135 to R140). -/

/-- The 32 bytes of a completion entry (R135). -/
def cqeBytes (e : Cqe) (pi ci : Nat) (ovf : Bool) (time : DWord) : List Byte :=
  toLE 4 (idxPhase pi + b2n e.final * 2 + b2n ovf * 4 + e.tag % 65536 * 65536) ++
  toLE 4 (e.status % 65536 + e.sqid % 1024 * 65536) ++
  toLE 4 (ci % 65536 + e.field % 8 * 65536 + e.ctx % 32 * 2 ^ 19) ++ toLE 4 0 ++
  toLE 8 e.result.toNat ++ toLE 8 time.toNat

/-- Set a submission queue. -/
def State.setSq (s : State) (k : Nat) (x : Sq) : State := s.setJob { s.job with sq := tset s.job.sq k x }
/-- Set a completion queue. -/
def State.setCq (s : State) (k : Nat) (x : Cq) : State := s.setJob { s.job with cq := tset s.job.cq k x }

/-- The ring is full (R121). -/
def Cq.isFull (q : Cq) : Bool := idxDist (2 ^ q.log2) q.pi q.ci = 2 ^ q.log2

/-- Write one entry into the ring at PI; source n fires for it (R136, R143). -/
def cqWrite (s : State) (k : Nat) (e : Cqe) : State :=
  match tget s.job.cq k with
  | none => s
  | some q =>
    let ci := match tget s.job.sq (k / 1024 * 1024 + e.sqid) with | some x => x.ci | none => 0
    let s1 := s.emit (.hostWrite (k / 1024) (q.base + q.pi % 0x8000 * 32) (cqeBytes e q.pi ci q.ovf s.tim.dtb))
    (s1.setJob { s1.job with cq := tset s1.job.cq k { q with pi := idxNext (2 ^ q.log2) q.pi, ovf := false } }).fire q.num

/-- Post a completion (R137 to R140). None: the hold is full and the caller waits. A queue that does not exist drops
it. -/
def cqPost (s : State) (k : Nat) (e : Cqe) : Option State :=
  match tget s.job.cq k with
  | none => some s
  | some q =>
    if q.dropOk then
      if q.isFull then
        some (s.setCq k { q with dropped := evInc31 q.dropped, ovf := true })
      else some (cqWrite s k e)
    else if q.hold.isEmpty && !q.isFull then some (cqWrite s k e)
    else if 64 ≤ q.hold.length then none
    else
      let hold := q.hold ++ [e]
      let q1 := { q with hold := hold, stop := q.stop || hold.length = 64 }
      if q.hold.isEmpty then
        some ((s.setCq k { q1 with full := evInc31 q.full }).fire q.num)
      else some (s.setCq k q1)

/-- Move entries from the hold into the ring, oldest first, and resume dispatch at 48 entries or fewer (R137, R138). -/
def cqDrain (s : State) (k : Nat) : Nat → State
  | 0 => s
  | n + 1 =>
    match tget s.job.cq k with
    | none => s
    | some q =>
      match q.hold with
      | [] => s.setCq k { q with stop := false }
      | e :: rest =>
        if q.isFull then s.setCq k { q with stop := q.stop && 48 < q.hold.length }
        else
          let s1 := cqWrite s k e
          cqDrain (s1.setJob { s1.job with cq := tmod s1.job.cq k fun x =>
            { x with hold := rest, stop := x.stop && 48 < rest.length } }) k n

/-- The CQ an SQ is bound to. -/
def cqOf (s : State) (h sqid : Nat) : Nat :=
  qkey h (match tget s.job.sq (qkey h sqid) with | some q => q.cqid | none => 1024)

/-! Contexts. -/

/-- Key of a job context. -/
def ckey (f c : Nat) : Nat := f * 32 + c

namespace State

/-- A job context in use. -/
def ctx (s : State) (k : Nat) : Option Ctx := tget s.job.ctx k
/-- Set a job context. -/
def setCtx (s : State) (k : Nat) (x : Ctx) : State := s.setJob { s.job with ctx := tset s.job.ctx k x }
/-- Change a job context. -/
def modCtx (s : State) (k : Nat) (f : Ctx → Ctx) : State := s.setJob { s.job with ctx := tmod s.job.ctx k f }

end State

/-- The key of an outstanding instruction whose context has been cancelled. -/
def noCtx : Nat := 512

/-- The instruction at the program counter, with the words after it, when all its words are there (R62, R64). -/
def nextIns (x : Ctx) : Option Ins :=
  match tget x.prog x.pc with
  | none => none
  | some w =>
    let i := insOf w
    if (List.range i.xw).all fun j => thas x.prog (x.pc + 1 + j) then some i
    else if (match x.plen with | some n => decide (n < x.pc + 1 + i.xw) | none => false) then some i
    else none

/-- An extra word of the instruction. -/
def extraWord (x : Ctx) : DWord := tgetD x.prog (x.pc + 1) 0

/-- The instruction is cut short by the end of its program (R77). -/
def cutShort (x : Ctx) (i : Ins) : Bool := match x.plen with | some n => decide (n < x.pc + 1 + i.xw) | none => false

/-- The words are those of an assigned instruction in its own form, and none is missing (R75, R77). -/
def formGood (x : Ctx) (i : Ins) : Bool :=
  match formOf i with
  | some f => formOk i f && !cutShort x i
  | none => false

/-- Opcodes that write their status to G15 (R71). -/
def writesG15 (i : Ins) : Bool :=
  [0x41, 0x42, 0x43, 0x60, 0x63, 0x65, 0xC2, 0xC3, 0xE0].contains i.op || (i.op = 0x66 && i.mod % 4 = 1)

/-- G registers an instruction reads or writes. -/
def gRegs (i : Ins) (f : Form) : List Nat :=
  let r := fun (sp : RegSpec) (n : Nat) => if sp != .zero && n < 16 then [n] else []
  r f.d i.d ++ r f.a i.a ++ r f.b i.b ++ (if writesG15 i then [15] else [])

/-- An outstanding instruction of the context will write one of the registers (R80). -/
def gBusy (s : State) (k : Nat) (l : List Nat) : Bool := s.job.work.any fun p => p.2.ctx == k && l.contains p.2.d

/-- The handle names a picture in the ROWS state (R81). -/
def inRows (s : State) (h : Word) : Bool :=
  if hType h = 2 then
    match tget s.job.obj (hSlot h) with
    | some o => (match s.buf o.ref with | some b => b.rows | none => false)
    | none => false
  else false

/-- The instruction consumes rows as they are published (R81, R113). -/
def rowsReader (i : Ins) : Bool := (0x81 ≤ i.op && i.op ≤ 0x85) && i.mod.testBit 0

/-- It reads a handle whose rows are still being produced, and must wait (R81). -/
def kBusy (s : State) (x : Ctx) (i : Ins) (f : Form) : Bool :=
  !rowsReader i && ((f.a != .zero && 16 ≤ i.a && inRows s (x.hnd i.a)) || (f.b != .zero && 16 ≤ i.b && inRows s (x.hnd i.b)))

/-- The instruction is asynchronous or a load, and so counts against R82. -/
def isAsync (i : Ins) : Bool := i.op = 0x30 || (0x80 ≤ i.op && i.op ≤ 0x86) || i.op = 0xC0 || i.op = 0xC1 || i.op = 0xC4

/-- The limits of 16 and 256 outstanding instructions leave room (R82). -/
def roomOut (s : State) (k : Nat) (i : Ins) : Bool :=
  !isAsync i ||
    (decide ((s.job.work.filter fun p => p.2.ctx == k).length < 16) &&
     decide ((s.job.work.filter fun p => p.2.ctx / 32 == k / 32).length < 256))

/-- The Drill of a Field runs: awake, its PLL locked, not in a self-test's isolation, and no safe state (R410, R409,
R437). -/
def drillRuns (s : State) (f : Nat) : Bool :=
  let x := s.fs f
  decide (x.fs ≤ 1) && !x.waking && !s.yoke.unlocked.contains f && x.test ≠ 2 && !s.flt.safe

/-- A fault of an entry stands at or before the program counter (R519). -/
def atBad (x : Ctx) : Bool := match x.bad with | some b => decide (b ≤ x.pc) | none => false

/-- The program counter has reached the end of a finished program (R77). -/
def atEnd (x : Ctx) : Bool := match x.plen with | some n => decide (n ≤ x.pc) | none => false

/-- The context is ready to issue the instruction `i` (R78, R80 to R82). -/
def ready (s : State) (k : Nat) (x : Ctx) (i : Ins) : Bool :=
  x.wait == .none && x.ended.isNone && x.pv.isNone && !atBad x && !atEnd x &&
  (match formOf i with
   | some f => !formGood x i || (!gBusy s k (gRegs i f) && !kBusy s x i f && roomOut s k i)
   | none => true)

/-- The context is ready with whatever instruction stands at its program counter. -/
def readyAny (s : State) (k : Nat) (x : Ctx) : Bool := match nextIns x with | some i => ready s k x i | none => false

/-- The Drill picks this context: no ready one has a higher priority, or the same and issued longer ago; a context that
has starved goes first (R78). -/
def picked (s : State) (k : Nat) (x : Ctx) : Bool :=
  match tget s.job.starved (k / 32) with
  | some c => c = k % 32
  | none => s.job.ctx.all fun p =>
      p.1 / 32 ≠ k / 32 || p.1 = k || !readyAny s p.1 p.2 || decide (p.2.prio < x.prio) ||
        (p.2.prio = x.prio && decide (x.last < p.2.last || (x.last = p.2.last && k < p.1)))

/-- Count an issue (R78, FLD_DRL_ISSUED). -/
def countIssue (s : State) (k : Nat) : State :=
  let s1 := (s.addq2 (A.drl (k / 32) + 8) 1).modCtx k fun x => { x with last := s.job.nextIssue }
  s1.setJob { s1.job with nextIssue := s.job.nextIssue + 1, starved := tdel s1.job.starved (k / 32) }

/-- The job ends: its status and result wait for the final completion (R83, R86). -/
def endJob (s : State) (k status : Nat) (result : DWord) : State :=
  s.modCtx k fun x => { x with ended := some (status, result), wait := .none }

/-- The job faults, with a word offset for its result (R84, R86). -/
def faultAt (s : State) (k status off : Nat) : State :=
  (endJob s k status (w64 (off % 65536))).modCtx k fun x => { x with fault := true }

/-- The job faults at its present instruction (R84, R86). -/
def faultJob (s : State) (k status : Nat) : State :=
  match s.ctx k with
  | some x => faultAt s k status x.pc
  | none => s

/-- One issue of an instruction of the opcode `op` and the kind `is` by context `c` of Field `f`: nothing unless the Drill
would issue it now; JOB_FAULT_ILLEGAL for a reserved bit; else the instruction's own effect, which sees the state after
the issue, the context and the fields. -/
def issue (op : Nat) (is : Ins → Bool) (f c : Nat) (s : State) (body : State → Nat → Ctx → Ins → State) : State :=
  let k := ckey f c
  match s.ctx k with
  | none => s
  | some x =>
    match nextIns x with
    | none => s
    | some i =>
      if i.op = op && is i && formGood x i && drillRuns s f && ready s k x i && picked s k x then
        let s1 := countIssue s k
        match formOf i with
        | some fm =>
          if reservedOk i fm then
            (match s1.ctx k with | some y => body s1 k y i | none => s1)
          else faultJob s1 k St.illegal
        | none => s
      else s

/-- The context with its instruction done. -/
def step1 (x : Ctx) (i : Ins) : Ctx := x.advance i.xw

/-- An instruction that only changes its context and then is done. -/
def issueCtx (op : Nat) (is : Ins → Bool) (f c : Nat) (s : State) (g : Ctx → Ins → Ctx) : State :=
  issue op is f c s fun s k x i => s.setCtx k (step1 (g x i) i)

/-- Every sub-kind of an opcode. -/
def anyIns (_ : Ins) : Bool := true

/-- Hand an instruction to the engines or the DMA engine: it is outstanding, its buffers are claimed, and the context
goes on (R79, R95). -/
def startWork (s : State) (k : Nat) (x : Ctx) (i : Ins) (w : Work) : State :=
  let s1 := s.setJob { s.job with work := tset s.job.work s.job.nextWork w, nextWork := s.job.nextWork + 1 }
  s1.setCtx k (step1 x i)

/-- An outstanding instruction ends: its G register takes the value, and its claims are dropped (R71, R95). -/
def endWork (s : State) (n : Nat) (v : DWord) : State :=
  match tget s.job.work n with
  | none => s
  | some w =>
    let s1 := (s.setJob { s.job with work := tdel s.job.work n }).modCtx w.ctx fun x => x.setG w.d v
    reapBufs s1 w.uses

/-- A status word of the general form (R95), with bits above the code. -/
def statusWord (code hi : Nat) : DWord := w64 (code % 65536 + hi * 65536)

/-- The job's class includes the engines of class `m` and up (R117). -/
def classOk (x : Ctx) (m : Nat) : Bool := decide (m ≤ x.cls)

/-- The instruction needs an engine (R90): a class below `m` faults; without the grant the context asks for it and
waits, and the instruction has not issued. The request ranks as live-link work when the instruction names such a
channel. `s0` is the state before the issue. -/
def withEngine (m : Nat) (live : Bool) (s0 s : State) (k : Nat) (x : Ctx) (body : State) : State :=
  if !classOk x m then faultJob s k St.cls
  else if x.granted then body
  else
    askGrant (s0.modCtx k fun y => { y with wait := .grant })
      { key := k, field := k / 32, hold := x.hold, cls := x.cls, live := live, fallow := 0 }

/-- The span Fields beyond the home Field: the home Drill asks for the job's class there (R205). -/
def askSpan (s : State) (k : Nat) (x : Ctx) (live : Bool) (fields : List Nat) : State :=
  fields.foldl
    (fun t f =>
      if t.yoke.grants.any fun g => g.key == spanKey k f then t
      else askGrant t { key := spanKey k f, field := f, hold := x.hold, cls := x.cls, live := live, fallow := 0 }) s

/-- The outstanding instructions of a job whose engine work needs a grant. -/
def engineWork (s : State) (k : Nat) : Bool := s.job.work.any fun p => p.2.ctx == k && p.2.engine

end Sys2Proof.Machine
end

