-- ==== Sys2Proof/Machine/NetOps.lean ====
section
/-! DEFINITION. What jobs, teardowns and the network share: table actions (R323), and the end of ingest and egress
flows. -/

namespace Sys2Proof.Machine

/-- KIND of an action word (R323): 0 NONE, 1 CHANNEL, 2 HOSTQ, 3 DROP, 4 EXCEPT, 5 RECIRC. -/
def actKind (a : Word) : Nat := fld a 0 3
/-- The channel of a CHANNEL action. -/
def actChan (a : Word) : Nat := fld a 3 8
/-- The receive ring of a HOSTQ action. -/
def actRing (a : Word) : Nat := fld a 3 10

/-- The action delivers to a channel or a receive ring of the holding (R36 step 3). -/
def actTo (s : State) (h : Nat) (a : Word) : Bool :=
  match actKind a with
  | 1 => (match s.chan (actChan a) with | some c => c.hold == h | none => false)
  | 2 => actRing a / 32 == h
  | _ => false

/-- T0 entry `i` (R324). -/
def t0Word (s : State) (i j : Nat) : Word := s.r2 (A.ingT0 i + 4 * j)
/-- First word of T3 entry `i` (R327). -/
def t3Addr (i : Nat) : Nat := 0x814000 + i * 0x80

/-- Set the ingest state. -/
def State.setIng (s : State) (x : Ing) : State := { s with ing := x }
/-- Set the egress state. -/
def State.setEgr (s : State) (x : Egr) : State := { s with egr := x }

/-- Drop the references on the chains of a list of held packets. -/
def dropPkts (s : State) (l : List Pkt) : State := l.foldl (fun t p => decRef t p.cell 0) s

/-- The end of an ingest flow: its T1 and T2 entries, its window and its handle go (R109, R335). -/
def endIngFlow (s : State) (t : Nat) : State :=
  match tget s.ing.flow t with
  | none => s
  | some f =>
    let s1 := dropPkts s (f.held ++ f.hist)
    let s2 := s1.setIng { s1.ing with
      flow := tdel s1.ing.flow t,
      t1 := s1.ing.t1.filter fun e => e.flow ≠ t,
      t2 := s1.ing.t2.filter fun e => e.flow ≠ t }
    (freeSlot s2 f.slot).putch f.chan B.ingPath 0 3 0

/-- The ingest flow bound to a channel. -/
def ingFlowOf (s : State) (c : Nat) : Option Nat := (s.ing.flow.find? fun p => p.2.chan == c).map (·.1)
/-- The egress flows that read a channel. -/
def egrFlowsOf (s : State) (c : Nat) : List Nat :=
  (s.egr.flow.filter fun p => p.2.chan == c && !p.2.closing).map (·.1)

/-- Drop an egress flow's references on items (R380). -/
def dropRefs (s : State) (l : List Nat) : State := l.foldl (fun t c => decRef t c 1) s

/-- Free the cells of TS packets that have gone, and the references that they end (R380). -/
def dropTs (s : State) (l : List TsPkt) : State :=
  l.foldl (fun t p => dropRefs (match p.cell with | some c => decRef t c 1 | none => t) p.refs) s

/-- Every packet an egress flow holds. -/
def EFlow.packets (f : EFlow) : List TsPkt := f.video ++ f.feedQ ++ f.psiQ ++ f.dgram ++ f.ready

/-- The end of an egress flow: its packets are freed and its handle goes. -/
def endEgrFlow (s : State) (e : Nat) : State :=
  match tget s.egr.flow e with
  | none => s
  | some f =>
    let s1 := dropRefs (dropTs s f.packets) (f.tail.map (·.1))
    freeSlot (s1.setEgr { s1.egr with flow := tdel s1.egr.flow e }) f.slot

/-- Ingest removes every T0 to T3 entry that delivers to the holding's channels or receive rings, and its flows (R36
step 3; which entries: log 20). -/
def ingestRemoveHold (s : State) (h : Nat) : State :=
  let s0 := (List.range 256).foldl
    (fun t i => if bit (t0Word t i 2) 6 && actTo s h (t0Word t i 3) then t.put2 (A.ingT0 i + 8) 6 1 0 else t) s
  let hits := (s.b2.filter fun p => 0x814000 ≤ p.1 && p.1 < 0x834000 && p.1 % 0x80 = 0x60).map (·.1)
  let s1 := hits.foldl (fun t a => if actTo s h (t.r2 a) then t.put2 (a + 4) 0 1 0 else t) s0
  let s2 := s1.setIng { s1.ing with t1 := s1.ing.t1.filter (fun e => !actTo s h e.action),
                                    t2 := s1.ing.t2.filter (fun e => !actTo s h e.action) }
  s2.ing.flow.foldl (fun t p => if p.2.hold = h then endIngFlow t p.1 else t) s2

/-- Egress stops the holding's flows and frees their packets (R36 step 3). -/
def egressRemoveHold (s : State) (h : Nat) : State :=
  s.egr.flow.foldl (fun t p => if p.2.hold = h then endEgrFlow t p.1 else t) s

end Sys2Proof.Machine
end

