-- ==== Sys2Proof/Machine/Teardown.lean ====
section
/-! DEFINITION. How channels end (R109, R173 to R176), and the teardown of a holding (R35, R36). -/

namespace Sys2Proof.Machine

/-- The outstanding instruction works on the channel. -/
def workOn (w : Work) (c : Nat) : Bool :=
  match w.kind with
  | .decPic x .. | .encPic x .. | .analyze x .. | .stats x .. => x == c
  | _ => false

/-- A channel enters FAILED on a SEV3 fault (R174, R175, R433): the sources waiting in its lookahead end with
STREAM_UNRECOVERABLE; a picture on engines runs to its end. -/
def failChannel (s : State) (c : Nat) : State :=
  match s.chan c with
  | none => s
  | some x =>
    if x.st == .failed || x.st == .draining then s
    else
      let s1 := s.setChan c { x with st := .failed, look := [] }
      let ids := x.look.map (·.work)
      let s2 := ids.foldl (fun t n => endWork t n (statusWord St.unrecoverable 0)) s1
      chanEvent (reapBufs s2 (x.look.filterMap (·.src))) c 4

/-- A channel reaches CLOSED (R176): its pins drop, its lookahead store and analysis area return, and a buffer that
is still claimed stands alone until its last claim goes. -/
def closeChannel (s : State) (c : Nat) : State :=
  match s.chan c with
  | none => s
  | some x =>
    let pool := poolOf s c
    let s1 := { s with vid := { s.vid with
      chan := tdel s.vid.chan c,
      buf := pool.foldl (fun t n => tmod t n fun b =>
        { b with chan := none, held := false, mark := .none, outp := false, rows := false }) s.vid.buf } }
    let s2 := reapBufs (refundDram s1 x.hold x.blk.lookSize) pool
    let s3 := fifoFree (fifoFree s2 (fin_ c)) (fout c)
    let s4 := { s3 with
      bc := s3.bc.filter fun p => p.1 / 0x10000 ≠ c,
      vid := { s3.vid with mux := tmap s3.vid.mux fun _ m => { m with members := remNat m.members c, active := remNat m.active c } } }
    { s4 with job := { s4.job with ctx := tmap s4.job.ctx fun _ y => { y with drains := remNat y.drains c } } }

/-- Take a context out of every semaphore and barrier. -/
def unwait (s : State) (k : Nat) : State :=
  s.setJob { s.job with
    sem := tmap s.job.sem fun _ m => { m with waiters := m.waiters.filter fun p => p.1 ≠ k },
    bar := tmap s.job.bar fun _ b => { b with arrived := remNat b.arrived k } }

/-- A job is cancelled without a completion (R36 step 2): its context and its grants go, and its data movement; pictures
on engines run on for nobody. -/
def cancelCtx (s : State) (k : Nat) : State :=
  match s.ctx k with
  | none => s
  | some x =>
    let gone := s.job.work.filter fun p => p.2.ctx == k && !p.2.engine
    let s1 := s.setJob { s.job with
      ctx := tdel s.job.ctx k,
      work := (s.job.work.filter fun p => !(p.2.ctx == k && !p.2.engine)).map fun p =>
        (p.1, if p.2.ctx = k then { p.2 with ctx := noCtx } else p.2),
      starved := if tget s.job.starved (k / 32) = some (k % 32) then tdel s.job.starved (k / 32) else s.job.starved }
    let s2 := reapBufs s1 (gone.flatMap fun p => p.2.uses)
    (releaseCtx (unwait s2 k) k).cnt0 x.hold B.hcCancelled

/-- Every queue of the holding is deleted without posting (R141): entries read and not taken that would have started a
job count as cancelled jobs. -/
def dropQueues (s : State) (h : Nat) : State :=
  let firsts := s.job.sq.foldl
    (fun n p => if p.1 / 1024 = h then n + (p.2.fetched.filter fun e => bit (e.headD 0) 1).length else n) 0
  let s1 := (List.range firsts).foldl (fun t _ => t.cnt0 h B.hcCancelled) s
  let s2 := s1.setJob { s1.job with
    sq := s1.job.sq.filter fun p => p.1 / 1024 ≠ h,
    cq := s1.job.cq.filter fun p => p.1 / 1024 ≠ h }
  (s2.put0 h B.admqCtrl 0 2 2).w0 h B.admqNums 0

/-- The receive rings and the DMA descriptor rings of a holding stop (R22, R363). -/
def stopRings (s : State) (h : Nat) : State :=
  let s1 := (List.range 32).foldl (fun t i => if bit (t.r0 h (B.rxr i + 8)) 0 then t.put0 h (B.rxr i + 8) 0 1 0 else t) s
  (List.range 16).foldl
    (fun t r =>
      if bit (t.r2 (A.dmaRingOwner r)) 5 && fld (t.r2 (A.dmaRingOwner r)) 0 5 = h then
        let t1 := match (tgetD t.dma.ring r {}).chain with | some k => decRef t k 0 | none => t
        { t1.put0 32 (B.dmar r + 8) 0 1 0 with
          dma := { t1.dma with ring := tmod t1.dma.ring r fun x =>
            { x with run := false, latch := false, cur := none, wait := false, chain := none, cells := 0 } } }
      else t) s1

/-- Sources lose PENDING, ACTIVE and the event counter (R165). -/
def clearSources (s : State) (p : Nat → Src → Bool) : State :=
  { s with intr := { s.intr with src := tmap s.intr.src fun n x =>
      if (p n x) then { x with pend := false, act := false, ev := 0, timer := false } else x } }

/-- At the event, the sources that follow the role lose their state when the holding has it, and so does the holding's VACANT
route (R165, log 57): what fires from then on stays (R27). -/
def clearRole (s : State) (h : Nat) : State :=
  let s1 := if s.adm.owner = some h then clearSources s (fun n x => 1280 ≤ n && x.hold = h) else s
  { s1 with intr := { s1.intr with vac := tmod s1.intr.vac h fun x => { x with pend := false, act := false } } }

/-- Steps 1 to 3 of an abrupt teardown (R36), at the moment of its event (log 17). One that is under way absorbs it
(R38). -/
def teardownStart (s : State) (h : Nat) (td : Td) : State :=
  let x := s.hd h
  if x.st == .resetting then s
  else
    let s1 := s.setHd h { x with st := .resetting, td := some td, cut := false, adm := [], idleWait := [], lowHeld := [] }
    let s2 := { s1 with intr := { s1.intr with held := s1.intr.held.filter fun v => v / 64 ≠ h }, pv := tdel s1.pv h }
    let s3 := (s2.job.ctx.filter fun p => p.2.hold == h).foldl (fun t p => cancelCtx t p.1) s2
    let s4 := stopRings (dropQueues s3 h) h
    let s5 := egressRemoveHold (ingestRemoveHold s4 h) h
    let s6 := clearRole s5 h
    if s6.adm.owner = some h then roleVacant s6 else s6

/-- The function's registers return to their reset values; the holding counters stay (R36, R57, R448). -/
def resetBar0 (s : State) (h : Nat) : State :=
  { s with
    intr := { s.intr with vac := tmod s.intr.vac h fun x => { x with vec := 0 } }
    b0 := s.b0.filter fun p => !(p.1 / 0x10000 = h && !(0x8000 ≤ p.1 % 0x10000 && p.1 % 0x10000 < 0x8020)) }

/-- ENABLE of an enabled holding is cleared, by a write or by a SEV3 fault (R28, R35, R433): the holding is native at once, a
PV16 function's registers are gone, and the teardown starts. -/
def clearEnable (s : State) (h : Nat) : State :=
  let x := s.hd h
  let t := if x.pv then resetBar0 s h else s
  teardownStart (t.setHd h { x with enable := false, pv := false }) h .disable

end Sys2Proof.Machine
end

