-- ==== Sys2Proof/Machine/Finish.lean ====
section
/-! DEFINITION. The Fault Collector's record (19), and the end of every step: faults that fired are recorded, then the
Interrupt Gatherer's messages go out. -/

namespace Sys2Proof.Machine

/-- The outcome of a command. -/
abbrev Res := Host.Outcome State Fault Refusal

/-- Default severities (R431, R472, R487). -/
def sevDflt (n : Nat) : Nat :=
  [4, 4, 4, 2, 2, 1, 2, 2, 0, 1, 2, 2, 0, 0, 0, 0, 2, 2, 1, 2, 1, 1, 4, 4, 2, 2, 1, 2, 2].getD n 0

/-- Sources whose severity is fixed. -/
def sevFixed (n : Nat) : Bool := n = 0 || n = 1 || n = 2 || n = 22

/-- LEVEL sources. -/
def levelSrc (n : Nat) : Bool := n < 4 || n = 27 || n = 28

/-- Reserved sources, which never fire. -/
def fltReserved (n : Nat) : Bool := n = 15 || 29 ≤ n

/-- The severity of a source now (R432). -/
def sevOf (s : State) (n : Nat) : Nat := tgetD s.flt.sev n (sevDflt n)

/-- FC_CTRL.THRESHOLD; values above 4 act as 4. -/
def fcThreshold (s : State) : Nat := Nat.min 4 (fld (s.r2 A.fcCtrl) 0 3)

/-- The scope of an event (R441): 2 a channel, 1 a holding, 0 the device. -/
def fireScope (f : Fire) : Nat := if f.src = 14 then 0 else if f.chan.isSome then 2 else if f.hold.isSome then 1 else 0

/-- Set the Fault Collector's state. -/
def State.setFlt (s : State) (x : Flt) : State := { s with flt := x }

/-- The log takes an entry in the rolling area, and in the first-fault area at or above THRESHOLD (R440). -/
def logFault (s : State) (sev : Nat) (f : Fire) : State :=
  let e : LogE := { src := f.src, sev := sev, scope := fireScope f, hold := f.hold.getD 0, chan := f.chan.getD 0,
                    seq := s.flt.seq, time := s.tim.dtb, info0 := f.info0, code := f.code, info1 := f.info1 }
  let l := s.flt
  let high := decide (fcThreshold s ≤ sev)
  let log1 := if high && l.ff < 32 then tset l.log l.ff e else l.log
  s.setFlt { l with
    log := tset log1 (32 + l.roll) e,
    ff := if high && l.ff < 32 then l.ff + 1 else l.ff,
    ffLost := if high && 32 ≤ l.ff then evInc31 l.ffLost else l.ffLost,
    roll := if l.roll + 1 < 480 then l.roll + 1 else 0,
    seq := l.seq + 1 }

/-- Entry to the safe state (R437). -/
def enterSafe (s : State) : State := s.setFlt { s.flt with safe := true }

/-- What a recorded fault does (R433). -/
def faultAct (s : State) (sev : Nat) (f : Fire) : State :=
  if sev = 4 then enterSafe s
  else if sev = 3 then
    match fireScope f with
    | 2 => failChannel s (f.chan.getD 0)
    | 1 =>
      let h := f.hold.getD 0
      if s.active h then clearEnable s h else s
    | _ => s
  else s

/-- The Collector records one fault: the status bit keeps the highest severity, the log takes its entry, source 1314 or
1315 is raised, and the fault acts (R433, R434, R443). -/
def recordFault (s : State) (f : Fire) : State :=
  if fltReserved f.src then s
  else
    let sev := sevOf s f.src
    let s1 := logFault s sev f
    let s2 := s1.setFlt { s1.flt with status := tset s1.flt.status f.src (Nat.max sev (tgetD s1.flt.status f.src 0)) }
    let s3 := faultAct s2 sev f
    s3.fire (if fcThreshold s ≤ sev then 1314 else 1315)

/-- Insert in ascending order of source (R434). -/
def insFire (f : Fire) : List Fire → List Fire
  | [] => [f]
  | g :: t => if f.src < g.src then f :: g :: t else g :: insFire f t

/-- Record every source that has fired, lowest number first; what records may fire is recorded after (R434). -/
def recordAll (s : State) : Nat → State
  | 0 => s
  | n + 1 =>
    match s.flt.fired with
    | [] => s
    | l =>
      let s1 := s.setFlt { s.flt with fired := [] }
      recordAll ((l.foldl (fun t f => insFire f t) []).foldl recordFault s1) n

/-- The end of a step from `s0` that has reached `s`. -/
def finish (s0 s : State) : State := settle s0 (recordAll s 4)

/-- A command's outcome: `s` with its faults recorded and its interrupt messages sent. -/
def done (s0 s : State) : Res := .next (finish s0 s)

/-- A write of BAR2 by function `w` (R23, R52): the holding with the role writes; another physical function's write is
counted and dropped; a VF's BAR2 does not exist. -/
def adminWrite (s : State) (w : Nat) (g : State → State) : State :=
  let x := s.hd w
  if !x.present || x.d3 then s
  else if s.adm.owner = some w then g s
  else if w % 16 = 0 then s.cnt2 (A.hostpDenied (w / 16)) 0 31
  else s

end Sys2Proof.Machine
end

