-- ==== Sys2Proof/Machine/PvQueue.lean ====
section
/-! DEFINITION. The queues of a PV16 holding (R489 to R492, R494): the weighted round robin, and completions. -/

namespace Sys2Proof.Machine

namespace State

/-- The queues of a PV16 holding. -/
def pvq (s : State) (h : Nat) : Pv := tgetD s.pv h {}
/-- Set the queues of a PV16 holding. -/
def setPvq (s : State) (h : Nat) (x : Pv) : State := { s with pv := tset s.pv h x }

end State

/-! The registers of a queue (R489). -/

/-- The LOG2, WEIGHT, BURST and ENABLE register of queue `q`. -/
def pvSqCtl (s : State) (h q : Nat) : Word := s.r0 h (0x108 + q * 0x20)
/-- Slots of a submission ring. -/
def pvSqSize (s : State) (h q : Nat) : Nat := 2 ^ fld (pvSqCtl s h q) 0 4
/-- WEIGHT; 0 acts as 1 (R492). -/
def pvWeight (s : State) (h q : Nat) : Nat := Nat.max 1 (fld (pvSqCtl s h q) 4 4)
/-- BURST; 0 acts as 1, and more than 64 acts as 64 (R492). -/
def pvBurst (s : State) (h q : Nat) : Nat := Nat.min 64 (Nat.max 1 (fld (pvSqCtl s h q) 8 7))
/-- Slots of the completion ring. -/
def pvCqSize (s : State) (h : Nat) : Nat := 2 ^ fld (s.r0 h 0x88) 0 4

/-- Queue `q` is enabled and has a descriptor that can be read (R491, R134). -/
def pvHas (s : State) (h q : Nat) : Bool :=
  let x := s.pvq h
  bit (pvSqCtl s h q) 15 && tgetD x.sqHead q 0 ≠ tgetD x.sqTail q 0 && !x.retry.contains q && !x.halt.contains q

/-- The queues of the holding are served (R489, R492). -/
def pvServed (s : State) (h : Nat) : Bool :=
  (s.hd h).pv && s.active h && bit (s.r0 h 4) 0 && !(s.pvq h).stop && !s.flt.safe

/-- Where the arbiter stands next: pass, queue, and the descriptors left in that visit, itself included (R492). -/
def pvNext (s : State) (h : Nat) : Option (Nat × Nat × Nat) :=
  let x := s.pvq h
  if !pvServed s h then none
  else if 0 < x.left && pvHas s h x.visit then some (x.pass, x.visit, x.left)
  else
    let at_ := (x.pass - 1) * 16 + x.visit + (if 0 < x.left then 1 else 0)
    ((List.range 240).map fun j => (at_ + j) % 240).findSome? fun i =>
      let q := i % 16
      if i / 16 + 1 ≤ pvWeight s h q && pvHas s h q then some (i / 16 + 1, q, pvBurst s h q) else none

/-- The arbiter moves on by one descriptor of a visit. -/
def pvMove (x : Pv) (v : Nat × Nat × Nat) : Pv :=
  if 1 < v.2.2 then { x with pass := v.1, visit := v.2.1, left := v.2.2 - 1 }
  else
    let i := ((v.1 - 1) * 16 + v.2.1 + 1) % 240
    { x with pass := i / 16 + 1, visit := i % 16, left := 0 }

/-! Completions (R490, R491, R494). -/

/-- The PV16 code of a native status (R494). -/
def pvCode (st : Nat) : Nat :=
  if [St.ok, St.level, St.resized, St.queued, St.ltrStale].contains st then 0x00
  else if st = St.concealed then 0x01
  else if st = St.stubble then 0x02
  else if st = St.hrd then 0x03
  else if [St.illegal, St.operand, St.cls, St.stack].contains st then 0x10
  else if st = St.handle || st = St.state then 0x11
  else if st = St.bounds then 0x12
  else if [St.format, St.source, St.colour].contains st then 0x13
  else if [St.pool, St.granary, St.queue].contains st then 0x20
  else if st = St.yoke || st = St.waitTimeout then 0x21
  else if st = St.hostAbort || st = St.remote then 0x30
  else if st = St.poison then 0x31
  else if st = St.noData || st = St.noPicture then 0x40
  else if st = St.unrecoverable then 0x41
  else if st = St.cancelQueue then 0x50
  else 0xFF

/-- The 16 bytes of a completion (R490). -/
def pvCqeBytes (e : PvCqe) (phase : Bool) : List Byte :=
  toLE 4 (e.code % 256 + e.queue % 16 * 2 ^ 8 + e.tag % 2 ^ 15 * 2 ^ 16 + b2n phase * 2 ^ 31) ++
    toLE 4 e.result ++ toLE 4 e.pic.toNat ++ toLE 4 (e.flags % 8)

/-- The completion ring is full: one slot stays unused (R491). -/
def pvCqFull (s : State) (h : Nat) : Bool :=
  decide (((s.pvq h).tail + 1) % pvCqSize s h = (s.pvq h).head)

/-- The CQ source of a PV16 holding (R495). -/
def pvCqNum (s : State) (h : Nat) : Nat := match tget s.job.cq (qkey h 0) with | some c => c.num | none => 2047

/-- One completion goes into the ring: the CQ source fires, PV_ERR and the channel's LAST_ERR take its code, and a class of
0x10 or above fires the ERR source (R489, R490, R495). -/
def pvWrite (s : State) (h : Nat) (e : PvCqe) : State :=
  let x := s.pvq h
  let a := (s.q0 h 0x80).toNat
  let s1 := s.emit (.hostWrite h (a + x.tail * 16) (pvCqeBytes e x.tailLap))
  let last := decide (pvCqSize s h ≤ x.tail + 1)
  let s2 := s1.setPvq h { x with tail := if last then 0 else x.tail + 1, tailLap := x.tailLap != last }
  let s3 := (s2.fire (pvCqNum s h)).put0 h (0x448 + e.queue % 16 * 0x80) 8 8 e.code
  let s4 := if e.code = 0 then s3 else s3.w0 h 0x0C (w32 (e.code % 256 + e.queue % 16 * 256))
  if 0x10 ≤ e.code then pvFire s4 h 1 else s4

/-- A completion is written, or put into the hold while the ring is full or the hold is not empty (R137 to R139, R492);
none while the hold is full. A hold episode that begins sets CQ_HOLD (log 53). -/
def pvPost (s : State) (h : Nat) (e : PvCqe) : Option State :=
  let x := s.pvq h
  if x.hold.isEmpty && !pvCqFull s h then some (pvWrite s h e)
  else if 64 ≤ x.hold.length then none
  else
    let l := x.hold ++ [e]
    let s1 := s.setPvq h { x with hold := l, stop := x.stop || l.length = 64 }
    some (if x.hold.isEmpty then pvRaise s1 h 1 else s1)

/-- The hold moves into the ring, oldest first, and dispatch resumes at 48 entries or fewer (R137, R138, R492). -/
def pvDrain (s : State) (h : Nat) : Nat → State
  | 0 => s
  | n + 1 =>
    let x := s.pvq h
    match x.hold with
    | [] => s
    | e :: rest =>
      if pvCqFull s h then s
      else
        let s1 := pvWrite s h e
        pvDrain (s1.setPvq h { s1.pvq h with hold := rest, stop := x.stop && 48 < rest.length }) h n

end Sys2Proof.Machine
end

