-- ==== Sys2Proof/Machine/Jobs.lean ====
section
/-! DEFINITION. How jobs come to a Field and move between Fields (04): the commands JOB_PLACE,
ISSUE_STARVATION_OVERRIDE, PROGRAM_LINE_FETCH, JOB_FIELD_MOVE and CHANNEL_HOME_MOVE. -/

namespace Sys2Proof.Machine

/-! Submission entries (R123 to R125): eight 64-bit words. -/

/-- Word `i` of an entry. -/
def eword (e : List DWord) (i : Nat) : DWord := e.getD i 0
/-- FIRST. -/
def eFirst (e : List DWord) : Bool := bit (eword e 0) 1
/-- LAST. -/
def eLast (e : List DWord) : Bool := bit (eword e 0) 2
/-- KIND: pointed. -/
def ePointed (e : List DWord) : Bool := bit (eword e 0) 3
/-- NWORDS. -/
def eNwords (e : List DWord) : Nat := fld (eword e 0) 4 3
/-- The instruction words of an inline entry (R124). -/
def eWords (e : List DWord) : List DWord := (e.drop 2).take (eNwords e)

/-- The header of an entry, NWORDS among it, breaks no rule of R123 to R125. -/
def entryOk (e : List DWord) : Bool :=
  let a := eword e 0
  let b := eword e 1
  let inline_ := 1 ≤ eNwords e && eNwords e ≤ 6
  fld a 7 1 = 0 && fld a 11 1 = 0 && fld a 14 2 = 0 && fld a 48 16 = 0 &&
  (if eFirst e then
    (if ePointed e then eNwords e = 0 && eLast e && fld b 16 48 = 0 && eword e 7 = 0 else inline_ && b = 0)
  else !ePointed e && fld a 8 3 = 0 && fld a 12 2 = 0 && fld a 16 16 = 0 && fld a 32 16 = 0 && b = 0 && inline_)

/-- Add the words of an entry to a context's program from its present end. -/
def addWords (x : Ctx) (ws : List DWord) : Ctx :=
  { x with prog := (ws.zipIdx).foldl (fun t p => tset t (x.words + p.2) p.1) x.prog, words := x.words + ws.length }

/-- An entry's effect on the context of its job: its words join the program, or its fault is marked at the word they would
have begun at (R519); LAST finishes the program. -/
def takeWords (x : Ctx) (e : List DWord) (n : Nat) : Ctx :=
  if x.bad.isSome || x.ended.isSome then x
  else if entryOk e && n ≤ 64 then
    let y := addWords { x with entries := n } (eWords e)
    if eLast e then { y with plen := some y.words } else y
  else { x with bad := some x.words }

/-! Placement (R66, R67). -/

/-- Contexts of a Drill in use. -/
def drillBusyN (s : State) (f : Nat) : Nat := (s.job.ctx.filter fun p => p.1 / 32 == f).length

/-- Contexts of a Drill a holding occupies. -/
def drillHold (s : State) (f h : Nat) : Nat := (s.job.ctx.filter fun p => p.1 / 32 == f && p.2.hold == h).length

/-- FLD_DRL_CTRL.HOLD_CAP. -/
def holdCap (s : State) (f : Nat) : Nat := let c := fld (s.r2 (A.drl f)) 0 6; if c = 0 || 32 < c then 32 else c

/-- Rule 1 of R67. -/
def fieldRoom (s : State) (f h : Nat) : Bool := decide (drillBusyN s f < 32) && decide (drillHold s f h < holdCap s f)

/-- The enabled Fields that an affinity allows (R66): 0b01 the home Field of the holding's channel, any Field where no
such channel is open (log 21). -/
def allowed (s : State) (h aff arg : Nat) : List Nat :=
  let all := (List.range 8).filter (fieldOn s)
  match aff with
  | 1 => (match s.chan arg with | some c => if c.hold = h then all.filter (· == c.home) else all | none => all)
  | 2 => all.filter fun f => arg.testBit f
  | _ => all

/-- The Field is in FS0 or FS1 for placement; a Field under a due self-test counts as FS2 (R427). -/
def fieldAwake (s : State) (f : Nat) : Bool := decide ((s.fs f).fs ≤ 1) && (s.fs f).test = 0

/-- The Field that the rules of R67 choose. -/
def chooseField (s : State) (h aff arg : Nat) : Option Nat :=
  let a := (allowed s h aff arg).filter fun f => fieldRoom s f h
  let b := if aff = 1 || aff = 2 then a else a.filter fun f => !bit (s.r2 (A.drl f)) 8
  let awake := b.filter (fieldAwake s)
  let c := if awake.isEmpty then b else awake
  c.foldl (fun best f =>
    match best with
    | none => some f
    | some g => if drillBusyN s f < drillBusyN s g then some f else some g) none

/-- A job placed on a Field under a self-test that is not due stops the test (R427). -/
def stopIdleTest (s : State) (f : Nat) : State :=
  if (s.fs f).test = 3 then
    let s1 := releaseGrant (s.modFs f fun x => { x with test := 0 }) (256 + f)
    s1.setYoke { s1.yoke with fallow := remNat s1.yoke.fallow (5 * 32 + f) }
  else s

/-- The request for the base of the Field of a context (R90): met at once on a Field that holds its base. -/
def askBase (s : State) (k h : Nat) : State :=
  let r : YReq := { key := 512 + k, field := k / 32, hold := h, cls := 0, live := false, fallow := 0 }
  if (enabledEng s (k / 32)).testBit 11 then admitReq s r else askGrant s r

/-- The head entry of an SQ starts a job on a Field and in its lowest free context (R66, R69, R70, R90). -/
def placeJob (s : State) (h q : Nat) (x : Sq) (e : List DWord) (rest : List (List DWord)) (f : Nat) : State :=
  match lowestFree s.job.ctx (f * 32) 32 with
  | none => s
  | some k =>
    let a := eword e 0
    let ok := entryOk e && fld a 12 2 ≠ 3
    let y0 : Ctx :=
      { hold := h, sqid := q, tag := fld a 16 16, cls := fld a 8 3, aff := fld a 12 2, affArg := fld a 32 8,
        tmo := fld a 40 8, prio := x.prio, wait := .base }
    let y := if !ok then { y0 with bad := some 0 }
      else if ePointed e then
        { y0 with
          plen := some (fld (eword e 1) 0 16 + 1), ptr := some (eword e 2),
          g := (List.range 4).foldl (fun t i => bankSet t (fun _ => 0) i (eword e (3 + i))) [] }
      else takeWords y0 e 1
    let open_ := !ePointed e && !eLast e
    let x1 : Sq :=
      { x with
        ci := idxNext (2 ^ x.log2) x.ci, fetched := rest, sheaf := if open_ then some k else none, discard := false }
    let s1 := s.setJob { s.job with ctx := tset s.job.ctx k y, sq := tset s.job.sq (qkey h q) x1 }
    askBase (stopIdleTest s1 f) k h

/-- The open sheaf's job takes an entry, or discards it (R126, R519). -/
def takeMore (s : State) (h q : Nat) (x : Sq) (e : List DWord) (rest : List (List DWord)) : State :=
  let x1 := { x with ci := idxNext (2 ^ x.log2) x.ci, fetched := rest,
                     sheaf := if eLast e then none else x.sheaf, discard := x.discard && !eLast e }
  let s1 := s.setSq (qkey h q) x1
  match x.sheaf with
  | some k => s1.modCtx k fun y => takeWords y e (y.entries + 1)
  | none => s1

/-- A job whose sheaf a new FIRST entry cuts off faults at its next instruction boundary (R127). -/
def cutSheaf (s : State) (k : Nat) : State :=
  match s.ctx k with
  | none => s
  | some y =>
    if y.ended.isSome || y.bad.isSome then s
    else if y.wait == .none || y.wait == .base || y.wait == .grant then faultAt s k St.illegal y.pc
    else s.setCtx k { y with bad := some (y.pc + 1) }

/-- Continuations and orphans at the head of what has been read are taken, up to the next entry with FIRST (R126 to
R128). -/
def drainSq (s : State) (h q : Nat) : Nat → State
  | 0 => s
  | n + 1 =>
    match tget s.job.sq (qkey h q) with
    | none => s
    | some x =>
      match x.fetched with
      | [] => s
      | e :: rest =>
        if eFirst e then
          match x.sheaf with
          | some k => (cutSheaf s k).setSq (qkey h q) { x with sheaf := none }
          | none => if x.discard then s.setSq (qkey h q) { x with discard := false } else s
        else if x.sheaf.isSome || x.discard then drainSq (takeMore s h q x e rest) h q n
        else
          drainSq (s.setSq (qkey h q)
            { x with ci := idxNext (2 ^ x.log2) x.ci, fetched := rest, orphans := evInc31 x.orphans }) h q n

/-- The CQ of an SQ takes jobs (R138). -/
def dispatchOn (s : State) (h : Nat) (x : Sq) : Bool :=
  match tget s.job.cq (qkey h x.cqid) with | some c => !c.stop | none => true

/-- The SQ's head job could be placed now. -/
def placeable (s : State) (h : Nat) (x : Sq) : Bool :=
  x.enable && !x.stopped && dispatchOn s h x &&
  (match x.fetched with
   | e :: _ => eFirst e && (chooseField s h (fld (eword e 0) 12 2) (fld (eword e 0) 32 8)).isSome
   | [] => false)

/-- A descriptor of the PV16 holding `h` could be placed now: the queues of the holding are one SQ of priority 1 (R492), and
its job has affinity to the queue's channel (R494). -/
def pvPlaceable (s : State) (h : Nat) : Bool :=
  match pvNext s h with
  | some (_, q, _) => (chooseField s h 1 ((s.hd h).pvChans.getD q 0)).isSome
  | none => false

/-- No SQ, and no PV16 holding, of a higher priority could place a job now (R132, R492). -/
def firstInLine (s : State) (prio : Nat) : Bool :=
  (s.job.sq.all fun p => decide (p.2.prio ≤ prio) || !placeable s (p.1 / 1024) p.2) &&
    (decide (1 ≤ prio) || s.pv.all fun p => !pvPlaceable s p.1)

/-- JOB_PLACE (R66, R67, R69, R70, R90, R132): the job at the head of SQ `q` of holding `h` is taken, when no placeable
head has a higher SQ priority. -/
def execJobPlace (h q : Nat) (s : State) : Res :=
  match tget s.job.sq (qkey h q) with
  | none => .next s
  | some x =>
    if q ≠ 0 && !s.flt.safe && s.active h && placeable s h x && firstInLine s x.prio then
      match x.fetched with
      | e :: rest =>
        match chooseField s h (fld (eword e 0) 12 2) (fld (eword e 0) 32 8) with
        | some f => .next (drainSq (placeJob s h q x e rest f) h q 16)
        | none => .next s
      | [] => .next s
    else .next s

/-- ISSUE_STARVATION_OVERRIDE (R78): a context ready for 1024 cycles takes the Drill's next issue. -/
def execIssueStarvationOverride (f c : Nat) (s : State) : Res :=
  match s.ctx (ckey f c) with
  | some x =>
    if readyAny s (ckey f c) x && drillRuns s f then
      .next (s.setJob { s.job with starved := tset s.job.starved f c })
    else .next s
  | none => .next s

/-- The first program word the context needs and does not have (R64). -/
def wantWord (x : Ctx) : Option Nat :=
  match x.plen, x.ptr with
  | some n, some _ =>
    if n ≤ x.pc then none
    else
      match tget x.prog x.pc with
      | none => some x.pc
      | some w => ((List.range (insOf w).xw).map (x.pc + 1 + ·)).find? fun o => decide (o < n) && !thas x.prog o
  | _, _ => none

/-- Granules of a holding that are CRITICAL, from offset 0 (R401). -/
def critGranules (s : State) (h : Nat) : Nat := Nat.min (fld (s.r0 h B.dramCrit) 0 5) (Nat.min 16 (s.hd h).qDram)

/-- Put the words of a line whose first word stands at offset `o` (which may lie before the program) into it. -/
def putLine (x : Ctx) (n : Nat) (o : Int) (ws : List DWord) : Ctx :=
  let t := ws.zipIdx.foldl
    (fun t p => let i := o + p.2; if 0 ≤ i ∧ i < n then tset t i.toNat p.1 else t) x.prog
  { x with prog := t }

/-- PROGRAM_LINE_FETCH (R63, R64): the Drill fetches the 256-byte line of the next word it needs. `line` is what a line of
host memory holds (log 5); a line in device memory is read there. -/
def execProgramLineFetch (f c : Nat) (line : List DWord) (s : State) : Res :=
  let k := ckey f c
  match s.ctx k with
  | none => .next s
  | some x =>
    match wantWord x, x.plen, x.ptr with
    | some w, some n, some p =>
      if x.ended.isSome || x.wait != .none || atBad x || !drillRuns s f then .next s
      else
        let a := p.toNat % 2 ^ 62 + 8 * w
        let base := a / 256 * 256
        let off : Int := (w : Int) - (((a - base) / 8 : Nat) : Int)
        if p.toNat % 8 ≠ 0 then done s (faultJob s k St.bounds)
        else
          match place s x.hold (p + w64 (8 * w)) 8 with
          | some (.host _) => .next ((s.addq0 x.hold B.hcDma 256).setCtx k (putLine x n off line))
          | some (.dev d) =>
            if d / granule < critGranules s x.hold then
              let ws := (List.range 32).map fun i => w64 (leNat (readDev s x.hold (base + 8 * i) 8))
              .next (s.setCtx k (putLine x n off ws))
            else done s (faultJob s k St.bounds)
          | _ => done s (faultJob s k St.bounds)
    | _, _, _ => .next s

/-- JOB_FIELD_MOVE (R39, R67): a job of a disabled Field moves, at a picture boundary, to another Field that has room. -/
def execJobFieldMove (f c : Nat) (s : State) : Res :=
  let k := ckey f c
  match s.ctx k with
  | none => .next s
  | some x =>
    if fieldOn s f || engineWork s k then .next s
    else
      match (chooseField s x.hold x.aff x.affArg).bind fun g => (lowestFree s.job.ctx (g * 32) 32) with
      | none => .next s
      | some m =>
        let s1 := releaseCtx s k
        let re := fun (n : Nat) => if n = k then m else n
        let w := match x.wait with | .none | .grant => Wait.base | o => o
        let s2 := s1.setJob { s1.job with
          ctx := tset (tdel s1.job.ctx k) m { x with wait := w, granted := false },
          work := tmap s1.job.work fun _ y => { y with ctx := re y.ctx },
          sq := tmap s1.job.sq fun _ q => { q with sheaf := q.sheaf.map re },
          sem := tmap s1.job.sem fun _ y => { y with waiters := y.waiters.map fun p => (re p.1, p.2) },
          bar := tmap s1.job.bar fun _ y => { y with arrived := y.arrived.map re },
          starved := if tget s1.job.starved f = some c then tdel s1.job.starved f else s1.job.starved }
        .next (askBase (stopIdleTest s2 (m / 32)) m x.hold)

/-- CHANNEL_HOME_MOVE (R68, R206, R449): at a picture boundary the channel's home moves as R68 decides, and away from a
Field that is disabled; `us` is the time the move took, which counts among the channel's MEM waits. -/
def execChannelHomeMove (c us : Nat) (s : State) : Res :=
  match s.chan c with
  | none => .next s
  | some x =>
    if x.cur.isSome || (s.job.work.any fun p => p.2.engine && workOn p.2 c) then .next s
    else
      let s1 := homeMove s c
      let s2 := s1.modChan c fun y => if fieldOn s1 y.home then y else { y with home := nextField s1 y.home }
      let moved := match s2.chan c with | some y => decide (y.home ≠ x.home) | none => false
      .next (if moved then s2.addqch c B.waitMem (Nat.min us 20) else s2)

end Sys2Proof.Machine
end

