-- ==== Sys2Proof/Machine/Rings.lean ====
section
/-! DEFINITION. Submission rings and their doorbells (06): the commands SQ_DOORBELL, CQ_DOORBELL, SQ_ENTRY_TAKE,
SQ_PHASE_RETRY, SQ_READ_FAIL and SQ_IDLE, and the admin queue's ADMQ_ENABLE and ADMQ_DISABLE. -/

namespace Sys2Proof.Machine

/-- The function answers its BARs (R48). -/
def barOn (s : State) (h : Nat) : Bool := (s.hd h).present && !(s.hd h).d3

/-- SQ_DOORBELL (R129 to R131, R518): accepted when the new index lies on the path from the last accepted one to
CI + size; any accepted write lets a stopped SQ read again. -/
def execSqDoorbell (h q : Nat) (v : Word) (s : State) : Res :=
  let k := qkey h q
  match tget s.job.sq k with
  | none => .next s
  | some x =>
    let n := fld v 0 16
    let size := 2 ^ x.log2
    if !barOn s h || !s.active h || 1024 ≤ q then .next s
    else if n % 0x8000 < size && idxDist size x.pi x.ci ≤ idxDist size n x.ci && idxDist size n x.ci ≤ size then
      .next (s.setSq k { x with pi := n, stopped := false })
    else .next (s.setSq k { x with dbInvalid := evInc31 x.dbInvalid })

/-! The admin queue. -/

/-- The fields of an admin entry (R142). -/
structure AdmE where
  /-- ADM_OP. -/
  op : Nat
  /-- TAG. -/
  tag : Nat
  /-- QID. -/
  qid : Nat
  /-- ADDR. -/
  addr : Nat
  /-- LOG2. -/
  log2 : Nat
  /-- DROP_OK. -/
  dropOk : Bool
  /-- IEN. -/
  ien : Bool
  /-- PRIO. -/
  prio : Nat
  /-- VECTOR. -/
  vec : Nat
  /-- CQID. -/
  cqid : Nat
  /-- ENABLE. -/
  enable : Bool
  /-- CQSEL. -/
  cqsel : Bool
  /-- CLEAR. -/
  clear : Bool
  /-- FIRST and LAST are set and every reserved bit is 0. -/
  ok : Bool
  deriving DecidableEq, Repr

/-- An admin entry's fields (R142). -/
def admOf (e : List DWord) : AdmE :=
  let a := eword e 0
  let b := eword e 2
  { op := fld a 8 8, tag := fld a 16 16, qid := fld a 32 10, addr := (eword e 1).toNat, log2 := fld b 0 4,
    dropOk := bit b 4, ien := bit b 5, prio := fld b 6 2, vec := fld b 8 6, cqid := fld b 16 10, enable := bit b 32,
    cqsel := bit b 33, clear := bit b 34,
    ok := eFirst e && eLast e && fld a 3 5 = 0 && fld a 42 22 = 0 && fld b 14 2 = 0 && fld b 26 6 = 0 && fld b 35 29 = 0 &&
      (List.range 5).all fun i => eword e (3 + i) = 0 }

/-- An entry of an assigned command in good form (R142, R143). -/
def admGood (e : AdmE) : Bool := e.ok && 1 ≤ e.op && e.op ≤ 6

/-- Post an admin command's completion to the admin CQ (R143). -/
def admPost (s : State) (h tag status : Nat) (result : DWord) : Option State :=
  cqPost s (qkey h 0) { final := true, tag := tag, status := status, sqid := 0, field := 0, ctx := 0, result := result }

/-- Entries at the head that are no command complete with JOB_FAULT_ILLEGAL in their turn (R143). -/
def admFlush (s : State) (h : Nat) : Nat → State
  | 0 => s
  | n + 1 =>
    match (s.hd h).adm with
    | [] => s
    | e :: rest =>
      if admGood (admOf e) then s
      else
        match admPost s h (admOf e).tag St.illegal 0 with
        | some s1 => admFlush (s1.modHd h fun x => { x with adm := rest }) h n
        | none => s

/-- CQ_DOORBELL (R129, R130, R137, R138): an accepted consumer index frees slots, and the hold moves into the ring. -/
def execCqDoorbell (h q : Nat) (v : Word) (s : State) : Res :=
  let k := qkey h q
  match tget s.job.cq k with
  | none => .next s
  | some x =>
    let n := fld v 0 16
    let size := 2 ^ x.log2
    if !barOn s h || !s.active h || 1024 ≤ q then .next s
    else if n % 0x8000 < size && idxDist size x.pi n ≤ idxDist size x.pi x.ci then
      let s1 := s.setCq k { x with ci := n }
      let s2 := if s.flt.safe && q ≠ 0 then s1 else cqDrain s1 k 65
      done s (if q = 0 then admFlush s2 h ((s2.hd h).adm.length + 1) else s2)
    else .next (s.setCq k { x with dbInvalid := evInc31 x.dbInvalid })

/-- One entry of the admin SQ is taken (R133). -/
def takeAdm (s : State) (h : Nat) (e : List DWord) : State :=
  match tget s.job.sq (qkey h 0) with
  | none => s
  | some x =>
    (s.setSq (qkey h 0) { x with ci := idxNext (2 ^ x.log2) x.ci }).modHd h fun y => { y with adm := y.adm ++ [e] }

/-- Entries of a group read, from the device's consumer index on: each with the right PHASE is taken into the device, and
the first with the wrong one stops the group (R133, R134). -/
def readGroup (i size : Nat) : List (List DWord) → List (List DWord) × Bool
  | [] => ([], false)
  | e :: rest =>
    if fld (eword e 0) 0 1 = idxPhase i then
      let (l, r) := readGroup (idxNext size i) size rest
      (e :: l, r)
    else ([], true)

/-- What a group read of an SQ does with the entries it returned. -/
def takeGroup (s : State) (h q : Nat) (x : Sq) (es : List (List DWord)) : State :=
  let (l, bad) := readGroup x.ci (2 ^ x.log2) es
  let s1 := s.setSq (qkey h q) { x with retry := bad, fetched := if q = 0 then [] else l }
  if q = 0 then admFlush (l.foldl (fun t e => takeAdm t h e) s1) h (l.length + (s1.hd h).adm.length + 1)
  else drainSq s1 h q 16

/-- The SQ may read entries now (R133, R145, R518): enabled, not stopped, with nothing read that is not taken; in the safe
state only the admin SQ reads (R437). -/
def sqReads (s : State) (h q : Nat) (x : Sq) : Bool :=
  x.enable && !x.stopped && x.fetched.isEmpty && x.pi ≠ x.ci && s.active h && (q = 0 || !s.flt.safe)

/-- SQ_ENTRY_TAKE (R126 to R128, R131 to R134, R142, R519): a group read of up to 8 entries returns `es` (log 5), each
eight 64-bit words; they begin at CI and end before the accepted PI. -/
def execSqEntryTake (h q : Nat) (es : List (List DWord)) (s : State) : Res :=
  match tget s.job.sq (qkey h q) with
  | none => .next s
  | some x =>
    if sqReads s h q x && !x.retry && 1 ≤ es.length && es.length ≤ 8 && es.length ≤ idxDist (2 ^ x.log2) x.pi x.ci then
      done s (takeGroup s h q x es)
    else .next s

/-- The eight 32-bit words of a PV16 descriptor, read as 64-bit words (R490). -/
def pvWords (e : List DWord) : List Word := e.flatMap fun w => [loW w, hiW w]

/-- The descriptor at the head of a PV16 queue is read again (R134, R491): with the right PHASE it can be taken. -/
def pvReread (s : State) (h q : Nat) (d : List Word) : State :=
  let x := s.pvq h
  if pvServed s h && x.retry.contains q && bit (pvSqCtl s h q) 15 && d.length = 8 &&
      bit (d.getD 0 0) 31 = tgetD x.sqPhase q true then
    s.setPvq h { x with retry := remNat x.retry q, fetched := tset x.fetched q d }
  else s

/-- SQ_PHASE_RETRY (R134, R491): the entry at CI is read again, counted, and taken when its PHASE is right; on a PV16 holding
the descriptor of queue `q`, of which `e` holds the words. -/
def execSqPhaseRetry (h q : Nat) (e : List DWord) (s : State) : Res :=
  match tget s.job.sq (qkey h q) with
  | none => .next (if (s.hd h).pv then pvReread s h q (pvWords e) else s)
  | some x =>
    if sqReads s h q x && x.retry then done s (takeGroup s h q { x with phaseRetry := evInc31 x.phaseRetry } [e])
    else .next s

/-- A failed read of an SQ entry (R50, R518): HOST_ABORT is logged with the address, the SQ stops at its index. A PV16 queue
acts likewise until its next SQ_TAIL write (log 53). -/
def sqReadFail (s : State) (h q : Nat) : State :=
  match tget s.job.sq (qkey h q) with
  | none =>
    if pvServed s h && pvHas s h q && q < 16 then
      let x := s.pvq h
      ((s.setPvq h { x with halt := insNat x.halt q }).cnt0 h B.hcAbort).raise
        { src := 13, hold := some h, info0 := (s.q0 h (0x100 + q * 0x20)).toNat + tgetD x.sqHead q 0 * 32, code := St.hostAbort }
    else s
  | some x =>
    if sqReads s h q x then
      ((s.setSq (qkey h q) { x with stopped := true }).cnt0 h B.hcAbort).raise
        { src := 13, hold := some h, info0 := x.base + x.ci % 0x8000 * 64, code := St.hostAbort }
    else s

/-- SQ_READ_FAIL (R518). -/
def execSqReadFail (h q : Nat) (s : State) : Res := done s (sqReadFail s h q)

/-- IDLE of an SQ (R145): disabled, no context holds a job of it, and no completion of its jobs waits in the hold. -/
def sqIdleNow (s : State) (h q : Nat) (x : Sq) : Bool :=
  !x.enable && !(s.job.ctx.any fun p => p.2.hold == h && p.2.sqid == q && p.2.pv.isNone) &&
  (match tget s.job.cq (qkey h x.cqid) with | some c => !(c.hold.any fun e => e.sqid == q) | none => true) &&
  (q ≠ 0 || ((s.hd h).adm.isEmpty && (s.hd h).idleWait.isEmpty))

/-- The SET_SQ_ENABLE commands that waited for an SQ complete, oldest first (R143). -/
def postIdle (s : State) (h q : Nat) : Nat → State
  | 0 => s
  | n + 1 =>
    match (s.hd h).idleWait.find? fun p => p.1 == q with
    | none => s
    | some p =>
      match admPost s h p.2 St.ok 0 with
      | some s1 => postIdle (s1.modHd h fun x => { x with idleWait := x.idleWait.erase p }) h q n
      | none => s

/-- SQ_IDLE (R141, R143, R145): an SQ has become idle; for the admin SQ the pair and its numbers are freed and
ADMQ_CTRL.IDLE sets. -/
def execSqIdle (h q : Nat) (s : State) : Res :=
  match tget s.job.sq (qkey h q) with
  | none => .next s
  | some x =>
    if sqIdleNow s h q x then
      if q = 0 then
        let s1 := s.setJob { s.job with sq := tdel s.job.sq (qkey h 0), cq := tdel s.job.cq (qkey h 0) }
        .next ((s1.put0 h B.admqCtrl 1 1 1).w0 h B.admqNums 0)
      else done s (postIdle s h q ((s.hd h).idleWait.length))
    else .next s

/-- A free device-wide number for a queue, the lowest (R118). -/
def freeNum (used : List Nat) : Option Nat := (List.range 1024).find? fun n => !used.contains n
/-- Numbers of SQs in use. -/
def sqNums (s : State) : List Nat := s.job.sq.map fun p => p.2.num
/-- Numbers of CQs in use. -/
def cqNums (s : State) : List Nat := s.job.cq.map fun p => p.2.num

/-- The device writes the TARGET of a CQ's source at its creation (R158). -/
def cqTarget (s : State) (n h vec : Nat) (en : Bool) : State :=
  s.setSrc n { s.src n with hold := h, vec := vec, prio := 8, en := en }

/-- Writes of SQ_LOG2, CQ_LOG2 and VECTOR count only while ENABLE is 0 and IDLE is 1 (R141). -/
def admqFields (s : State) (h : Nat) (v : Word) : State :=
  if fld (s.r0 h B.admqCtrl) 0 2 = 2 then s.put0 h B.admqCtrl 4 14 (fld v 4 14) else s

/-- ADMQ_ENABLE (R141): a write `v` of ADMQ_CTRL with ENABLE 1. The admin pair is created when the sizes are good, no drain
is in progress, the holding is ACTIVE, and both numbers are free. -/
def execAdmqEnable (h : Nat) (v : Word) (s : State) : Res :=
  if !barOn s h || !s.native h then .next s
  else
    let s1 := admqFields s h v
    let c := s1.r0 h B.admqCtrl
    let sl := fld c 4 4
    let cl := fld c 8 4
    if fld c 0 2 ≠ 2 || sl < 4 || cl < 4 || !s.active h then .next s1
    else
      match freeNum (sqNums s1), freeNum (cqNums s1) with
      | some a, some b =>
        let q : Sq := { num := a, base := (s1.q0 h B.admqSqBase).toNat % 2 ^ 62, log2 := sl, cqid := 0 }
        let r : Cq := { num := b, base := (s1.q0 h B.admqCqBase).toNat % 2 ^ 62, log2 := cl }
        let s2 := cqTarget ((s1.setSq (qkey h 0) q).setCq (qkey h 0) r) b h (fld c 12 6) true
        done s ((s2.put0 h B.admqCtrl 0 2 1).w0 h B.admqNums (w32 (b + a * 65536)))
      | _, _ => .next s1

/-- ADMQ_DISABLE (R141, R145): a write `v` of ADMQ_CTRL with ENABLE 0; the admin SQ drains. -/
def execAdmqDisable (h : Nat) (v : Word) (s : State) : Res :=
  if !barOn s h || !s.native h then .next s
  else if bit (s.r0 h B.admqCtrl) 0 then
    let s1 := s.put0 h B.admqCtrl 0 1 0
    .next (s1.setJob { s1.job with sq := tmod s1.job.sq (qkey h 0) fun x => { x with enable := false } })
  else .next (admqFields s h v)

end Sys2Proof.Machine
end

