-- ==== Sys2Proof/Machine/Admin.lean ====
section
/-! DEFINITION. The admin commands (R143, R144): CREATE_CQ, CREATE_SQ, DELETE_SQ, DELETE_CQ, SET_SQ_ENABLE,
SET_SQ_DISABLE and GET_QUEUE_STATUS. -/

namespace Sys2Proof.Machine

/-- Carry out the admin command at the head of a holding's list when it is of the kind `op`: `body` gives the state after
the command with its status and RESULT, or a state with none when its completion comes later. The completion goes to the
admin CQ; while that CQ's hold is full the command waits (R138, R143). -/
def admCmd (op : Nat) (is : AdmE → Bool) (h : Nat) (s : State) (body : AdmE → State → State × Option (Nat × DWord)) : Res :=
  match (s.hd h).adm with
  | [] => .next s
  | e :: rest =>
    let a := admOf e
    if admGood a && a.op = op && is a && s.active h then
      let s1 := s.modHd h fun x => { x with adm := rest }
      match body a s1 with
      | (s2, none) => done s (admFlush s2 h (rest.length + 1))
      | (s2, some (st, r)) =>
        match admPost s2 h a.tag st r with
        | some s3 => done s (admFlush s3 h (rest.length + 1))
        | none => .next s
    else .next s

/-- A ring's size and address are good (R119, R143). -/
def ringOk (a : AdmE) : Bool := 4 ≤ a.log2 && a.addr % 256 = 0 && a.addr < 2 ^ 62

/-- A refused command changes nothing. -/
def refused_ (s : State) (st : Nat) : State × Option (Nat × DWord) := (s, some (st, 0))

/-- CREATE_CQ (R118, R119, R143, R158). -/
def execCreateCq (h : Nat) (s : State) : Res :=
  admCmd 1 (fun _ => true) h s fun a s =>
    if a.qid = 0 || thas s.job.cq (qkey h a.qid) then refused_ s St.state
    else if !ringOk a then refused_ s St.operand
    else
      match freeNum (cqNums s) with
      | none => refused_ s St.queue
      | some n =>
        let s1 := s.setCq (qkey h a.qid) { num := n, base := a.addr, log2 := a.log2, dropOk := a.dropOk }
        (cqTarget s1 n h a.vec a.ien, some (St.ok, w64 n))

/-- CREATE_SQ (R118, R119, R143). -/
def execCreateSq (h : Nat) (s : State) : Res :=
  admCmd 2 (fun _ => true) h s fun a s =>
    if a.qid = 0 || thas s.job.sq (qkey h a.qid) || a.cqid = 0 || !thas s.job.cq (qkey h a.cqid) then refused_ s St.state
    else if !ringOk a then refused_ s St.operand
    else
      match freeNum (sqNums s) with
      | none => refused_ s St.queue
      | some n =>
        (s.setSq (qkey h a.qid) { num := n, base := a.addr, log2 := a.log2, prio := a.prio, cqid := a.cqid },
         some (St.ok, w64 n))

/-- DELETE_SQ (R143): the SQ exists, disabled and idle. -/
def execDeleteSq (h : Nat) (s : State) : Res :=
  admCmd 3 (fun _ => true) h s fun a s =>
    match tget s.job.sq (qkey h a.qid) with
    | none => refused_ s St.state
    | some x =>
      if a.qid ≠ 0 && sqIdleNow s h a.qid x then
        (s.setJob { s.job with sq := tdel s.job.sq (qkey h a.qid) }, some (St.ok, 0))
      else refused_ s St.state

/-- DELETE_CQ (R143): no SQ is bound to it and its hold is empty. -/
def execDeleteCq (h : Nat) (s : State) : Res :=
  admCmd 4 (fun _ => true) h s fun a s =>
    match tget s.job.cq (qkey h a.qid) with
    | none => refused_ s St.state
    | some x =>
      let bound := s.job.sq.any fun p => p.1 / 1024 == h && p.2.cqid == a.qid
      if bound || !x.hold.isEmpty then refused_ s St.state
      else (s.setJob { s.job with cq := tdel s.job.cq (qkey h a.qid) }, some (St.ok, 0))

/-- SET_SQ_ENABLE with ENABLE 1 (R128, R143, R145, R518): the SQ takes entries from its consumer index on. -/
def execSetSqEnable (h : Nat) (s : State) : Res :=
  admCmd 5 (fun a => a.enable) h s fun a s =>
    if a.qid = 0 then refused_ s St.operand
    else
      match tget s.job.sq (qkey h a.qid) with
      | none => refused_ s St.state
      | some x => (s.setSq (qkey h a.qid) { x with enable := true, stopped := if x.enable then x.stopped else false },
                   some (St.ok, 0))

/-- SET_SQ_ENABLE with ENABLE 0 (R62, R126, R143, R145): the SQ takes no further entry, an open sheaf's job is cancelled
when it waits for words, and the command completes when IDLE sets. -/
def execSetSqDisable (h : Nat) (s : State) : Res :=
  admCmd 5 (fun a => !a.enable) h s fun a s =>
    if a.qid = 0 then refused_ s St.operand
    else
      match tget s.job.sq (qkey h a.qid) with
      | none => refused_ s St.state
      | some x =>
        let s1 := s.setSq (qkey h a.qid)
          { x with enable := false, fetched := [], sheaf := none, discard := false, retry := false }
        let s2 := match x.sheaf with | some k => s1.modCtx k fun y => { y with cut := true } | none => s1
        (s2.modHd h fun y => { y with idleWait := y.idleWait ++ [(a.qid, a.tag)] }, none)

/-- The status record of an SQ (R144). -/
def sqRecord (s : State) (h q : Nat) (x : Sq) : List Byte :=
  let w := x.ci % 65536 + b2n x.enable * 2 ^ 16 + b2n (sqIdleNow s h q x) * 2 ^ 17 + b2n (x.sheaf.isSome || x.discard) * 2 ^ 18
  toLE 4 w ++ toLE 4 x.num ++ toLE 4 x.phaseRetry.toNat ++ toLE 4 x.orphans.toNat ++ toLE 4 x.dbInvalid.toNat ++
    toLE 4 0 ++ toLE 8 s.tim.dtb.toNat

/-- The status record of a CQ (R144). -/
def cqRecord (s : State) (x : Cq) : List Byte :=
  let w := x.pi % 65536 + 2 ^ 16 + b2n (!x.hold.isEmpty) * 2 ^ 18 + x.hold.length * 2 ^ 19
  toLE 4 w ++ toLE 4 x.num ++ toLE 4 x.full.toNat ++ toLE 4 x.dropped.toNat ++ toLE 4 x.dbInvalid.toNat ++
    toLE 4 0 ++ toLE 8 s.tim.dtb.toNat

/-- GET_QUEUE_STATUS (R143, R144). -/
def execGetQueueStatus (h : Nat) (s : State) : Res :=
  admCmd 6 (fun _ => true) h s fun a s =>
    let k := qkey h a.qid
    let bad := a.addr % 256 ≠ 0 || 2 ^ 62 ≤ a.addr
    if a.cqsel then
      match tget s.job.cq k with
      | none => refused_ s St.state
      | some x =>
        if bad then refused_ s St.operand
        else
          let s1 := s.emit (.hostWrite h a.addr (cqRecord s x))
          (if a.clear then s1.setCq k { x with full := 0, dropped := 0, dbInvalid := 0 } else s1, some (St.ok, 0))
    else
      match tget s.job.sq k with
      | none => refused_ s St.state
      | some x =>
        if bad then refused_ s St.operand
        else
          let s1 := s.emit (.hostWrite h a.addr (sqRecord s h a.qid x))
          (if a.clear then s1.setSq k { x with phaseRetry := 0, orphans := 0, dbInvalid := 0 } else s1, some (St.ok, 0))

end Sys2Proof.Machine
end

