-- ==== Sys2Proof/Machine/BaulkOps.lean ====
section
/-! DEFINITION. What jobs do through Baulk links (21): remote addresses, frames sent, and what ends when a link does. A
frame's body is its fields, eight bytes each, then its payload (log 22). -/

namespace Sys2Proof.Machine

/-- Set the Baulk interface. -/
def State.setBk (s : State) (b : Baulk) : State := { s with baulk := b }
/-- A Baulk port. -/
def State.bp (s : State) (p : Nat) : BPort := tgetD s.baulk.port p {}
/-- Change a Baulk port. -/
def State.modBp (s : State) (p : Nat) (f : BPort → BPort) : State :=
  s.setBk { s.baulk with port := tset s.baulk.port p (f (s.bp p)) }

/-- Word `j` of export entry `e` (R479). -/
def expWord (s : State) (e j : Nat) : Word := s.r2 (0xC01000 + e * 0x10 + j * 4)
/-- Word `j` of import entry `m`. -/
def impWord (s : State) (m j : Nat) : Word := s.r2 (0xC02000 + m * 0x10 + j * 4)

/-- The port that leads to a peer (R474); 3 for the device itself. -/
def portTo (s : State) (peer : Nat) : Nat := (peer + 7 - s.sys.baulkId) % 4

/-- A remote address of a holding (R480): the port, the export entry and the offset; none is JOB_FAULT_BOUNDS. -/
def remoteAt (s : State) (h a len : Nat) : Option (Nat × Nat × Nat) :=
  let m := a / 2 ^ 56 % 64
  let off := a % 2 ^ 56
  let w := impWord s m 0
  if bit w 13 && fld w 0 5 = h && off + len ≤ fld (impWord s m 1) 0 13 * granule then
    some (portTo s (fld w 5 2), fld w 7 6, off)
  else none

/-- A frame can be sent: the link is up, the replay buffer and the credit have room (R477). -/
def bkRoom (s : State) (p n : Nat) : Bool :=
  (s.bp p).up && decide ((s.bp p).replay.length < 64) && decide (16 + n ≤ (s.bp p).credit)

/-- Send a frame with a sequence number and keep it for replay (R477). -/
def bkSend (s : State) (p typ : Nat) (body : List Byte) : State :=
  let x := s.bp p
  (s.emit (.baulk p typ x.tx body)).modBp p fun y =>
    { y with tx := (y.tx + 1) % 4096, replay := y.replay ++ [(x.tx, typ, body)], credit := y.credit - (16 + body.length) }

/-- Someone waits for the answer to the frame sent last: kind 0 a load, 1 a SIGNAL, 2 a FLUSH. -/
def bkWait (s : State) (p id kind : Nat) : State :=
  s.modBp p fun y => { y with wait := y.wait ++ [((y.tx + 4095) % 4096, id, kind)] }

/-- The WRITE frames of a range: 1 to 256 bytes each (R477). -/
def bkWrites (s : State) (p e off : Nat) (data : List Byte) : Nat → State
  | 0 => s
  | n + 1 =>
    if data.isEmpty then s
    else bkWrites (bkSend s p 2 (toLE 8 e ++ toLE 8 off ++ data.take 256)) p e (off + 256) (data.drop 256) n

/-- The READ_REQ frames of a range: up to 4096 bytes each (R477). -/
def bkReads (s : State) (p e off len : Nat) : Nat → State
  | 0 => s
  | n + 1 =>
    if len = 0 then s
    else bkReads (bkSend s p 3 (toLE 8 e ++ toLE 8 off ++ toLE 8 (Nat.min len 4096))) p e (off + 4096) (len - 4096) n

/-- A job that waits on a lost or refusing peer (R478, R480 to R482): a load ends its job as a failed host read does
(log 23), a SIGNAL reports MEMORY_REMOTE, a fence completes with it. -/
def remoteFail (s : State) (p id kind : Nat) : State :=
  match kind with
  | 0 =>
    match tget s.job.work id with
    | some w =>
      let s1 := s.setJob { s.job with work := tdel s.job.work id }
      (match s1.ctx w.ctx with
       | some x => if x.ended.isNone then faultJob s1 w.ctx St.remote else s1
       | none => s1)
    | none => s
  | 1 => s.modCtx id fun x => if x.wait == .remote then { (x.status St.remote).advance 0 with wait := .none } else x
  | _ => s.modCtx id fun x => { x.status St.remote with backed := x.backed ||| 2 ^ p }

end Sys2Proof.Machine
end

