-- ==== Sys2Proof/Machine/Arith.lean ====
section
/-! DEFINITION. Arithmetic, moves and memory words (R98 to R100). -/

namespace Sys2Proof.Machine

/-- An arithmetic instruction: D takes the result, Z N C its flags (R98). -/
def aluCtx (op : DWord → DWord → Alu) (x : Ctx) (i : Ins) : Ctx :=
  let r := op (x.gr i.a) (x.opB i)
  (x.setG i.d r.v).flags r

/-- A shift: in the I form IMM[31:6] must be 0 (R98). -/
def shiftStep (op : DWord → DWord → Alu) (s : State) (k : Nat) (x : Ctx) (i : Ins) : State :=
  if i.mod.testBit 0 && 64 ≤ i.imm.toNat then faultJob s k St.illegal
  else s.setCtx k (step1 (aluCtx op x i) i)

/-- ADD: D ← A + B; C the carry out (R98). -/
def execAdd (f c : Nat) (s : State) : Res := .next (issueCtx 0x22 anyIns f c s (aluCtx aluAdd))
/-- SUB: D ← A − B; C when A < B (R98). -/
def execSub (f c : Nat) (s : State) : Res := .next (issueCtx 0x23 anyIns f c s (aluCtx aluSub))
/-- MUL: D ← low half of A × B; C when it exceeds 64 bits (R98). -/
def execMul (f c : Nat) (s : State) : Res := .next (issueCtx 0x24 anyIns f c s (aluCtx aluMul))
/-- AND (R98). -/
def execAnd (f c : Nat) (s : State) : Res := .next (issueCtx 0x25 anyIns f c s (aluCtx aluAnd))
/-- OR (R98). -/
def execOr (f c : Nat) (s : State) : Res := .next (issueCtx 0x26 anyIns f c s (aluCtx aluOr))
/-- XOR (R98). -/
def execXor (f c : Nat) (s : State) : Res := .next (issueCtx 0x27 anyIns f c s (aluCtx aluXor))
/-- SHL (R98). -/
def execShl (f c : Nat) (s : State) : Res := .next (issue 0x28 anyIns f c s (shiftStep aluShl))
/-- SHR (R98). -/
def execShr (f c : Nat) (s : State) : Res := .next (issue 0x29 anyIns f c s (shiftStep aluShr))
/-- SAR (R98). -/
def execSar (f c : Nat) (s : State) : Res := .next (issue 0x2A anyIns f c s (shiftStep aluSar))
/-- CMP: the flags of A − B (R98). -/
def execCmp (f c : Nat) (s : State) : Res :=
  .next (issueCtx 0x2B anyIns f c s fun x i => x.flags (aluSub (x.gr i.a) (x.opB i)))

/-- MOV: D ← A, or the sign-extended IMM; no flags (R99). -/
def execMov (f c : Nat) (s : State) : Res :=
  .next (issueCtx 0x20 anyIns f c s fun x i =>
    x.setReg i.d (if i.mod.testBit 0 then sext32 i.imm else x.reg i.a))

/-- MOVX: D ← the extra word (R99). -/
def execMovx (f c : Nat) (s : State) : Res := .next (issueCtx 0x21 anyIns f c s fun x i => x.setG i.d (extraWord x))

/-- Bytes of a word access. -/
def wordLen (i : Ins) : Nat := if i.mod.testBit 0 then 4 else 8

/-- LD: the aligned word at Ga + disp goes to Gd when it arrives; a bad address faults with JOB_FAULT_BOUNDS (R76,
R100). -/
def execLd (f c : Nat) (s : State) : Res :=
  .next (issue 0x30 anyIns f c s fun t k x i =>
    let a := x.ea i
    let n := wordLen i
    let w : Work := { ctx := k, hold := x.hold, kind := .ld a (i.mod.testBit 0), d := i.d, engine := false, fcls := 4 }
    if a.toNat % n ≠ 0 then faultJob t k St.bounds
    else
      match place t x.hold a n with
      | none => faultJob t k St.bounds
      | some (.remote r) =>
        match remoteAt t x.hold r n with
        | none => faultJob t k St.bounds
        | some (p, e, off) =>
          let t1 := startWork t k x i w
          if !(t.bp p).up then remoteFail t1 p t.job.nextWork 0
          else if bkRoom t p 24 then bkWait (bkReads t1 p e off n 1) p t.job.nextWork 0
          else s
      | some _ => startWork t k x i w)

/-- LD_COMPLETE (R80, R100): the load of outstanding instruction `n` returns; `v` is what host memory holds (log 5). A
load of a poisoned burst gives a free value: the spec states none (log 12). -/
def execLdComplete (n : Nat) (v : DWord) (s : State) : Res :=
  match if s.flt.safe then none else tget s.job.work n with
  | some w =>
    match w.kind with
    | .ld a sm =>
      let len := if sm then 4 else 8
      let cut := fun (u : DWord) => if sm then u &&& 0xFFFFFFFF else u
      match place s w.hold a len with
      | some (.dev off) =>
        if !devMapped s w.hold off len then .next s
        else if devPoison s w.hold off len then
          let (u, s1) := s.takeFree
          .next (endWork s1 n (cut u))
        else .next (endWork s n (w64 (leNat (readDev s w.hold off len))))
      | some (.host _) => .next (endWork s n (cut v))
      | _ => .next s
    | _ => .next s
  | none => .next s

/-- ST: the word at Ga + disp ← Gb, or Gb[31:0] with W (R100). -/
def execSt (f c : Nat) (s : State) : Res :=
  .next (issue 0x31 anyIns f c s fun t k x i =>
    let a := x.ea i
    let n := wordLen i
    let bytes := toLE n (x.gr i.b).toNat
    if a.toNat % n ≠ 0 then faultJob t k St.bounds
    else
      match place t x.hold a n with
      | none => faultJob t k St.bounds
      | some (.dev off) => if devMapped t x.hold off n then (writeDev t x.hold off bytes).setCtx k (step1 x i) else s
      | some (.host b) => (t.emit (.hostWrite x.hold b bytes)).setCtx k { step1 x i with ports := x.ports ||| 1 }
      | some (.remote r) =>
        match remoteAt t x.hold r n with
        | none => faultJob t k St.bounds
        | some (p, e, off) =>
          let y := { step1 x i with bports := x.bports ||| 2 ^ p }
          if !(t.bp p).up then t.setCtx k y
          else if bkRoom t p (16 + n) then (bkWrites t p e off bytes 1).setCtx k y
          else s)

end Sys2Proof.Machine
end

