-- ==== Sys2Proof/Machine/Levels.lean ====
section
/-! DEFINITION. The profiles of R196, R237 and R516, and the limits that the codec standards give their levels. The spec
names the standards and not their tables: the figures are PRESUMED from them (log 18). -/

namespace Sys2Proof.Machine

/-- The limits of a profile, level and tier. -/
structure Lvl where
  /-- Luma samples of a picture. -/
  ps : Nat
  /-- Largest width, squared. -/
  sqW : Nat
  /-- Largest height, squared. -/
  sqH : Nat
  /-- Luma samples per second. -/
  rate : Nat
  /-- Bits per second. -/
  br : Nat
  /-- CPB or VBV size in bits. -/
  cpb : Nat
  /-- DPB in macroblocks (AVC); the compression basis (AV1). -/
  aux : Nat := 0
  deriving DecidableEq, Repr

/-- MPEG-2: width, height, luma samples/s, bits/s, VBV bits. -/
def mpeg2Row (profile level : Nat) : Option (Nat × Nat × Nat × Nat × Nat) :=
  match profile, level with
  | 4, 10 => some (352, 288, 3041280, 4000000, 475136)
  | 4, 8 => some (720, 576, 10368000, 15000000, 1835008)
  | 4, 6 => some (1440, 1152, 47001600, 60000000, 7340032)
  | 4, 4 => some (1920, 1152, 62668800, 80000000, 9781248)
  | 1, 8 => some (720, 576, 14745600, 20000000, 2441216)
  | 1, 6 => some (1440, 1152, 62668800, 80000000, 9781248)
  | 1, 4 => some (1920, 1152, 83558400, 100000000, 12222464)
  | 0x80, 8 => some (720, 608, 11059200, 50000000, 9437184)
  | 0x80, 4 => some (1920, 1152, 62668800, 300000000, 47185920)
  | _, _ => none

/-- AVC: MaxMBPS, MaxFS, MaxDpbMbs, MaxBR, MaxCPB. -/
def avcRow (level : Nat) : Option (Nat × Nat × Nat × Nat × Nat) :=
  match level with
  | 9 => some (1485, 99, 396, 128, 350) | 10 => some (1485, 99, 396, 64, 175)
  | 11 => some (3000, 396, 900, 192, 500) | 12 => some (6000, 396, 2376, 384, 1000)
  | 13 => some (11880, 396, 2376, 768, 2000) | 20 => some (11880, 396, 2376, 2000, 2000)
  | 21 => some (19800, 792, 4752, 4000, 4000) | 22 => some (20250, 1620, 8100, 4000, 4000)
  | 30 => some (40500, 1620, 8100, 10000, 10000) | 31 => some (108000, 3600, 18000, 14000, 14000)
  | 32 => some (216000, 5120, 20480, 20000, 20000) | 40 => some (245760, 8192, 32768, 20000, 25000)
  | 41 => some (245760, 8192, 32768, 50000, 62500) | 42 => some (522240, 8704, 34816, 50000, 62500)
  | 50 => some (589824, 22080, 110400, 135000, 135000) | 51 => some (983040, 36864, 184320, 240000, 240000)
  | 52 => some (2073600, 36864, 184320, 240000, 240000) | 60 => some (4177920, 139264, 696320, 240000, 240000)
  | 61 => some (8355840, 139264, 696320, 480000, 480000) | 62 => some (16711680, 139264, 696320, 800000, 800000)
  | _ => none

/-- HEVC and VVC by the level × 10: MaxLumaPs, MaxLumaSr, and the Main and High tier rates and CPB sizes, which are equal
in each tier (at level 1, bits/s and CPB differ); 0 where a tier has none. -/
def hevcRow (level : Nat) : Option (Nat × Nat × Nat × Nat × Nat) :=
  match level with
  | 10 => some (36864, 552960, 128, 350, 0) | 20 => some (122880, 3686400, 1500, 1500, 0)
  | 21 => some (245760, 7372800, 3000, 3000, 0) | 30 => some (552960, 16588800, 6000, 6000, 0)
  | 31 => some (983040, 33177600, 10000, 10000, 0) | 40 => some (2228224, 66846720, 12000, 12000, 30000)
  | 41 => some (2228224, 133693440, 20000, 20000, 50000) | 50 => some (8912896, 267386880, 25000, 25000, 100000)
  | 51 => some (8912896, 534773760, 40000, 40000, 160000) | 52 => some (8912896, 1069547520, 60000, 60000, 240000)
  | 60 => some (35651584, 1069547520, 60000, 60000, 240000)
  | 61 => some (35651584, 2139095040, 120000, 120000, 480000)
  | 62 => some (35651584, 4278190080, 240000, 240000, 800000) | _ => none

/-- VVC's own rates at levels 6.0 and 6.2; elsewhere as HEVC. -/
def vvcRow (level : Nat) : Option (Nat × Nat × Nat × Nat × Nat) :=
  match level with
  | 60 => some (35651584, 1069547520, 80000, 80000, 320000)
  | 62 => some (35651584, 4278190080, 180000, 180000, 800000)
  | n => hevcRow n

/-- AV1: picture size, width, height, display rate, Main and High Mbit/s × 10, basis of Main, of High. -/
def av1Row (idx : Nat) : Option (Nat × Nat × Nat × Nat × Nat × Nat × Nat × Nat) :=
  match idx with
  | 0 => some (147456, 2048, 1152, 4423680, 15, 0, 2, 0) | 1 => some (278784, 2816, 1584, 8363520, 30, 0, 2, 0)
  | 4 => some (665856, 4352, 2448, 19975680, 60, 0, 2, 0) | 5 => some (1065024, 5504, 3096, 31950720, 100, 0, 2, 0)
  | 8 => some (2359296, 6144, 3456, 70778880, 120, 300, 4, 4)
  | 9 => some (2359296, 6144, 3456, 141557760, 200, 500, 4, 4)
  | 12 => some (8912896, 8192, 4352, 267386880, 300, 1000, 6, 4)
  | 13 => some (8912896, 8192, 4352, 534773760, 400, 1600, 8, 4)
  | 14 => some (8912896, 8192, 4352, 1069547520, 600, 2400, 8, 4)
  | 15 => some (8912896, 8192, 4352, 1069547520, 600, 2400, 8, 4)
  | 16 => some (35651584, 16384, 8704, 1069547520, 600, 2400, 8, 4)
  | 17 => some (35651584, 16384, 8704, 2139095040, 1000, 4800, 8, 4)
  | 18 => some (35651584, 16384, 8704, 4278190080, 1600, 8000, 8, 4)
  | 19 => some (35651584, 16384, 8704, 4278190080, 1600, 8000, 8, 4)
  | _ => none

/-- VP9: picture size, rate, kbit/s, CPB kbit, largest dimension. -/
def vp9Row (level : Nat) : Option (Nat × Nat × Nat × Nat × Nat) :=
  match level with
  | 10 => some (36864, 829440, 200, 400, 512) | 11 => some (73728, 2764800, 800, 1000, 768)
  | 20 => some (122880, 4608000, 1800, 1500, 960) | 21 => some (245760, 9216000, 3600, 2800, 1344)
  | 30 => some (552960, 20736000, 7200, 6000, 2048) | 31 => some (983040, 36864000, 12000, 10000, 2752)
  | 40 => some (2228224, 83558400, 18000, 16000, 4160) | 41 => some (2228224, 160432128, 30000, 18000, 4160)
  | 50 => some (8912896, 311951360, 60000, 36000, 8384) | 51 => some (8912896, 588251136, 120000, 46000, 8384)
  | 52 => some (8912896, 1176502272, 180000, 90000, 8384) | 60 => some (35651584, 1176502272, 180000, 90000, 16832)
  | 61 => some (35651584, 2353004544, 240000, 180000, 16832) | 62 => some (35651584, 4706009088, 480000, 360000, 16832)
  | _ => none

/-- The factor of an AVC profile on MaxBR and MaxCPB. -/
def avcFactor (profile : Nat) : Nat :=
  if profile = 100 then 1250 else if profile = 110 then 3000 else if profile = 122 then 4000 else 1000

/-- The members of HEVC's format range extensions that the decoder lists, in the order of R196: deepest depth, chroma
formats, CpbVclFactor. -/
def hevcExtDec : List (Nat × List Nat × Nat) :=
  [(12, [0, 1], 1500), (10, [0, 1, 2], 1667), (12, [0, 1, 2], 2000), (8, [0, 1, 2, 3], 2000), (10, [0, 1, 2, 3], 2500),
   (12, [0, 1, 2, 3], 3000), (16, [0, 1, 2, 3], 4000)]

/-- The factor of the HEVC profile that R516 names for a channel. -/
def hevcFactor (b : Blk) : Nat :=
  if b.profile ≠ 4 then 1000
  else if b.enc then (if b.chroma = 1 then 1500 else if b.chroma = 2 then 1667 else 2500)
  else match hevcExtDec.find? fun m => decide (b.depth ≤ m.1) && m.2.1.contains b.chroma with
    | some m => m.2.2
    | none => 1000

/-- The limits of HEVC and VVC. -/
def ctuLvl (r : Option (Nat × Nat × Nat × Nat × Nat)) (tier factor : Nat) : Option Lvl :=
  match r with
  | some (ps, sr, br, cpb, hi) =>
    if tier = 0 then some { ps := ps, sqW := 8 * ps, sqH := 8 * ps, rate := sr, br := br * factor, cpb := cpb * factor }
    else if tier = 1 && hi ≠ 0 then
      some { ps := ps, sqW := 8 * ps, sqH := 8 * ps, rate := sr, br := hi * factor, cpb := hi * factor }
    else none
  | none => none

/-- The limits of a channel block's PROFILE, LEVEL and TIER; none for a LEVEL or TIER that R516 does not list. -/
def lvlOf (b : Blk) : Option Lvl :=
  match b.codec with
  | 0 => if b.tier ≠ 0 then none else (mpeg2Row b.profile b.level).map fun r =>
      { ps := r.1 * r.2.1, sqW := r.1 * r.1, sqH := r.2.1 * r.2.1, rate := r.2.2.1, br := r.2.2.2.1, cpb := r.2.2.2.2 }
  | 1 => if b.tier ≠ 0 then none else (avcRow b.level).map fun r =>
      { ps := r.2.1 * 256, sqW := 8 * r.2.1 * 256, sqH := 8 * r.2.1 * 256, rate := r.1 * 256,
        br := r.2.2.2.1 * avcFactor b.profile, cpb := r.2.2.2.2 * avcFactor b.profile, aux := r.2.2.1 }
  | 2 => if b.level % 3 ≠ 0 then none else ctuLvl (hevcRow (b.level / 3)) b.tier (hevcFactor b)
  | 3 =>
    if b.level % 16 % 3 ≠ 0 then none
    else ctuLvl (vvcRow (b.level / 16 * 10 + b.level % 16 / 3)) b.tier (if b.profile = 33 then 2500 else 1000)
  | 4 =>
    (av1Row b.level).bind fun r =>
      let f := [1, 2, 3].getD b.profile 1
      let mk := fun (mbps basis : Nat) => some
        ({ ps := r.1, sqW := r.2.1 * r.2.1, sqH := r.2.2.1 * r.2.2.1, rate := r.2.2.2.1, br := mbps * 100000 * f,
           cpb := mbps * 100000 * f, aux := basis } : Lvl)
      if b.tier = 0 then mk r.2.2.2.2.1 r.2.2.2.2.2.2.1
      else if b.tier = 1 && r.2.2.2.2.2.1 ≠ 0 then mk r.2.2.2.2.2.1 r.2.2.2.2.2.2.2 else none
  | 5 => if b.tier ≠ 0 then none else (vp9Row b.level).map fun r =>
      { ps := r.1, sqW := r.2.2.2.2 * r.2.2.2.2, sqH := r.2.2.2.2 * r.2.2.2.2, rate := r.2.1, br := r.2.2.1 * 1000,
        cpb := r.2.2.2.1 * 1000 }
  | 6 => if b.tier = 0 && b.level = 0 then some { ps := 2 ^ 40, sqW := 2 ^ 40, sqH := 2 ^ 40, rate := 2 ^ 40, br := 0, cpb := 0 }
         else none
  | _ => none

/-- WIDTH or HEIGHT as the level counts it: whole macroblocks for AVC. -/
def lvlDim (b : Blk) (n : Nat) : Nat := if b.codec = 1 then cdiv n 16 * 16 else n

/-- The geometry and rate are within the level's (R171). -/
def inLevel (b : Blk) (l : Lvl) : Bool :=
  let w := lvlDim b b.width
  let h := lvlDim b b.height
  decide (w * h ≤ l.ps) && decide (w * w ≤ l.sqW) && decide (h * h ≤ l.sqH) && decide (w * h * b.num ≤ l.rate * b.den)

/-- CODEC, PROFILE, CHROMA and DEPTH are a combination the decoder lists (R172, R196). -/
def decProfile (b : Blk) : Bool :=
  let c := b.chroma
  let d := b.depth
  let d810 := d = 8 || d = 10
  match b.codec with
  | 0 => d = 8 && ((b.profile = 4 && c = 1) || ((b.profile = 1 || b.profile = 0x80) && (c = 1 || c = 2)))
  | 1 => ((b.profile = 66 || b.profile = 77) && c = 1 && d = 8) || (b.profile = 100 && c ≤ 1 && d = 8) ||
      (b.profile = 110 && c ≤ 1 && d810) || (b.profile = 122 && c ≤ 2 && d810)
  | 2 => ((b.profile = 1 || b.profile = 3) && c = 1 && d = 8) || (b.profile = 2 && c = 1 && d810) ||
      (b.profile = 4 && hevcExtDec.any fun m => decide (d ≤ m.1) && m.2.1.contains c)
  | 3 => d810 && ((b.profile = 1 && c ≤ 1) || b.profile = 33)
  | 4 => (b.profile = 0 && c ≤ 1 && d810) || (b.profile = 1 && c ≠ 2 && d810) ||
      (b.profile = 2 && (d810 || d = 12))
  | 5 => (b.profile = 0 && c = 1 && d = 8) || (b.profile = 1 && 2 ≤ c && d = 8) ||
      (b.profile = 2 && c = 1 && (d = 10 || d = 12)) || (b.profile = 3 && 2 ≤ c && (d = 10 || d = 12))
  | 6 => b.profile = 0 && 1 ≤ c && d ≠ 16
  | _ => false

/-- CODEC, PROFILE, CHROMA and DEPTH are a combination the encoder lists (R172, R237). -/
def encProfile (b : Blk) : Bool :=
  let c := b.chroma
  let d := b.depth
  let d810 := d = 8 || d = 10
  match b.codec with
  | 0 => d = 8 && ((b.profile = 4 && c = 1) || (b.profile = 0x80 && (c = 1 || c = 2)))
  | 1 => ((b.profile = 77 || b.profile = 100) && c = 1 && d = 8) || (b.profile = 110 && c = 1 && d810) ||
      (b.profile = 122 && (c = 1 || c = 2) && d810)
  | 2 => (b.profile = 1 && c = 1 && d = 8) || (b.profile = 2 && c = 1 && d810) ||
      (b.profile = 4 && ((c = 1 && (d810 || d = 12)) || (c = 2 && d = 10) || (c = 3 && d = 10)))
  | 3 => b.profile = 1 && c ≤ 1 && d810
  | 4 => (b.profile = 0 && c = 1 && d810) || (b.profile = 1 && (c = 1 || c = 3) && d810) ||
      (b.profile = 2 && c = 2 && d = 12)
  | _ => false

/-- The codec's maximum decoded picture buffer in frames at the channel's level and size (R186). -/
def maxDpb (b : Blk) (l : Lvl) : Nat :=
  let ps := b.width * b.height
  match b.codec with
  | 1 => Nat.min 16 (l.aux / (cdiv b.width 16 * cdiv b.height 16))
  | 2 => if 4 * ps ≤ l.ps then 16 else if 2 * ps ≤ l.ps then 12 else if 4 * ps ≤ 3 * l.ps then 8 else 6
  | _ => if 2 * ps ≤ l.ps then 16 else if 3 * ps ≤ 2 * l.ps then 12 else 8

/-- The minimum of POOL (R186). -/
def minPool (b : Blk) : Nat :=
  let d := match b.codec with
    | 0 => 3 | 4 => 10 | 5 => 10 | 6 => 2
    | _ => match lvlOf b with | some l => maxDpb b l + 1 | none => 1
  let e := if b.live then 7 else 6
  (if b.dec then d else 0) + (if b.enc then e else 0)

/-- Bits of an uncompressed picture. -/
def rawBits (b : Blk) : Nat :=
  let y := b.width * b.height
  (match b.chroma with | 0 => y | 1 => y + cdiv b.width 2 * cdiv b.height 2 * 2 | 2 => y + cdiv b.width 2 * b.height * 2
                       | _ => 3 * y) * b.depth

/-- L_lvl: the largest coded picture in bits (R220, R258). -/
def lvlBits (b : Blk) : Nat :=
  match lvlOf b with
  | some l => if b.codec = 4 then rawBits b / l.aux else if b.codec = 6 then 0 else l.cpb
  | none => 0

/-- The maximum bit rate of the channel in kbit/s, and its largest CPB or VBV in kbit (R521). -/
def maxRate (b : Blk) : Nat := match lvlOf b with | some l => l.br / 1000 | none => 0
/-- See `maxRate`. -/
def maxCpb (b : Blk) : Nat := match lvlOf b with | some l => l.cpb / 1000 | none => 0

/-- Codec factor × format factor in hundredths (R16, R196, R237). -/
def costFactor (b : Blk) : Nat :=
  if b.codec = 6 then 10
  else
    let base := if b.codec = 0 then 60 else if b.codec = 3 && b.enc && !b.dec then 150 else 100
    let fmt := if b.depth = 16 || b.chroma = 3 then 200 else if b.depth = 12 || b.chroma = 2 then 133 else 100
    if b.codec = 0 && b.chroma = 2 then 80 else base * fmt / 100

/-- The cycle ceiling C of a picture (R220). -/
def cycleCeiling (b : Blk) : Nat :=
  let p := cdiv b.width 8 * 8 * (cdiv b.height 8 * 8)
  let bins := if b.codec = 0 || (b.codec = 1 && b.profile = 66) then lvlBits b * 10 else lvlBits b * 13
  cdiv (3 * (226 * p * costFactor b + bins * 1000 + 200000000)) 20000

end Sys2Proof.Machine
end

