-- ==== Sys2Proof/Machine/Order.lean ====
section
/-! DEFINITION. Ordering, synchronisation and reports (R101 to R105): FENCE, BARRIER, SIGNAL, WAIT, POST, IRQ and the
events that end their waits. -/

namespace Sys2Proof.Machine

/-- A fence of the classes `cls` waits for the outstanding instruction (R101, R148): ENC.PIC and ENC.LADDER write in
both PIXEL and FIFO. -/
def fenceHits (cls : Nat) (w : Work) : Bool :=
  match w.fcls with
  | 0 => cls.testBit 0
  | 1 => cls.testBit 1
  | 2 => cls.testBit 2
  | 3 => cls.testBit 1 || cls.testBit 3
  | _ => false

/-- FENCE (R101): SCOPE 0b11, no class, or a reserved bit is illegal; the context waits. -/
def execFence (f c : Nat) (s : State) : Res :=
  .next (issue 0x40 anyIns f c s fun s k x i =>
    let scope := fld i.imm 0 2
    let cls := fld i.imm 8 4
    if scope = 3 || cls = 0 || fld i.imm 2 6 ≠ 0 || fld i.imm 12 20 ≠ 0 then faultJob s k St.illegal
    else s.setCtx k { x with wait := .fence cls scope })

/-- Baulk ports that a fence of `cls` at a scope needs an answer from (R482). -/
def fencePorts (x : Ctx) (cls scope : Nat) : Nat :=
  if scope = 0 then 0
  else ((if cls.testBit 0 then x.bports % 8 else 0) ||| (if cls.testBit 2 then x.bports / 8 else 0)) &&& (7 - x.backed % 8)

/-- Send FLUSH on each port that has not been asked; a port that is down fails the fence's part there (R482). -/
def sendFlushes (s : State) (k need : Nat) : State :=
  [0, 1, 2].foldl
    (fun t p =>
      if need.testBit p then
        if !(t.bp p).up then remoteFail t p k 2
        else if (t.bp p).wait.any fun w => w.2.1 == k && w.2.2 == 2 then t
        else if bkRoom t p 0 then bkWait (bkSend t p 6 []) p k 2
        else t
      else t) s

/-- A fence completes: at host scope a flushing read has gone to the function's port (R150, R153), and the context goes
on. A POST or IRQ with F, or the final completion, that waited for it may now be done. -/
def fenceDone (s : State) (k cls scope : Nat) (x : Ctx) : State :=
  let s1 := if scope = 2 && (x.ports &&& cls) ≠ 0 then s.emit (.flushRead x.hold) else s
  let y := { x with
    wait := .none, backed := 0,
    ports := if scope = 2 then x.ports &&& (15 - cls % 16) else x.ports,
    bports := if scope = 0 then x.bports
      else (if cls.testBit 0 then 0 else x.bports % 8) + (if cls.testBit 2 then 0 else x.bports / 8 * 8) }
  let fence := match nextIns x with | some i => i.op = 0x40 && x.ended.isNone | none => false
  s1.setCtx k (if fence then y.advance 0 else { y with fenced := true })

/-- FENCE_COMPLETE (R101, R149, R150, R482): every covered instruction has completed, and every answer has arrived;
before that, the FLUSH frames go out. -/
def execFenceComplete (f c : Nat) (s : State) : Res :=
  let k := ckey f c
  match s.ctx k with
  | none => .next s
  | some x =>
    match x.wait with
    | .fence cls scope =>
      if s.flt.safe || (s.job.work.any fun p => p.2.ctx == k && fenceHits cls p.2) then .next s
      else
        let need := fencePorts x cls scope
        if need = 0 then .next (fenceDone s k cls scope x)
        else
          let s1 := sendFlushes s k need
          match s1.ctx k with
          | some y => .next (if fencePorts y cls scope = 0 then fenceDone s1 k cls scope y else s1)
          | none => .next s1
    | _ => .next s

/-! Semaphores and barriers (R102 to R104). -/

/-- A synchronising instruction succeeds: OK in G15, T clear (R104). -/
def syncOk (s : State) (k : Nat) : State :=
  s.modCtx k fun x => { (x.status St.ok).advance 0 with wait := .none, t := false }

/-- Set a semaphore. -/
def State.setSem (s : State) (j : Nat) (m : Sem) : State := s.setJob { s.job with sem := tset s.job.sem j m }
/-- Set a barrier. -/
def State.setBar (s : State) (j : Nat) (b : Bar) : State := s.setJob { s.job with bar := tset s.job.bar j b }

/-- Serve the waiters of a semaphore in order of arrival, while the count meets the first (R103). -/
def serveSem (s : State) (j : Nat) : Nat → State
  | 0 => s
  | n + 1 =>
    match tget s.job.sem j with
    | none => s
    | some m =>
      match m.waiters with
      | [] => s
      | (k, want) :: rest =>
        if want ≤ m.count then
          serveSem (syncOk (s.setSem j { m with count := m.count - want, waiters := rest }) k) j n
        else s

/-- Waiters of a semaphore. -/
def semLen (s : State) (j : Nat) : Nat := match tget s.job.sem j with | some m => m.waiters.length | none => 0

/-- Add to a semaphore's count, which stops at 2^32 − 1, and serve its waiters (R103). The Bool says that it stopped. -/
def addSem (s : State) (j n : Nat) : Bool × State :=
  match tget s.job.sem j with
  | none => (false, s)
  | some m =>
    let v := m.count + n
    let s1 := s.setSem j { m with count := Nat.min v 0xFFFFFFFF }
    (decide (0xFFFFFFFF < v), serveSem s1 j (semLen s1 j))

/-- The import entry that a remote window handle names for a holding (R479). -/
def remoteWindow (s : State) (h : Nat) (k : Word) : Option Nat :=
  let m := fld k 0 20
  if hType k = 10 && m < 64 && bit (impWord s m 0) 13 && fld (impWord s m 0) 0 5 = h && tgetD s.baulk.gen m 0 % 256 = hGen k
  then some m else none

/-- SIGNAL (R102, R103, R481): adds n to a semaphore's count, or sends it to a peer's. -/
def execSignal (f c : Nat) (s : State) : Res :=
  .next (issue 0x42 anyIns f c s fun t k x i =>
    let n := fld i.imm 0 16
    let j := fld i.imm 16 16
    let hnd := x.hnd i.a
    if hType hnd = 10 then
      match remoteWindow t x.hold hnd with
      | none => faultJob t k St.handle
      | some m =>
        if n = 0 then faultJob t k St.operand
        else
          let w := impWord t m 0
          let p := portTo t (fld w 5 2)
          if !(t.bp p).up then t.setCtx k (step1 (x.status St.remote) i)
          else if bkRoom t p 24 then
            bkWait ((bkSend t p 5 (toLE 8 (fld w 7 6) ++ toLE 8 j ++ toLE 8 n)).setCtx k { x with wait := .remote }) p k 1
          else s
    else
      match useHandle t x.hold [8] hnd with
      | none => faultJob t k St.handle
      | some o =>
        if n = 0 || j ≠ 0 then faultJob t k St.operand
        else
          let (sat, t1) := addSem (t.setCtx k (step1 x i)) o.ref n
          t1.modCtx k fun y => y.status (if sat then St.saturated else St.ok))

/-- WAIT (R102 to R104): takes n from the count when no one waits before it and the count is enough; else it waits. -/
def execWait (f c : Nat) (s : State) : Res :=
  .next (issue 0x43 anyIns f c s fun s k x i =>
    let n := fld i.imm 0 16
    match useHandle s x.hold [8] (x.hnd i.a) with
    | none => faultJob s k St.handle
    | some o =>
      if n = 0 then faultJob s k St.operand
      else
        match tget s.job.sem o.ref with
        | none => faultJob s k St.handle
        | some m =>
          let s1 := s.setSem o.ref { m with waiters := m.waiters ++ [(k, n)] }
          serveSem (s1.setCtx k { x with wait := .sem o.ref n (i.mod.testBit 0) (fld i.imm 16 16 ≠ 0) }) o.ref
            (semLen s1 o.ref))

/-- A wait's timeout expires (R104): without X, T sets and G15 takes WAIT_TIMEOUT; with X the job ends under R84. -/
def syncTimeout (s : State) (k : Nat) (x : Bool) : State :=
  if x then faultJob s k St.waitTimeout
  else s.modCtx k fun y => { (y.status St.waitTimeout).advance 0 with wait := .none, t := true }

/-- WAIT_TIMEOUT (R104): the WAIT takes nothing from the count. -/
def execWaitTimeout (f c : Nat) (s : State) : Res :=
  let k := ckey f c
  match s.ctx k with
  | none => .next s
  | some x =>
    match x.wait with
    | .sem j _ e true =>
      let drop := fun (m : Sem) => { m with waiters := m.waiters.filter fun p => decide (p.1 ≠ k) }
      let s1 := s.setJob { s.job with sem := tmod s.job.sem j drop }
      .next (serveSem (syncTimeout s1 k e) j (semLen s1 j))
    | _ => .next s

/-- BARRIER (R102, R104): counts this arrival; the last one of a generation releases every participant. -/
def execBarrier (f c : Nat) (s : State) : Res :=
  .next (issue 0x41 anyIns f c s fun s k x i =>
    if fld i.imm 0 16 ≠ 0 then faultJob s k St.illegal
    else
      match useHandle s x.hold [9] (x.hnd i.a) with
      | none => faultJob s k St.handle
      | some o =>
        match tget s.job.bar o.ref with
        | none => faultJob s k St.handle
        | some b =>
          let l := b.arrived ++ [k]
          if b.parts ≤ l.length then
            l.foldl syncOk (s.setBar o.ref { b with arrived := [] })
          else
            (s.setBar o.ref { b with arrived := l }).setCtx k
              { x with wait := .bar o.ref (i.mod.testBit 0) (fld i.imm 16 16 ≠ 0) })

/-- BARRIER_TIMEOUT (R104): the BARRIER withdraws its own arrival. -/
def execBarrierTimeout (f c : Nat) (s : State) : Res :=
  let k := ckey f c
  match s.ctx k with
  | none => .next s
  | some x =>
    match x.wait with
    | .bar j e true =>
      .next (syncTimeout (s.setJob { s.job with bar := tmod s.job.bar j fun b => { b with arrived := remNat b.arrived k } }) k e)
    | _ => .next s

/-- Close a semaphore (R104): each waiter's instruction ends with JOB_FAULT_HANDLE, and so its job. -/
def closeSem (s : State) (j : Nat) : State :=
  let l : List Nat := match tget s.job.sem j with | some m => m.waiters.map (fun p => p.1) | none => []
  l.foldl (fun t k => faultJob t k St.handle) (s.setJob { s.job with sem := tdel s.job.sem j })

/-- Close a barrier (R104). -/
def closeBar (s : State) (j : Nat) : State :=
  let l : List Nat := match tget s.job.bar j with | some b => b.arrived | none => []
  l.foldl (fun t k => faultJob t k St.handle) (s.setJob { s.job with bar := tdel s.job.bar j })

/-! Reports to software (R105). -/

/-- A host-scope fence of all four classes comes first (R105): the context waits for it, and the instruction is issued
again when it is complete. `s0` is the state before the issue. -/
def afterFence (need : Bool) (s0 : State) (k : Nat) (x : Ctx) (body : State) : State :=
  if need && !x.fenced then s0.modCtx k fun y => { y with wait := .fence 15 2 } else body

/-- POST (R105, R136 to R140): a completion with FINAL clear; it waits while the hold is full. -/
def execPost (f c : Nat) (s : State) : Res :=
  done s (issue 0x44 anyIns f c s fun t k x i =>
    afterFence (i.mod.testBit 0) s k x
      (match cqPost t (cqOf t x.hold x.sqid)
          { final := false, tag := x.tag, status := fld (x.gr i.a) 0 16, sqid := x.sqid, field := f, ctx := c,
            result := if i.mod.testBit 1 then x.gr i.b else x.gr i.a } with
        | some t1 => t1.setCtx k { step1 x i with fenced := false }
        | none => s))

/-- IRQ (R105, R177): the channel's USER event. -/
def execIrq (f c : Nat) (s : State) : Res :=
  done s (issue 0x45 anyIns f c s fun t k x i =>
    match useHandle t x.hold [1] (x.hnd i.a) with
    | none => faultJob t k St.handle
    | some o =>
      afterFence (i.mod.testBit 0) s k x (chanEvent (t.setCtx k { step1 x i with fenced := false }) o.ref 0))

end Sys2Proof.Machine
end

