-- ==== Sys2Proof/Machine/Channels.lean ====
section
/-! DEFINITION. Objects (R106 to R111, R277, R285): SOPEN and its kinds, SCLOSE and the drain, and what the object table
keeps. -/

namespace Sys2Proof.Machine

/-- One byte of a block as a number. -/
def byteAt (bs : List Byte) (o : Nat) : Nat := (bs.getD o 0).toNat

/-- The channel block (R107). -/
def blkOf (bs : List Byte) : Blk :=
  { dir := byteAt bs 1, codec := byteAt bs 2, live := byteAt bs 3 = 1, profile := byteAt bs 4, level := byteAt bs 5,
    chroma := byteAt bs 6, depth := byteAt bs 7, width := leAt bs 8 2, height := leAt bs 10 2, num := leAt bs 12 2,
    den := leAt bs 14 2, preset := byteAt bs 16, rcMode := byteAt bs 17, look := byteAt bs 18, pool := byteAt bs 19,
    bitrate := leAt bs 20 4, maxrate := leAt bs 24 4, bufsize := leAt bs 28 4, gop := leAt bs 32 4,
    fifoCells := leAt bs 36 4, home := byteAt bs 40, span := byteAt bs 41, tier := byteAt bs 42 }

/-- The bytes from `o` on are 0. -/
def zeroFrom (bs : List Byte) (o : Nat) : Bool := (bs.drop o).all (· == 0)

/-- BITRATE, MAXRATE and BUFSIZE pass the checks of R258 and R521. -/
def ratesOk (b : Blk) : Bool :=
  let br := 1 ≤ b.bitrate && decide (b.bitrate ≤ maxRate b)
  let mr := 1 ≤ b.maxrate && decide (b.maxrate ≤ maxRate b)
  let bs := decide (b.bufsize ≤ maxCpb b)
  match b.rcMode with
  | 0 => true
  | 1 => b.maxrate = 0 || (mr && bs)
  | 2 => br
  | 3 | 5 => br && mr && decide (b.bitrate ≤ b.maxrate) && bs
  | 4 => br && bs && 1 ≤ b.bufsize
  | _ => false

/-- The limits of R171 on one side. -/
def sideOk (b : Blk) (lo hiH rate : Nat) : Bool :=
  lo ≤ b.width && b.width ≤ 8192 && lo ≤ b.height && b.height ≤ hiH &&
    ((b.chroma ≠ 1 && b.chroma ≠ 2) || b.width % 2 = 0) && (b.chroma ≠ 1 || b.height % 2 = 0) &&
    0 < b.num && 0 < b.den && b.num ≤ 300 * b.den && decide (b.width * b.height * b.num ≤ rate * b.den)

/-- A channel block passes every check of SOPEN (R107, R168 to R172, R186, R196, R237, R258, R351, R516, R521). -/
def blkOk (b : Blk) (cls : Nat) : Bool :=
  b.dir ≤ 2 && b.codec ≤ 6 && cls ≤ 1 && b.chroma ≤ 3 && [8, 10, 12, 16].contains b.depth &&
  (!b.dec || sideOk b 16 4352 4278190080) && (!b.enc || sideOk b 64 4320 4246732800) &&
  (!b.dec || decProfile b) && (!b.enc || encProfile b) &&
  (match lvlOf b with | some l => inLevel b l | none => false) &&
  (if b.live then b.look = 0 || b.look = 2 else b.look ≤ 64) &&
  1 ≤ b.pool && b.pool ≤ 32 && decide (minPool b ≤ b.pool) && 64 ≤ b.fifoCells && b.fifoCells ≤ 4194304 &&
  (b.home ≤ 7 || b.home = 255) && 1 ≤ b.span && b.span ≤ 8 &&
  b.rcMode ≤ 5 && (!b.enc || (b.preset ≤ 2 && ratesOk b))

/-- Device channel numbers a native holding may take: free, and reserved for no PV16 holding (R167, R29). -/
def nativeChans (s : State) : List Nat :=
  (List.range 256).filter fun c => !thas s.vid.chan c && s.hold.all fun p => !p.2.pvChans.contains c

/-- The free channel numbers reserved for a PV16 holding. -/
def pvFreeChans (s : State) (h : Nat) : List Nat := (s.hd h).pvChans.filter fun c => !thas s.vid.chan c

/-- CHN_DEC_CTRL as SOPEN sets it. -/
def decCtrl0 (b : Blk) : Word := if b.live then w32 (50 + 0x10000) else w32 500

/-- The buffers of a new pool. -/
def addPool (s : State) (h c : Nat) (b : Blk) : Nat → State
  | 0 => s
  | n + 1 => addPool (s.addBuf { hold := h, chan := some c, size := b.bufSize, depth := b.depth }) h c b n

/-- DRAM bytes a channel takes from its holding: its pool and its lookahead slots (R182). -/
def Blk.dramBytes (b : Blk) : Nat := b.pool * b.bufSize + b.lookSize

/-- Open a channel from a good block (R106, R158, R167, R182, R245, R520): the lowest of the numbers given, one unit of
channel quota, its pool and lookahead from the DRAM quota, and its analysis area from the device reserve. None is
RESOURCE_POOL; a failure against a quota sets QUOTA_HIT. A PV16 holding owns its channels and places its pools in its own
frame stores (R29, R493), and its channel sources go to vector 1 (R495). -/
def openChannel (s : State) (h : Nat) (b : Blk) (field : Nat) (nums : List Nat) : Option (Nat × Word) × State :=
  if s.native h && decide ((s.hd h).qChan ≤ chanCount s h) then (none, quotaHit s h)
  else if s.native h && !dramFits s h b.dramBytes then (none, quotaHit s h)
  else if reserveFree s < b.pages then (none, s)
  else
    match nums.head? with
    | none => (none, s)
    | some c =>
      match newHandle s 1 h c with
      | none => (none, s)
      | some (hnd, s1) =>
        let x : Chan :=
          { hold := h, blk := b, slot := hSlot hnd, home := nextField s (if b.home = 255 then field else b.home),
            pages := b.pages,
            rc := { fill := if b.rcMode = 4 || b.rcMode = 5 then b.bitrate else b.maxrate } }
        let s2 := addPool (chargeDram (s1.setChan c x) h b.dramBytes) h c b b.pool
        let s3 := s2.setSrc (1024 + c) { s2.src (1024 + c) with hold := h, vec := if s.native h then 0 else 1, prio := 8, en := true }
        let s4 := if b.dec then s3.wch c B.decCtrl (decCtrl0 b) else s3
        (some (c, hnd), if b.enc then s4.wch c B.rcRate (w32 b.bitrate) else s4)

/-- A synchronous instruction that makes an object ends: its code to G15 and its handle, or the null handle, to D (R71,
R106). -/
def giveHandle (s : State) (k : Nat) (i : Ins) (code : Nat) (hnd : Word) : State :=
  s.modCtx k fun x => step1 ((x.status code).setReg i.d (BitVec.setWidth 64 hnd)) i

/-- The bytes of a block at Ga + IMM (R106): in device memory and aligned to 8, else JOB_FAULT_BOUNDS; an instruction whose
granules are still being made waits (`s0`, the state before the issue); a poisoned burst gives MEMORY_POISON and a null
handle (R403). -/
def withBlock (s0 s : State) (k : Nat) (x : Ctx) (i : Ins) (a : DWord) (len : Nat) (body : List Byte → State) : State :=
  if a.toNat % 8 ≠ 0 then faultJob s k St.bounds
  else
    match place s x.hold a len with
    | some (.dev off) =>
      if !devMapped s x.hold off len then s0
      else if devPoison s x.hold off len then giveHandle s k i St.poison 0
      else body (readDev s x.hold off len)
    | _ => faultJob s k St.bounds

/-- SOPEN of a channel (R106, R107); the reserved kinds of MOD are illegal. -/
def execSopen (f c : Nat) (s : State) : Res :=
  done s (issue 0x60 (fun i => i.mod % 8 = 0 || 5 ≤ i.mod % 8) f c s fun t k x i =>
    if i.mod % 8 ≠ 0 then faultJob t k St.illegal
    else
      withBlock s t k x i (x.ea i) 64 fun bs =>
        let b := blkOf bs
        if byteAt bs 0 ≠ 1 || !zeroFrom bs 43 || !blkOk b (byteAt bs 3) then faultJob t k St.operand
        else
          match openChannel t x.hold b f (nativeChans t) with
          | (some (_, hnd), t1) => giveHandle t1 k i St.ok hnd
          | (none, t1) => giveHandle t1 k i St.pool 0)

/-- Set a ladder group. -/
def State.setGrp (s : State) (g : Nat) (x : Grp) : State := s.setVid { s.vid with grp := tset s.vid.grp g x }
/-- Set a multiplex group. -/
def State.setMux (s : State) (m : Nat) (x : Mux) : State := s.setVid { s.vid with mux := tset s.vid.mux m x }

/-- SOPEN.GROUP (R106, R107, R285): at most 32 ladder groups. -/
def execSopenGroup (f c : Nat) (s : State) : Res :=
  done s (issue 0x60 (fun i => i.mod % 8 = 1) f c s fun t k x i =>
    withBlock s t k x i (x.ea i) 64 fun bs =>
      if byteAt bs 0 ≠ 6 || !zeroFrom bs 1 then faultJob t k St.operand
      else
        match lowestFree t.vid.grp 0 32 with
        | none => giveHandle t k i St.pool 0
        | some g =>
          match newHandle t 6 x.hold g with
          | none => giveHandle t k i St.pool 0
          | some (hnd, t1) => giveHandle (t1.setGrp g { hold := x.hold }) k i St.ok hnd)

/-- SOPEN.MUX (R106, R107, R277): at most 16 multiplex groups. -/
def execSopenMux (f c : Nat) (s : State) : Res :=
  done s (issue 0x60 (fun i => i.mod % 8 = 2) f c s fun t k x i =>
    withBlock s t k x i (x.ea i) 64 fun bs =>
      let z := zeroFrom (bs.take 20) 1 && zeroFrom bs 24
      if byteAt bs 0 ≠ 7 || !z then faultJob t k St.operand
      else
        match lowestFree t.vid.mux 0 16 with
        | none => giveHandle t k i St.pool 0
        | some m =>
          match newHandle t 7 x.hold m with
          | none => giveHandle t k i St.pool 0
          | some (hnd, t1) => giveHandle (t1.setMux m { hold := x.hold, rate := leAt bs 20 4 }) k i St.ok hnd)

/-- Semaphores and barriers of a holding (R106). -/
def syncCount (s : State) (h : Nat) : Nat :=
  (s.job.sem.filter fun p => p.2.hold == h).length + (s.job.bar.filter fun p => p.2.hold == h).length

/-- SOPEN.SEM (R106): the initial count is Ga, IMM must be 0. -/
def execSopenSem (f c : Nat) (s : State) : Res :=
  .next (issue 0x60 (fun i => i.mod % 8 = 3) f c s fun t k x i =>
    if i.imm ≠ 0 then faultJob t k St.illegal
    else if 2 ^ 32 ≤ (x.gr i.a).toNat then faultJob t k St.operand
    else if 1024 ≤ syncCount t x.hold then giveHandle t k i St.pool 0
    else
      match newHandle t 8 x.hold 0 with
      | none => giveHandle t k i St.pool 0
      | some (hnd, t1) =>
        let j := fld hnd 0 20
        let t2 := t1.setJob { t1.job with obj := tset t1.job.obj (hSlot hnd) { hold := x.hold, ref := j } }
        giveHandle (t2.setSem j { hold := x.hold, count := (x.gr i.a).toNat }) k i St.ok hnd)

/-- SOPEN.BAR (R106): the participant count is Ga, 2 to 256, IMM must be 0. -/
def execSopenBar (f c : Nat) (s : State) : Res :=
  .next (issue 0x60 (fun i => i.mod % 8 = 4) f c s fun t k x i =>
    let n := (x.gr i.a).toNat
    if i.imm ≠ 0 then faultJob t k St.illegal
    else if n < 2 || 256 < n then faultJob t k St.operand
    else if 1024 ≤ syncCount t x.hold then giveHandle t k i St.pool 0
    else
      match newHandle t 9 x.hold 0 with
      | none => giveHandle t k i St.pool 0
      | some (hnd, t1) =>
        let j := fld hnd 0 20
        let t2 := t1.setJob { t1.job with obj := tset t1.job.obj (hSlot hnd) { hold := x.hold, ref := j } }
        giveHandle (t2.setBar j { hold := x.hold, parts := n }) k i St.ok hnd)

/-! SCLOSE (R109, R174, R291). -/

/-- An egress flow whose handle is closed: it reads no more, its open datagram closes, and it ends when its packets have
gone (R380). -/
def closeEgr (s : State) (e : Nat) : State :=
  match tget s.egr.flow e with
  | none => s
  | some x =>
    let s1 := freeSlot s x.slot
    if x.packets.isEmpty then endEgrFlow s1 e
    else
      let y := { x with slot := 0, closing := true, rest := [], tail := [], dgram := [], ready := x.ready ++ x.dgram }
      (dropRefs s1 (x.tail.map (·.1))).setEgr { s1.egr with flow := tset s1.egr.flow e y }

/-- The flows of a channel are released at SCLOSE: ingest stops at once; egress carries what is still coded, its handle
gone, until the channel is CLOSED (log 25). -/
def releaseFlows (s : State) (c : Nat) : State :=
  let s1 := match ingFlowOf s c with | some t => endIngFlow s t | none => s
  (egrFlowsOf s1 c).foldl
    (fun t e =>
      match tget t.egr.flow e with
      | some x => (freeSlot t x.slot).setEgr { t.egr with flow := tset t.egr.flow e { x with slot := 0 } }
      | none => t) s1

/-- A channel enters DRAINING: its handle and its flows go (R109, R174); `k` is the closing job, whose completion waits for
the drain (R87). -/
def drainChannel (s : State) (c k : Nat) : State :=
  match s.chan c with
  | none => s
  | some x =>
    let s1 := releaseFlows (freeSlot s x.slot) c
    let s2 := s1.modChan c fun y => { y with st := .draining, slot := 0 }
    let s3 := match x.mux with
      | some m => s2.setVid { s2.vid with mux := tmod s2.vid.mux m fun y => { y with members := remNat y.members c } }
      | none => s2
    s3.modCtx k fun y => { y with drains := insNat y.drains c }

/-- SCLOSE of a multiplex group leaves each member in CBR at the rate last assigned to it (R109). -/
def closeMux (s : State) (m : Nat) : State :=
  match tget s.vid.mux m with
  | none => s
  | some g =>
    let ids := g.members.foldl insNat g.active
    let s1 := s.setVid { s.vid with mux := tdel s.vid.mux m }
    ids.foldl (fun t c => t.modChan c fun y =>
      { y with mux := none, blk := { y.blk with bitrate := y.rc.muxRate.getD y.blk.bitrate }, rc := { y.rc with muxRate := none } }) s1

/-- The channel is a rung of a group that is open (R291). -/
def rungOpen (s : State) (x : Chan) : Bool :=
  match x.grp with
  | some (g, _) => (match tget s.vid.grp g with | some y => !y.closing | none => false)
  | none => false

/-- SCLOSE (R108, R109, R104, R291). -/
def execSclose (f c : Nat) (s : State) : Res :=
  done s (issue 0x61 anyIns f c s fun t k x i =>
    let hnd := x.hnd i.a
    match useHandle t x.hold [1, 4, 5, 6, 7, 8, 9] hnd with
    | none => faultJob t k St.handle
    | some o =>
      let t1 := t.setCtx k (step1 x i)
      match hType hnd with
      | 1 =>
        match t.chan o.ref with
        | some y => if rungOpen t y then faultJob t k St.operand else drainChannel t1 o.ref k
        | none => faultJob t k St.handle
      | 4 => endIngFlow t1 o.ref
      | 5 => closeEgr t1 o.ref
      | 6 =>
        match tget t.vid.grp o.ref with
        | some g =>
          let t2 := freeSlot t1 (hSlot hnd)
          if g.rungs.isEmpty then t2.setVid { t2.vid with grp := tdel t2.vid.grp o.ref }
          else g.rungs.foldl (fun u p => drainChannel u p.2 k) (t2.setGrp o.ref { g with closing := true })
        | none => faultJob t k St.handle
      | 7 => closeMux (freeSlot t1 (hSlot hnd)) o.ref
      | 8 => closeSem (freeSlot t1 (hSlot hnd)) o.ref
      | _ => closeBar (freeSlot t1 (hSlot hnd)) o.ref)

/-- Nothing that has issued on the channel is unfinished, and every picture of its lookahead is coded. -/
def drained (s : State) (c : Nat) (x : Chan) : Bool :=
  x.look.isEmpty && x.cur.isNone &&
    (match x.grp.bind (fun q => tget s.vid.grp q.1) with | some g => g.look.isEmpty && g.coding.isNone | none => true) && !(s.job.work.any fun p => workOn p.2 c ||
    (match p.2.kind with
     | .encLadder g _ _ => (match x.grp with | some (g', _) => g' == g | none => false)
     | _ => false))

/-- CHANNEL_DRAIN_COMPLETE (R87, R109, R174, R176, R520): the last instruction on a DRAINING channel has ended, and its
storage is freed. -/
def execChannelDrainComplete (c : Nat) (s : State) : Res :=
  match s.chan c with
  | none => .next s
  | some x =>
    if x.st == .draining && drained s c x then
      let s1 := (egrFlowsOf s c).foldl closeEgr (closeChannel s c)
      let s2 := match x.grp with
        | some (g, r) =>
          (match tget s1.vid.grp g with
           | some y =>
             let rest := tdel y.rungs r
             if rest.isEmpty && y.closing then s1.setVid { s1.vid with grp := tdel s1.vid.grp g }
             else s1.setGrp g { y with rungs := rest }
           | none => s1)
        | none => s1
      done s s2
    else .next s

end Sys2Proof.Machine
end

