-- ==== Sys2Proof/Machine/Params.lean ====
section
/-! DEFINITION. Parameters (R111, R259, R260, R277, R279, R287, R298, R299, R304, R521): SPARAM and its kinds. -/

namespace Sys2Proof.Machine

/-- QpBdOffsetY (R259). -/
def bdOff (b : Blk) : Nat := if b.codec = 1 || b.codec = 2 || b.codec = 3 then 6 * (b.depth - 8) else 0
/-- The lowest quantiser in codec units (R259). -/
def qpLo (b : Blk) : Nat := if b.codec = 0 then 1 else 0
/-- The highest. -/
def qpHi (b : Blk) : Nat :=
  match b.codec with | 0 => 112 | 1 => 51 + bdOff b | 2 => 51 + bdOff b | 3 => 63 + bdOff b | _ => 255
/-- The codec midpoint (R260). -/
def qpMid (b : Blk) : Nat :=
  match b.codec with | 0 => 16 | 1 => 26 + bdOff b | 2 => 26 + bdOff b | 3 => 32 + bdOff b | _ => 128

/-- The default of a parameter of a channel (R260, R304). -/
def parDflt (b : Blk) (id : Nat) : Nat :=
  match id with
  | 0x22 => qpLo b | 0x23 => qpHi b
  | 0x100 => 4 | 0x101 => if b.live then 0 else 2 | 0x102 => 100 | 0x103 => 3 | 0x104 => 6
  | 0x105 => qpMid b | 0x106 => qpMid b | 0x107 => qpMid b | 0x108 => qpMid b
  | 0x109 => 10 | 0x10A => 120 | 0x10B => 14 | 0x10C => 32 | 0x10D => 8 | 0x10E => 0 | 0x10F => 1
  | 0x110 => qpMid b
  | 0x220 => 0x20202 | 0x221 => 1000 | 0x222 => 203
  | _ => 0

/-- A parameter of a channel. -/
def Chan.par_ (x : Chan) (id : Nat) : Nat := tgetD x.par id (parDflt x.blk id)

/-- The range of a parameter of a channel that SPARAM sets by its range alone (R260, R304). -/
def parRange (x : Chan) (id : Nat) : Option (Nat × Nat) :=
  let b := x.blk
  match id with
  | 0x22 => some (qpLo b, x.par_ 0x23) | 0x23 => some (x.par_ 0x22, qpHi b)
  | 0x100 => some (0, 16) | 0x101 => some (0, 2) | 0x102 => some (50, 400) | 0x103 => some (0, 12)
  | 0x104 => some (1, 12)
  | 0x105 | 0x106 | 0x107 | 0x108 | 0x110 => some (qpLo b, qpHi b)
  | 0x109 => some (4, 16) | 0x10A => some (8, 65535) | 0x10B => some (1, 16) | 0x10C => some (16, 64)
  | 0x10D => some (1, 16) | 0x10E => some (0, b.maxrate) | 0x10F => some (0, 1)
  | 0x220 => some (0, 0x1FFFFFF) | 0x221 => some (400, 10000) | 0x222 => some (100, 400)
  | _ => none

/-- HDR_PEAK and SDR_WHITE belong to every channel, the rest to encode channels. -/
def parKind (b : Blk) (id : Nat) : Bool := id = 0x221 || id = 0x222 || b.enc

/-- A plain buffer has become a picture (R298). -/
def Buf.formatted (b : Buf) : Bool := [0x210, 0x211, 0x212, 0x213].all fun i => thas b.par i

/-- Bytes that a buffer picture's layout needs (R298). -/
def bufNeeds (w h chroma depth : Nat) : Nat :=
  if depth = 20 then 4096 + pageUp (lumaTiles w h * 32 * 20) + pageUp (chromaTiles w h chroma * 32 * 20)
  else slotBytes w h chroma depth

/-- The bytes of a plain buffer that its written format needs; 0 while it is not complete. -/
def Buf.needs (b : Buf) : Nat :=
  if b.formatted then bufNeeds (tgetD b.par 0x210 0) (tgetD b.par 0x211 0) (tgetD b.par 0x212 0) (tgetD b.par 0x213 0)
  else 0

/-- The header a format gives a buffer picture: its display window is the whole picture. -/
def Buf.format (b : Buf) : Buf :=
  if b.formatted then
    let w := tgetD b.par 0x210 0
    let h := tgetD b.par 0x211 0
    { b with depth := tgetD b.par 0x213 0, hdr := { b.hdr with
        cw := w, ch := h, wx := 0, wy := 0, ww := w, wh := h, sdepth := tgetD b.par 0x213 0, chroma := tgetD b.par 0x212 0 } }
  else b

/-- The types of handle that name an object SPARAM may be given. -/
def paramTypes : List Nat := [1, 2, 3, 4, 5, 6, 7, 8, 9]

/-- The frame of an SPARAM that sets the parameter of an id accepted by `is`: IMM[31:16] must be 0, the handle is
checked, and `body` answers the state in which the context has moved on, or none for JOB_FAULT_OPERAND. -/
def setParam (is : Nat → Bool) (f c : Nat) (s : State)
    (body : State → Ctx → Nat → Nat → Obj → DWord → Option State) : State :=
  issue 0x62 (fun i => !i.mod.testBit 0 && is (fld i.imm 0 16)) f c s fun t k x i =>
    if fld i.imm 16 16 ≠ 0 then faultJob t k St.illegal
    else
      let hnd := x.hnd i.a
      match useHandle t x.hold paramTypes hnd with
      | none => faultJob t k St.handle
      | some o =>
        match body (t.setCtx k (step1 x i)) x (fld i.imm 0 16) (hType hnd) o (x.reg i.b) with
        | some t1 => t1
        | none => faultJob t k St.operand

/-- The ids that have a row of their own. -/
def ownParam (id : Nat) : Bool :=
  id = 0x10 || id = 0x20 || id = 0x21 || id = 0x24 || (0x30 ≤ id && id ≤ 0x3B) || id = 0x40 || id = 0x41 || id = 0x200 ||
    (0x210 ≤ id && id ≤ 0x213)

/-- SPARAM of a rate-control, colour or tone parameter (R260, R304); any other identifier, a value out of range or an
object of the wrong kind is JOB_FAULT_OPERAND (R111). -/
def execSparam (f c : Nat) (s : State) : Res :=
  .next (setParam (fun id => !ownParam id) f c s fun t _ id ty o v =>
    if ty = 1 then
      (t.chan o.ref).bind fun y =>
        (parRange y id).bind fun r =>
          if parKind y.blk id && r.1 ≤ v.toNat && v.toNat ≤ r.2 then
            some (t.modChan o.ref fun z => { z with par := bankSet z.par (parDflt z.blk) id v.toNat })
          else none
    else if ty = 3 && 0x220 ≤ id then
      (t.buf o.ref).bind fun b =>
        let r := if id = 0x220 then some (0, 0x1FFFFFF) else if id = 0x221 then some (400, 10000)
          else if id = 0x222 then some (100, 400) else none
        r.bind fun (r : Nat × Nat) =>
          if b.formatted && r.1 ≤ v.toNat && v.toNat ≤ r.2 then
            some (t.setBuf o.ref { b with par := tset b.par id v.toNat })
          else none
    else none)

/-- SPARAM HOME (R68, R111): the channel's home moves at its next picture boundary. -/
def execSparamHome (f c : Nat) (s : State) : Res :=
  .next (setParam (· = 0x10) f c s fun t _ _ ty o v =>
    if ty = 1 && v.toNat ≤ 7 then some (t.modChan o.ref fun y => { y with homeSet := some v.toNat }) else none)

/-- SPARAM BITRATE and MAXRATE (R111, R264, R521). -/
def execSparamBitrate (f c : Nat) (s : State) : Res :=
  .next (setParam (fun id => id = 0x20 || id = 0x21) f c s fun t _ id ty o v =>
    if ty = 1 then
      (t.chan o.ref).bind fun y =>
        let used := if id = 0x20 then 2 ≤ y.blk.rcMode else y.blk.rcMode = 1 || y.blk.rcMode = 3 || y.blk.rcMode = 5
        let b := if id = 0x20 then { y.blk with bitrate := v.toNat } else { y.blk with maxrate := v.toNat }
        if !y.blk.enc then none
        else if !used then some t
        else if ratesOk b then some (t.setChan o.ref { y with blk := b })
        else none
    else none)

/-- Set or cancel a request for an IDR on a channel, or on every rung of its group (R111, R287). -/
def forceIdr (t : State) (ids : List Nat) (on : Bool) : State :=
  ids.foldl (fun u c => u.modChan c fun y => { y with idr := on }) t

/-- The channels that a FORCE_IDR on a handle acts on: none of it is an encode channel or group. -/
def idrTargets (t : State) (ty ref : Nat) : Option (List Nat) :=
  if ty = 6 then (tget t.vid.grp ref).map fun g => g.rungs.map (·.2)
  else if ty = 1 then
    (t.chan ref).bind fun y =>
      if !y.blk.enc then none
      else match y.grp with
        | some (g, _) => some (match tget t.vid.grp g with | some z => z.rungs.map (·.2) | none => [ref])
        | none => some [ref]
  else none

/-- SPARAM FORCE_IDR (R111, R287). -/
def execSparamForceIdr (f c : Nat) (s : State) : Res :=
  .next (setParam (· = 0x24) f c s fun t _ _ ty o v =>
    (idrTargets t ty o.ref).bind fun l => if v.toNat ≤ 1 then some (forceIdr t l (v.toNat = 1)) else none)

/-- A channel handle in a value register: bits [31:0], the rest 0. -/
def valueChan (t : State) (h : Nat) (v : DWord) : Option Nat :=
  if hiW v ≠ 0 then none else (useHandle t h [1] (loW v)).map (·.ref)

/-- SPARAM RUNG0 to RUNG11 (R111, R170): an encode channel of the distribution class, in no group; a channel that the rung
had before leaves the group. A value that is no channel handle faults with JOB_FAULT_HANDLE (R73). -/
def execSparamRung (f c : Nat) (s : State) : Res :=
  .next (issue 0x62 (fun i => !i.mod.testBit 0 && 0x30 ≤ fld i.imm 0 16 && fld i.imm 0 16 ≤ 0x3B) f c s fun t k x i =>
    if fld i.imm 16 16 ≠ 0 then faultJob t k St.illegal
    else
      let hnd := x.hnd i.a
      let r := fld i.imm 0 16 - 0x30
      match useHandle t x.hold paramTypes hnd with
      | none => faultJob t k St.handle
      | some o =>
        if hType hnd ≠ 6 then faultJob t k St.operand
        else
          match valueChan t x.hold (x.reg i.b) with
          | none => faultJob t k St.handle
          | some m =>
            match t.chan m, tget t.vid.grp o.ref with
            | some y, some g =>
              if !y.blk.enc || y.blk.live || y.grp.isSome || g.fixed then faultJob t k St.operand
              else
                let t1 := t.setCtx k (step1 x i)
                let t2 := match tget g.rungs r with
                  | some old => t1.modChan old fun z => { z with grp := none }
                  | none => t1
                (t2.modChan m fun z => { z with grp := some (o.ref, r) }).setGrp o.ref { g with rungs := tset g.rungs r m }
            | _, _ => faultJob t k St.operand)

/-- The sum of the members' MUX_MIN. -/
def muxMins (t : State) (l : List Nat) : Nat :=
  l.foldl (fun n c => match t.chan c with | some y => n + y.par_ 0x10E | none => n) 0

/-- SPARAM MUX_MEMBER (R111, R170, R277): a distribution encode channel of RC_MODE 5 in no group, at the rate of the first
member, whose MUX_MIN still fits; at most 32. -/
def execSparamMuxMember (f c : Nat) (s : State) : Res :=
  .next (issue 0x62 (fun i => !i.mod.testBit 0 && fld i.imm 0 16 = 0x40) f c s fun t k x i =>
    if fld i.imm 16 16 ≠ 0 then faultJob t k St.illegal
    else
      let hnd := x.hnd i.a
      match useHandle t x.hold paramTypes hnd with
      | none => faultJob t k St.handle
      | some o =>
        if hType hnd ≠ 7 then faultJob t k St.operand
        else
          match valueChan t x.hold (x.reg i.b) with
          | none => faultJob t k St.handle
          | some m =>
            match t.chan m, tget t.vid.mux o.ref with
            | some y, some g =>
              let same := match g.members.head?.bind t.chan with
                | some z => z.blk.num * y.blk.den = y.blk.num * z.blk.den
                | none => true
              if y.blk.enc && !y.blk.live && y.blk.rcMode = 5 && y.mux.isNone && same && g.members.length < 32 &&
                  muxMins t (m :: g.members) ≤ g.rate then
                ((t.setCtx k (step1 x i)).modChan m fun z => { z with mux := some o.ref }).setMux o.ref
                  { g with members := g.members ++ [m] }
              else faultJob t k St.operand
            | _, _ => faultJob t k St.operand)

/-- SPARAM MUX_RATE (R111, R279): applies at the next tick; refused below the members' MUX_MIN. -/
def execSparamMuxRate (f c : Nat) (s : State) : Res :=
  .next (setParam (· = 0x41) f c s fun t _ _ ty o v =>
    if ty = 7 then
      (tget t.vid.mux o.ref).bind fun g =>
        if muxMins t g.members ≤ v.toNat && v.toNat < 2 ^ 32 then some (t.setMux o.ref { g with next := some v.toNat })
        else none
    else none)

/-- SPARAM LADDER_DEPTH (R299, R304): before the first ENC.LADDER. -/
def execSparamLadderDepth (f c : Nat) (s : State) : Res :=
  .next (setParam (· = 0x200) f c s fun t _ _ ty o v =>
    if ty = 6 then
      (tget t.vid.grp o.ref).bind fun g =>
        if !g.fixed && v.toNat ≤ 1 then some (t.setGrp o.ref { g with deep := v.toNat = 1 }) else none
    else none)

/-- SPARAM BUF_WIDTH, BUF_HEIGHT, BUF_CHROMA and BUF_DEPTH (R298, R304): a format larger than the buffer is refused. -/
def execSparamBufFormat (f c : Nat) (s : State) : Res :=
  .next (setParam (fun id => 0x210 ≤ id && id ≤ 0x213) f c s fun t _ id ty o v =>
    let n := v.toNat
    let ok := match id with
      | 0x210 => 16 ≤ n && n ≤ 8192 | 0x211 => 16 ≤ n && n ≤ 4352 | 0x212 => n ≤ 3
      | _ => [8, 10, 12, 16, 20].contains n
    if ty = 3 && ok then
      (t.buf o.ref).bind fun b =>
        let b1 := { b with par := tset b.par id n }
        if b1.needs ≤ b1.size then some (t.setBuf o.ref b1.format) else none
    else none)

/-- The value of a parameter (R108, R111, R260, R304): none where the identifier or the object's kind is wrong; none
inside where the spec gives no value (a format not written; the members of a group, log 26). -/
def getParam (t : State) (id ty ref : Nat) : Option (Option Nat) :=
  if ty = 1 then
    (t.chan ref).bind fun y =>
      if id = 0x10 then some (some y.home)
      else if !y.blk.enc && id ≠ 0x221 && id ≠ 0x222 then none
      else if id = 0x20 then some (some y.blk.bitrate)
      else if id = 0x21 then some (some y.blk.maxrate)
      else if id = 0x24 then some (some (b2n y.idr))
      else (parRange y id).map fun _ => some (y.par_ id)
  else if ty = 3 then
    (t.buf ref).bind fun b =>
      if 0x210 ≤ id && id ≤ 0x213 then some (tget b.par id)
      else if b.formatted && 0x220 ≤ id && id ≤ 0x222 then
        some (some (tgetD b.par id (if id = 0x220 then 0x20202 else if id = 0x221 then 1000 else 203)))
      else none
  else if ty = 6 then
    (tget t.vid.grp ref).bind fun g =>
      if id = 0x24 then
        some (some (b2n (g.rungs.any fun p => match t.chan p.2 with | some y => y.idr | none => false)))
      else if 0x30 ≤ id && id ≤ 0x3B then
        some (some (match (tget g.rungs (id - 0x30)).bind t.chan with | some y => (mkHandle t y.slot).toNat | none => 0))
      else if id = 0x200 then some (some (b2n g.deep))
      else none
  else if ty = 7 then
    (tget t.vid.mux ref).bind fun g =>
      if id = 0x40 then some none else if id = 0x41 then some (some (g.next.getD g.rate)) else none
  else none

/-- SPARAM with GET (R108): D ← the parameter. -/
def execSparamGet (f c : Nat) (s : State) : Res :=
  .next (issue 0x62 (fun i => i.mod.testBit 0) f c s fun t k x i =>
    if fld i.imm 16 16 ≠ 0 then faultJob t k St.illegal
    else
      let hnd := x.hnd i.a
      match useHandle t x.hold paramTypes hnd with
      | none => faultJob t k St.handle
      | some o =>
        match getParam t (fld i.imm 0 16) (hType hnd) o.ref with
        | none => faultJob t k St.operand
        | some (some v) => t.setCtx k (step1 (x.setReg i.d (w64 v)) i)
        | some none => let (v, t1) := t.takeFree; t1.setCtx k (step1 (x.setReg i.d v) i))

end Sys2Proof.Machine
end

