-- ==== Sys2Proof/Machine/Pictures.lean ====
section
/-! DEFINITION. Pictures, buffers and long-term references as jobs handle them (R108, R110, R176, R183 to R187, R190,
R191): PALLOC, PFREE, PMARK and PLTR. -/

namespace Sys2Proof.Machine

/-- The header of a picture of a channel that no stream has filled: its size is the channel's (DEDUCED, log 24). -/
def blankHdr (b : Blk) : Hdr :=
  { cw := b.width, ch := b.height, ww := b.width, wh := b.height, sdepth := b.depth, chroma := b.chroma }

/-- The channel's POOL_SHORT event (R185). -/
def poolShort (s : State) (c : Nat) : State := chanEvent s c 6

/-- PALLOC of a picture (R108, R183 to R185): the lowest free buffer of the channel's pool. -/
def execPalloc (f c : Nat) (s : State) : Res :=
  done s (issue 0x63 (fun i => !i.mod.testBit 0) f c s fun t k x i =>
    match useHandle t x.hold [1] (x.hnd i.a) with
    | none => faultJob t k St.handle
    | some o =>
      match t.chan o.ref, (freeBufs t o.ref).head? with
      | some y, some n =>
        (match newHandle t 2 x.hold n with
         | some (hnd, t1) =>
           let use := fun (b : Buf) =>
             { b.fresh with handles := 1, hdr := blankHdr y.blk, planes := b.planes, motion := b.motion }
           giveHandle (t1.modBuf n use) k i St.ok hnd
         | none => giveHandle t k i St.pool 0)
      | _, _ => giveHandle (poolShort t o.ref) k i St.pool 0)

/-- A range of a holding's memory lies within its quota, on a page, and overlaps no plain buffer (log 27). -/
def bufPlace (s : State) (h at_ n : Nat) : Bool :=
  at_ % 4096 = 0 && at_ + n ≤ (s.hd h).qDram * granule &&
    s.vid.buf.all fun p => p.2.hold ≠ h || p.2.pic || p.2.empty || at_ + n ≤ p.2.addr || p.2.addr + p.2.size ≤ at_

/-- PALLOC.B (R108): a plain buffer of Ga bytes in whole pages from the DRAM quota, at the device-memory offset `at_` the
device gives it (log 27). -/
def execPallocB (f c at_ : Nat) (s : State) : Res :=
  done s (issue 0x63 (fun i => i.mod.testBit 0) f c s fun t k x i =>
    let n := (x.gr i.a).toNat
    if n = 0 || 2 ^ 32 < n then faultJob t k St.operand
    else if !dramFits t x.hold (pageUp n) then giveHandle (quotaHit t x.hold) k i St.pool 0
    else if !bufPlace t x.hold at_ (pageUp n) then s
    else
      match newHandle t 3 x.hold t.vid.nextBuf with
      | none => giveHandle t k i St.pool 0
      | some (hnd, t1) =>
        let b : Buf := { hold := x.hold, pic := false, size := pageUp n, addr := at_, handles := 1 }
        giveHandle (chargeDram (t1.addBuf b) x.hold (pageUp n)) k i St.ok hnd)

/-- PFREE (R73, R108, R183): the job's claim is dropped; the handle is invalid at once. -/
def execPfree (f c : Nat) (s : State) : Res :=
  .next (issue 0x64 anyIns f c s fun t k x i =>
    match useHandle t x.hold [2, 3] (x.hnd i.a) with
    | none => faultJob t k St.handle
    | some o =>
      let t1 := (freeSlot t (hSlot (x.hnd i.a))).setCtx k (step1 x i)
      reapBuf (t1.modBuf o.ref fun b => { b with handles := b.handles - 1 }) o.ref)

/-- A synchronous instruction reports a code in G15 and is done (R71). -/
def report (s : State) (k : Nat) (i : Ins) (code : Nat) : State := s.modCtx k fun x => step1 (x.status code) i

/-- Buffers of a pool whose pin is clear (R187). -/
def unpinned (s : State) (c : Nat) : Nat :=
  ((poolOf s c).filter fun n => match s.buf n with | some b => !b.held | none => false).length

/-- PMARK HOLD (R108, R187); a value of IMM that is neither HOLD nor UNHOLD is JOB_FAULT_OPERAND. -/
def execPmarkHold (f c : Nat) (s : State) : Res :=
  done s (issue 0x65 (fun i => i.imm ≠ 0) f c s fun t k x i =>
    match useHandle t x.hold [2, 3] (x.hnd i.a) with
    | none => faultJob t k St.handle
    | some o =>
      match t.buf o.ref with
      | none => faultJob t k St.handle
      | some b =>
        match b.chan with
        | none => faultJob t k St.operand
        | some m =>
          match t.chan m with
          | none => faultJob t k St.operand
          | some y =>
            if i.imm ≠ 1 || !b.pic then faultJob t k St.operand
            else if b.held then report t k i St.ok
            else if unpinned t m ≤ minPool y.blk then report (poolShort t m) k i St.pool
            else report (t.setBuf o.ref { b with held := true }) k i St.ok)

/-- PMARK UNHOLD (R108, R187). -/
def execPmarkUnhold (f c : Nat) (s : State) : Res :=
  .next (issue 0x65 (fun i => i.imm = 0) f c s fun t k x i =>
    match useHandle t x.hold [2, 3] (x.hnd i.a) with
    | none => faultJob t k St.handle
    | some o =>
      match t.buf o.ref with
      | none => faultJob t k St.handle
      | some b =>
        if !b.pic then faultJob t k St.operand
        else report (t.setBuf o.ref { b with held := false }) k i St.ok)

/-! Long-term references (R110, R190, R191, R193). -/

/-- The frame of PLTR: a live-link encode channel, else JOB_FAULT_OPERAND; MPEG-2 takes only LOSS (R190). -/
def pltr (op : Nat) (f c : Nat) (s : State) (body : State → Nat → Ctx → Ins → Nat → Chan → State) : State :=
  issue 0x66 (fun i => i.mod % 4 = op) f c s fun t k x i =>
    match useHandle t x.hold [1] (x.hnd i.a) with
    | none => faultJob t k St.handle
    | some o =>
      match t.chan o.ref with
      | none => faultJob t k St.handle
      | some y =>
        if !y.blk.live || !y.blk.enc || (y.blk.codec = 0 && op ≠ 2) then faultJob t k St.operand
        else body t k x i o.ref y

/-- Set the long-term mark of a buffer, or clear it. -/
def markBuf (s : State) (n : Nat) (m : Mark) : State := s.modBuf n fun b => { b with mark := m }

/-- Empty a long-term slot: its buffer is marked no more, unless another slot holds it. -/
def dropLtr (s : State) (c slot : Nat) : State :=
  match s.chan c with
  | none => s
  | some y =>
    match tget y.ltr slot with
    | none => s
    | some l =>
      let rest := tdel y.ltr slot
      let s1 := s.setChan c { y with ltr := rest }
      if rest.any fun p => p.2.buf == l.buf then s1 else reapBuf (markBuf s1 l.buf .none) l.buf

/-- PLTR.SET (R110): the next ENC.PIC stores its picture in the slot. -/
def execPltrSet (f c : Nat) (s : State) : Res :=
  .next (pltr 0 f c s fun t k x i m _ =>
    if 3 < (x.gr i.b).toNat then faultJob t k St.operand
    else (t.setCtx k (step1 x i)).modChan m fun y => { y with ltrSet := some (x.gr i.b).toNat })

/-- PLTR.ACK (R110, R191): the slots that hold the picture become acknowledged; OK_LTR_STALE when none does. -/
def execPltrAck (f c : Nat) (s : State) : Res :=
  .next (pltr 1 f c s fun t k x i m y =>
    let v := x.gr i.b
    let hit := v.toNat < 2 ^ 32 && y.ltr.any fun p => p.2.counter == loW v
    if hit then
      (report t k i St.ok).modChan m fun z =>
        { z with ltr := tmap z.ltr fun _ l => if l.counter = loW v then { l with ack := true } else l }
    else report t k i St.ltrStale)

/-- PLTR.LOSS (R110, R191): the next ENC.PIC's picture is the recovery picture. -/
def execPltrLoss (f c : Nat) (s : State) : Res :=
  .next (pltr 2 f c s fun t k x i m _ => (t.setCtx k (step1 x i)).modChan m fun y => { y with loss := true })

/-- PLTR.DROP (R110): the slot is emptied. -/
def execPltrDrop (f c : Nat) (s : State) : Res :=
  .next (pltr 3 f c s fun t k x i m _ =>
    if 3 < (x.gr i.b).toNat then faultJob t k St.operand
    else dropLtr (t.setCtx k (step1 x i)) m (x.gr i.b).toNat)

end Sys2Proof.Machine
end

