-- ==== Sys2Proof/Machine/StatOps.lean ====
section
/-! DEFINITION. The records that STATS reports (R305 to R313), built when a picture completes; and a channel's latency and
waits (R449). -/

namespace Sys2Proof.Machine

/-- A sample of a picture; one that nothing has written reads 0 (log 24). -/
def sampleAt (pl : List (List (List Nat))) (p r c : Nat) : Nat := ((pl.getD p []).getD r []).getD c 0

/-- The luma samples of the display window, row by row. -/
def windowLuma (b : Buf) : List Nat :=
  (List.range b.hdr.wh).flatMap fun y =>
    (List.range b.hdr.ww).map fun x => sampleAt b.planes 0 (b.hdr.wy + y) (b.hdr.wx + x)

/-- The histogram section (R312). -/
def secHist (l : List Nat) (depth : Nat) : StatSec :=
  let bins := (List.range 256).map fun i => (l.filter fun v => v / 2 ^ (depth - 8) == i).length
  let mn := l.foldl Nat.min (2 ^ depth - 1)
  { typ := 0x30, size := 1040, cols := 0, rows := 0,
    recs := [toLE 4 l.length ++ toLE 2 mn ++ toLE 2 (maxL l) ++ toLE 8 0 ++ bins.flatMap fun n => toLE 4 n] }

/-- The motion section of a decoded picture (R309). -/
def secMotion1 (b : Buf) : StatSec :=
  { typ := 0x01, size := 16, cols := cdiv b.hdr.cw 16, rows := cdiv b.hdr.ch 16,
    recs := if b.hdr.flags.testBit 3 then b.motion else [] }

/-- One complexity record (R310). -/
def cplxRec (intra inter bits qp flags : Nat) : List Byte :=
  toLE 4 (sat32 intra) ++ toLE 4 (sat32 inter) ++ toLE 4 (sat32 bits) ++ toLE 1 qp ++ toLE 1 flags ++ toLE 2 0

/-- The complexity section of a decoded picture: bits only. -/
def secCplxDec (b : Buf) (bits : List Nat) : StatSec :=
  let cols := cdiv b.hdr.cw 64
  let rows := cdiv b.hdr.ch 64
  { typ := 0x10, size := 16, cols := cols, rows := rows,
    recs := (List.range (cols * rows)).map fun u =>
      cplxRec 0xFFFFFFFF 0xFFFFFFFF (bits.getD u 0) 0 (if tgetD b.hdr.map u 0 = 0 then 0 else 2) }

/-- A channel's latest picture for STATS. -/
def setStats (s : State) (c src : Nat) (b : Buf) (nref : Nat) (secs : Tab (List StatSec)) : State :=
  s.modChan c fun y =>
    { y with statSrc := some src, statCnt := b.hdr.counter, statPts := b.hdr.pts, statType := b.hdr.ptype,
             statNref := nref, statSec := secs, statW := b.hdr.cw, statH := b.hdr.ch }

/-- A picture's latency in µs: CHN_LAT_LAST and CHN_LAT_MAX (R449). -/
def latency (s : State) (c : Nat) (t0 : DWord) : State :=
  let us := sat32 ((s.tim.dtb - t0).toNat / 1000)
  let s1 := s.wch c B.latLast (w32 us)
  if (s1.rch c B.latMax).toNat < us then s1.wch c B.latMax (w32 us) else s1

/-- Waits in µs by cause: Yoke, DMA, memory, fallow work (R449). -/
def addWaits (s : State) (c : Nat) (w : List Nat) : State :=
  [B.waitYoke, B.waitDma, B.waitMem, B.waitFallow].zipIdx.foldl
    (fun t a => if w.getD a.2 0 = 0 then t else t.addqch c a.1 (w.getD a.2 0)) s

end Sys2Proof.Machine
end

