-- ==== Sys2Proof/Machine/Resample.lean ====
section
/-! DEFINITION. The one resampling process of SCALE, ENC.LADDER and CONVERT (R8, R293 to R296), bit by bit. Planes are lists
of rows of 20-bit samples. The kernel is computed in fixed point, with 96 fraction bits, in place of IEEE double precision
(DEDUCED: both round to the same coefficient unless a quotient lies within 2^-40 of a half, log 36). -/

namespace Sys2Proof.Machine

/-- One in fixed point: 96 fraction bits. -/
def fxOne : Int := 2 ^ 96
/-- π. -/
def fxPi : Int := 248902613312231085230521944622
/-- A product of fixed-point numbers. -/
def fxMul (a b : Int) : Int := a * b / fxOne
/-- A quotient of fixed-point numbers. -/
def fxDiv (a b : Int) : Int := a * fxOne / b

/-- The sine series from its term `t` of odd order `2k + 1` on. -/
def sinSeries (x2 : Int) : Nat → Nat → Int → Int
  | 0, _, t => t
  | n + 1, k, t => t + sinSeries x2 n (k + 1) (-(fxMul t x2) / ((2 * k + 2) * (2 * k + 3) : Nat))

/-- sin(π × num / den) for num at most den. -/
def sinHalf (num den : Nat) : Int :=
  let r := Nat.min num (den - num)
  let x := fxPi * r / den
  sinSeries (fxMul x x) 24 0 x

/-- sin(π × num / den). -/
def sinPi (num den : Nat) : Int :=
  let r := num % (2 * den)
  if r < den then sinHalf r den else -(sinHalf (r - den) den)

/-- cos(π × num / den). -/
def cosPi (num den : Nat) : Int := sinPi (2 * num + den) (2 * den)

/-- sinc(num / den). -/
def sincFx (num den : Nat) : Int := if num = 0 then fxOne else fxDiv (sinPi num den) (fxPi * num / den)

/-- K(d) of R294 at |d| = q / 32 with the cut-off fn / fd and the window width a, times 2 / f_c: the factor falls out of the
normalisation. -/
def kernelAt (fn fd a q : Nat) : Int := fxMul (sincFx (fn * q) (32 * fd)) (fxOne + cosPi q (32 * a))

/-- A quotient rounded half away from zero; `b` is above 0. -/
def rdivAway (a b : Int) : Int := if 0 ≤ a then (2 * a + b) / (2 * b) else -((-(2 * a) + b) / (2 * b))

/-- First tap, taps and window width: luma or chroma (R294). -/
def tapShape (luma : Bool) : Int × Nat × Nat := if luma then (-3, 8, 4) else (-2, 6, 3)

/-- The coefficients of a phase at a cut-off (R294). -/
def phaseCoefs (luma : Bool) (fn fd p : Nat) : List Int :=
  let (k0, n, a) := tapShape luma
  let ws := (List.range n).map fun (j : Nat) => kernelAt fn fd a (32 * (k0 + j) - p).natAbs
  let cs := ws.map fun w => rdivAway (256 * w) (ws.foldl (· + ·) 0)
  let i := k0.natAbs + (if p < 16 then 0 else 1)
  cs.modify i (· + (256 - cs.foldl (· + ·) 0))

/-- m of R295: the smallest for which S / (D × 2^m) is at most 2. -/
def avgShift (sz dz : Nat) : Nat := ((List.range 5).find? fun m => sz ≤ 2 * dz * 2 ^ m).getD 4

/-- The position of sample `i`: luma, chroma of 4:4:4 and vertical chroma (R293). -/
def posStd (sz dz m i : Nat) : Int := ((2 * i + 1) * sz * 32768 / (dz * 2 ^ m) : Nat) - 32768
/-- Horizontal chroma of 4:2:0 and 4:2:2, from the luma widths (R293). -/
def posChroma (sl dl m i : Nat) : Int := ((4 * i + 1) * sl * 16384 / (dl * 2 ^ m) : Nat) - 16384
/-- Horizontal chroma from 4:2:0 or 4:2:2 to 4:4:4, and back: sited with the even luma samples (log 36). -/
def posUp (_m i : Nat) : Int := (i * 32768 : Nat)
/-- See `posUp`. -/
def posDown (_m i : Nat) : Int := (i * 131072 : Nat)

/-- The tap position and coefficients of every destination sample of a pass. -/
def passTaps (luma : Bool) (sz dz : Nat) (pos : Nat → Nat → Int) : List (Int × List Int) :=
  let m := avgShift sz dz
  let (fn, fd) := if sz ≤ dz * 2 ^ m then (1, 1) else (dz * 2 ^ m, sz)
  (List.range dz).map fun i =>
    let x := pos m i
    (x / 65536, phaseCoefs luma fn fd ((x / 2048) % 32).toNat)

/-- The sample of a line at an index, the nearest edge sample beyond it (R295). -/
def edgeAt (l : List Nat) (i : Int) : Nat := l.getD (Nat.min i.toNat (l.length - 1)) 0

/-- Averages of groups of 2^m samples (R295). -/
def averages (l : List Nat) (m : Nat) : List Nat :=
  if m = 0 then l
  else (List.range (cdiv l.length (2 ^ m))).map fun (g : Nat) =>
    ((List.range (2 ^ m)).foldl (fun n (j : Nat) => n + edgeAt l ((g * 2 ^ m + j : Nat) : Int)) (2 ^ (m - 1))) / 2 ^ m

/-- The largest 20-bit sample. -/
def top20 : Nat := 0xFFFFF

/-- A value clipped to 20 bits. -/
def clip20 (v : Int) : Nat := Nat.min top20 v.toNat

/-- One line through a pass (R295). -/
def passLine (k0 : Int) (m : Nat) (taps : List (Int × List Int)) (l : List Nat) : List Nat :=
  let a := averages l m
  taps.map fun t =>
    clip20 ((t.2.zipIdx.foldl (fun n c => n + c.1 * (edgeAt a (t.1 + k0 + (c.2 : Int)) : Int)) 128) / 256)

/-- Rows to columns and back: `w` columns. -/
def turn (w : Nat) (pl : List (List Nat)) : List (List Nat) := (List.range w).map fun c => pl.map fun r => r.getD c 0

/-- A horizontal pass of a plane. -/
def passH (luma : Bool) (sz dz : Nat) (pos : Nat → Nat → Int) (pl : List (List Nat)) : List (List Nat) :=
  let t := passTaps luma sz dz pos
  pl.map (passLine (tapShape luma).1 (avgShift sz dz) t)

/-- A vertical pass of a plane of `w` columns. -/
def passV (luma : Bool) (w sz dz : Nat) (pos : Nat → Nat → Int) (pl : List (List Nat)) : List (List Nat) :=
  turn dz (passH luma sz dz pos (turn w pl))

/-! Planes as a stored picture has them (R178): luma; for 4:2:0 and 4:2:2 one plane of Cb, Cr pairs; for 4:4:4 two planes.
The process works on Y, Cb and Cr apart. -/

/-- Chroma columns and rows of a picture of a format: 1 4:2:0, 2 4:2:2, 3 4:4:4; 0 none. -/
def chromaW (chroma w : Nat) : Nat := if chroma = 0 then 0 else if chroma = 3 then w else cdiv w 2
/-- See `chromaW`. -/
def chromaH (chroma h : Nat) : Nat := if chroma = 0 then 0 else if chroma = 1 then cdiv h 2 else h

/-- A window of a plane of a picture, held at 20 bits: column `k × c + j` of plane `p` for each `c` (R293). -/
def planeWin (b : Buf) (p k j x y w h : Nat) : List (List Nat) :=
  (List.range h).map fun r => (List.range w).map fun c =>
    sampleAt b.planes p (y + r) (k * (x + c) + j) * 2 ^ (20 - b.depth)

/-- Y, Cb and Cr of a window of a picture; Y alone for 4:0:0. -/
def windowOf (b : Buf) (x y w h : Nat) : List (List (List Nat)) :=
  let f := b.hdr.chroma
  let yy := planeWin b 0 1 0 x y w h
  let cx := if f = 3 then x else x / 2
  let cy := if f = 1 then y / 2 else y
  if f = 0 then [yy]
  else if f = 3 then [yy, planeWin b 1 1 0 x y w h, planeWin b 2 1 0 x y w h]
  else [yy, planeWin b 1 2 0 cx cy (chromaW f w) (chromaH f h), planeWin b 1 2 1 cx cy (chromaW f w) (chromaH f h)]

/-- A 20-bit sample rounded to a stored depth (R8). -/
def storeAt (depth v : Nat) : Nat :=
  if 20 ≤ depth then v else Nat.min (2 ^ depth - 1) ((v + 2 ^ (19 - depth)) / 2 ^ (20 - depth))

/-- Planes stored at a depth (R8, R178). -/
def storePlanes (chroma depth : Nat) (l : List (List (List Nat))) : List (List (List Nat)) :=
  let st := fun (pl : List (List Nat)) => pl.map fun r => r.map (storeAt depth)
  match l with
  | [yy, cb, cr] =>
    if chroma = 3 then [st yy, st cb, st cr]
    else [st yy, (st cb).zipWith (fun a b => (a.zip b).flatMap fun p => [p.1, p.2]) (st cr)]
  | l => l.map st

/-- Every plane of a picture scaled from one size to another (R293). -/
def scalePlanes (chroma sw sh dw dh : Nat) (l : List (List (List Nat))) : List (List (List Nat)) :=
  l.zipIdx.map fun p =>
    if p.2 = 0 then passV true dw sh dh (posStd sh dh) (passH true sw dw (posStd sw dw) p.1)
    else
      let (s, d) := (chromaW chroma sw, chromaW chroma dw)
      let (t, e) := (chromaH chroma sh, chromaH chroma dh)
      passV false d t e (posStd t e) (passH false s d (if chroma = 3 then posStd s d else posChroma sw dw) p.1)

/-- A chroma plane of a w × h picture from one format to another (R301 steps 1 and 9, log 36). -/
def chromaTo (fs fd w h : Nat) (pl : List (List Nat)) : List (List Nat) :=
  let (s, d) := (chromaW fs w, chromaW fd w)
  let (t, e) := (chromaH fs h, chromaH fd h)
  let a := if s = d then pl else passH false s d (if s < d then posUp else posDown) pl
  if t = e then a else passV false d t e (posStd t e) a

/-- A w × h picture's planes in another chroma format; from 4:0:0 chroma is 1 << 19, to 4:0:0 it is dropped (R301). -/
def toChroma (fs fd w h : Nat) (l : List (List (List Nat))) : List (List (List Nat)) :=
  let grey := List.replicate (chromaH fd h) (List.replicate (chromaW fd w) 0x80000)
  match l with
  | [yy, cb, cr] => if fd = 0 then [yy] else [yy, chromaTo fs fd w h cb, chromaTo fs fd w h cr]
  | yy :: _ => if fd = 0 then [yy] else [yy, grey, grey]
  | [] => []

end Sys2Proof.Machine
end

