-- ==== Sys2Proof/Machine/Colour.lean ====
section
/-! DEFINITION. The colour steps of CONVERT (R300 to R303): the formulas of H.273, BT.1886, ST 2084 and BT.2100 in fixed
point. Where a colour step follows, each sample of the result is within 1 of the formula's at 20 bits: which one is a free
value (R303, log 12). -/

namespace Sys2Proof.Machine

/-- A fraction in fixed point. -/
def fxRat (a b : Int) : Int := a * fxOne / b
/-- ln 2. -/
def fxLn2 : Int := 54916777467707473351141471128

/-- The binary digits of log2 of a mantissa from 1 to 2. -/
def log2Bits : Nat → Int → Int → Int
  | 0, _, _ => 0
  | n + 1, x, b =>
    let y := fxMul x x
    if 2 * fxOne ≤ y then b + log2Bits n (y / 2) (b / 2) else log2Bits n y (b / 2)

/-- log2 of a number above 0. -/
def fxLog2 (x : Int) : Int :=
  let e := Nat.log2 x.toNat
  ((e : Int) - 96) * fxOne + log2Bits 80 (if 96 ≤ e then x / 2 ^ (e - 96) else x * 2 ^ (96 - e)) (fxOne / 2)

/-- The exponential series from its term `t` of order `k` on. -/
def expSeries (x : Int) : Nat → Nat → Int → Int
  | 0, _, t => t
  | n + 1, k, t => t + expSeries x n (k + 1) (fxMul t x / (k + 1 : Nat))

/-- 2 to a power. -/
def fxExp2 (x : Int) : Int :=
  let n := x / fxOne
  let f := expSeries (fxMul (x % fxOne) fxLn2) 30 0 fxOne
  if 0 ≤ n then f * 2 ^ n.toNat else f / 2 ^ (-n).toNat

/-- x to the power a / b; 0 of 0. -/
def fxPow (x : Int) (a b : Int) : Int := if x ≤ 0 then 0 else fxExp2 (fxLog2 x * a / b)
/-- The natural logarithm of a number above 0. -/
def fxLn (x : Int) : Int := fxMul (fxLog2 x) fxLn2
/-- e to a power. -/
def fxExp (x : Int) : Int := fxExp2 (fxDiv x fxLn2)

/-- A colour description (ITU-T H.273): primaries, transfer, matrix, range. -/
structure Colour where
  /-- Primaries. -/
  prim : Nat
  /-- Transfer. -/
  trans : Nat
  /-- Matrix. -/
  matrix : Nat
  /-- Range: 1 full. -/
  range : Nat
  deriving DecidableEq, Repr

/-- The description of a COLOUR parameter (R304). -/
def descOf (v : Nat) : Colour := { prim := nfld v 0 8, trans := nfld v 8 8, matrix := nfld v 16 8, range := nfld v 24 1 }

/-- A code of 2 takes the other side's (R300). -/
def fillDesc (a b : Colour) : Colour :=
  let f := fun (x y : Nat) => if x = 2 then y else x
  { a with prim := f a.prim b.prim, trans := f a.trans b.trans, matrix := f a.matrix b.matrix }

/-- The description's codes are accepted, 2 on both sides among them (R300). -/
def descOk (d : Colour) : Bool :=
  [1, 2, 9].contains d.prim && [1, 2, 6, 14, 15, 16, 18].contains d.trans && [1, 2, 9].contains d.matrix

/-- Transfer: 0 SDR, 1 PQ, 2 HLG (R300). -/
def transKind (t : Nat) : Nat := if t = 16 then 1 else if t = 18 then 2 else 0

/-- Kr and Kb of a matrix, in 10,000ths. -/
def lumaW (m : Nat) : Int × Int := if m = 9 then (2627, 593) else (2126, 722)

/-- Zero, size of the luma range, and size of the chroma range of a range at 20 bits (H.273). -/
def rangeOf (full : Nat) : Int × Int × Int := if full = 1 then (0, 0xFFFFF, 0xFFFFF) else (65536, 897024, 917504)

/-- Y'CbCr at 20 bits to R'G'B' (R301 step 2). -/
def toRgb (d : Colour) (y cb cr : Nat) : List Int :=
  let (z, ys, cs) := rangeOf d.range
  let (kr, kb) := lumaW d.matrix
  let e := fxRat (y - z) ys
  let b := fxRat ((cb : Int) - 0x80000) cs
  let r := fxRat ((cr : Int) - 0x80000) cs
  let rr := e + r * (2 * (10000 - kr)) / 10000
  let bb := e + b * (2 * (10000 - kb)) / 10000
  [rr, (e * 10000 - rr * kr - bb * kb) / (10000 - kr - kb), bb]

/-- R'G'B' to Y'CbCr at 20 bits, rounded (R301 step 8); the caller clips. -/
def fromRgb (d : Colour) (v : List Int) : List Int :=
  let (z, ys, cs) := rangeOf d.range
  let (kr, kb) := lumaW d.matrix
  let (r, g, b) := (v.getD 0 0, v.getD 1 0, v.getD 2 0)
  let e := (kr * r + (10000 - kr - kb) * g + kb * b) / 10000
  let at_ := fun (x k o : Int) => (2 * (x * k + o * fxOne) + fxOne) / (2 * fxOne)
  [at_ e ys z, at_ ((b - e) * 10000 / (2 * (10000 - kb))) cs 0x80000, at_ ((r - e) * 10000 / (2 * (10000 - kr))) cs 0x80000]

/-- ST 2084's EOTF, in cd/m². -/
def pqEotf (e : Int) : Int :=
  let n := fxPow e 32 2523
  let num := n - fxRat 3424 4096
  let den := fxRat 2413 128 - n * 2392 / 128
  if num ≤ 0 then 0 else 10000 * fxPow (fxDiv num den) 16384 2610
/-- Its inverse. -/
def pqInverse (l : Int) : Int :=
  let y := fxPow (l / 10000) 2610 16384
  fxPow (fxDiv (fxRat 3424 4096 + y * 2413 / 128) (fxOne + y * 2392 / 128)) 2523 32

/-- BT.2100's constants of HLG. -/
def hlgA : Int := fxRat 17883277 100000000
/-- See `hlgA`. -/
def hlgB : Int := fxRat 28466892 100000000
/-- See `hlgA`. -/
def hlgC : Int := fxRat 55991073 100000000
/-- BT.2100's inverse OETF of HLG. -/
def hlgInverse (e : Int) : Int :=
  if 2 * e ≤ fxOne then fxMul e e / 3 else (fxExp (fxDiv (e - hlgC) hlgA) + hlgB) / 12
/-- Its OETF. -/
def hlgOetf (l : Int) : Int :=
  if 12 * l ≤ fxOne then (if l ≤ 0 then 0 else fxPow (3 * l) 1 2) else fxMul hlgA (fxLn (12 * l - hlgB)) + hlgC
/-- BT.2100's luminance weights. -/
def hlgY (v : List Int) : Int := (2627 * v.getD 0 0 + 6780 * v.getD 1 0 + 593 * v.getD 2 0) / 10000

/-- R'G'B' to linear light in cd/m² (R301 step 3). None where the formula has no value: a component below 0, or above 1
for PQ and HLG. -/
def toLinear (kind white : Nat) (v : List Int) : Option (List Int) :=
  if v.any (fun x => decide (x < 0)) then none
  else if kind ≠ 0 && v.any (fun x => decide (fxOne < x)) then none
  else
    some (match kind with
      | 0 => v.map fun x => white * fxPow x 12 5
      | 1 => v.map pqEotf
      | _ =>
        let e := v.map hlgInverse
        let k := 1000 * fxPow (hlgY e) 1 5
        e.map fun x => fxMul k x)

/-- Linear light in cd/m² to R'G'B' (R301 step 7). -/
def fromLinear (kind white : Nat) (v : List Int) : List Int :=
  match kind with
  | 0 => v.map fun x => fxPow (x / white) 5 12
  | 1 => v.map pqInverse
  | _ =>
    let y := hlgY v / 1000
    if y ≤ 0 then v.map fun _ => 0
    else
      let k := fxDiv fxOne (fxPow y 1 6)
      v.map fun x => hlgOetf (fxMul k (x / 1000))

/-- The 3×3 matrices from BT.2020 to BT.709 primaries and back, with D65 white, times 2^64 (R301 step 4). -/
def primMatrix (dest : Nat) : List (List Int) :=
  if dest = 1 then
    [[30630652552591796935, -10840065694415608105, -1343842784466637213],
     [-2297550727758866491, 20898314463414467325, -154019661946049219],
     [-334822486350403908, -1855353190769447557, 20636919750829403081]]
  else
    [[11573559099155694474, 6074199936770300877, 798985037783556265],
     [1274620012978361642, 16962526333394758373, 209597727336431602],
     [302368677929750775, 1623558965491788399, 16520816430288012442]]

/-- Linear light in other primaries (R301 step 4). -/
def toPrim (from_ dest : Nat) (v : List Int) : List Int :=
  if from_ = dest then v
  else (primMatrix dest).map fun r => (r.zipWith (· * ·) v).foldl (· + ·) 0 / 2 ^ 64

/-- Tone mapping (R302). None where P − W is 0 and a value is asked for above K: the formula has none. -/
def toneMap (matrix white peak : Nat) (v : List Int) : Option (List Int) :=
  let (kr, kb) := lumaW matrix
  let y0 := (kr * v.getD 0 0 + (10000 - kr - kb) * v.getD 1 0 + kb * v.getD 2 0) / 10000
  let w := (white : Int) * fxOne
  let p := (peak : Int) * fxOne
  let k := w * 3 / 4
  let y := min y0 p
  if y ≤ k then some v
  else if p ≤ w then none
  else
    let c := fxDiv (fxMul (w - k) (p - k)) (p - w)
    let f := k + fxDiv (fxMul (y - k) c) (y - k + c)
    some (v.map fun x => fxDiv (fxMul x f) y)

/-- Steps 2 to 8 of R301 on one sample of Y, Cb and Cr; none where a formula has no value. -/
def colourSample (a b : Colour) (white peak y cb cr : Nat) : Option (List Int) :=
  let v := toRgb a y cb cr
  let (ka, kb) := (transKind a.trans, transKind b.trans)
  if a.prim = b.prim && ka = kb then some (fromRgb b v)
  else
    (toLinear ka white v).bind fun l =>
      let l1 := toPrim a.prim b.prim l
      (if ka ≠ 0 && kb = 0 then toneMap b.matrix white peak l1 else some l1).map fun l2 =>
        let top := (if kb = 0 then (white : Int) else if kb = 1 then 10000 else 1000) * fxOne
        fromRgb b (fromLinear kb white (l2.map fun x => max 0 (min top x)))

/-- A colour step follows (R301): primaries, transfer or matrix differ. -/
def colourSteps (a b : Colour) : Bool :=
  a.prim ≠ b.prim || transKind a.trans ≠ transKind b.trans || a.matrix ≠ b.matrix

/-- A sample from one nominal range to the other in 20-bit arithmetic (R303). -/
def rangeSample (a b : Nat) (luma : Bool) (v : Nat) : Nat :=
  let (za, ya, ca) := rangeOf a
  let (zb, yb, cb) := rangeOf b
  let (oa, sa, ob, sb) := if luma then (za, ya, zb, yb) else (0x80000, ca, 0x80000, cb)
  clip20 ((2 * ((v - oa) * sb) + sa) / (2 * sa) + ob)

/-- A result within 1 of the formula's (R303): `f` is the free value that says which; where the formula has none, any. -/
def nearSample (v : Option Int) (f : DWord) : Nat :=
  match v with
  | some e => clip20 (e + (f.toNat % 3 : Nat) - 1)
  | none => f.toNat % 0x100000

end Sys2Proof.Machine
end

