-- ==== Sys2Proof/Machine/Idct.lean ====
section
/-! DEFINITION. The inverse transform of MPEG-2 pictures, which is the PV16's (R212). -/

namespace Sys2Proof.Machine

/-- W(0) to W(7) (R212). -/
def idctW (m : Nat) : Int := [8192, 11363, 10703, 9633, 8192, 6436, 4433, 2260].getD m 0

/-- M[n][k] (R212). -/
def idctM (n k : Nat) : Int :=
  if k = 0 then 8192
  else
    let m := (2 * n + 1) * k % 32
    if m < 8 then idctW m else if 8 < m ∧ m < 24 then -idctW ((16 : Int) - m).natAbs else idctW (32 - m)

/-- The row pass: r[i][n], row by row (R212). Lean's division rounds down here, as the arithmetic shift does. -/
def idctRows (f : List Int) : List Int :=
  (List.range 64).map fun p =>
    ((List.range 8).foldl (fun a k => a + idctM (p % 8) k * f.getD (p / 8 * 8 + k) 0) 1024) / 2048

/-- The column pass: s[i][n], clipped, row by row (R212). -/
def idct (f : List Int) : List Int :=
  let r := idctRows f
  (List.range 64).map fun p =>
    max (-256) (min 255 (((List.range 8).foldl (fun a j => a + idctM (p / 8) j * r.getD (j * 8 + p % 8) 0) 131072) / 262144))

/-- A sample of a block added to its prediction, within 8 bits (PRESUMED of ISO/IEC 13818-2, log 54). -/
def addSample (v : Nat) (d : Int) : Nat := (max 0 (min 255 ((v : Int) + d))).toNat

/-- Add the transform of one block to the planes. -/
def addBlock (pl : List (List (List Nat))) (b : ResBlk) : List (List (List Nat)) :=
  let s := idct b.coef
  pl.modify b.plane fun rows =>
    (List.range 8).foldl
      (fun rs i => rs.modify (b.y + i * b.dy) fun row =>
        (List.range 8).foldl (fun r n => r.modify (b.x + n * b.dx) fun v => addSample v (s.getD (i * 8 + n) 0)) row) rows

/-- The samples of a picture that a report brings: those of an MPEG-2 picture are its prediction with its blocks transformed
(R212). -/
def reconstruct (codec : Nat) (pl : List (List (List Nat))) (l : List ResBlk) : List (List (List Nat)) :=
  if codec = 0 then l.foldl addBlock pl else pl

end Sys2Proof.Machine
end

