-- ==== Sys2Proof/Machine/DecodeVideo.lean ====
section
/-! DEFINITION. Decoding (R197 to R214, R219 to R236): DEC.PIC and the events of a picture in decode. What the bitstream
holds is what the report of a command says (log 8); what the device does with it is computed here. -/

namespace Sys2Proof.Machine

/-! The input FIFO as the decoder reads it. -/

/-- Payload bytes the decoder has not read. -/
def fifoAvail (f : Fifo) : Nat := f.items.foldl (fun n i => if i.gap then n else n + (i.len - i.rd)) 0

/-- Items that `n` bytes finish, and the bytes left for the item after them: a gap marker on the way is read past. -/
def eatCount : List Item → Nat → Nat × Nat
  | [], _ => (0, 0)
  | i :: rest, n =>
    if n = 0 then (0, 0)
    else if i.gap then let r := eatCount rest n; (r.1 + 1, r.2)
    else if i.len - i.rd ≤ n then let r := eatCount rest (n - (i.len - i.rd)); (r.1 + 1, r.2)
    else (0, n)

/-- The consumer reads and releases `n` payload bytes (R353, R354). -/
def fifoEat (s : State) (k n : Nat) : State :=
  let f := s.fifo k
  let (w, r) := eatCount f.items n
  let s1 := dropItems s (f.items.take w)
  let rest := match f.items.drop w with | i :: l => { i with rd := i.rd + r } :: l | [] => []
  let s2 := s1.setFifo k { f with items := rest }
  match rest.head? with | some i => fifoReleaseIn s2 k i.rd | none => s2

/-! Issue. -/

/-- An empty picture under a new handle (R226); its rows are still being produced while `rows` is set. -/
def addEmpty (s : State) (h : Nat) (rows : Bool) : Option (Word × State) :=
  (newHandle s 2 h s.vid.nextBuf).map fun p =>
    (p.1, p.2.addBuf { hold := h, empty := true, handles := 1, rows := rows })

/-- An asynchronous instruction ends at issue, without an engine, with a status word (R95). -/
def endNow (s : State) (k : Nat) (x : Ctx) (i : Ins) (w : DWord) : State := s.setCtx k (step1 (x.setG i.d w) i)

/-- A video instruction reaches its channel (R68, R174). -/
def reachChan (s : State) (c f : Nat) : State :=
  (beginChan s c).modChan c fun y => { y with homeIss := if f = y.home then y.homeIss else some f }

/-- DEC.PIC (R112, R113, R175, R199, R226): the new picture's handle is written to Kp; a FAILED channel's instruction ends
at once. Without a handle slot it ends with RESOURCE_POOL and the null handle (log 30). -/
def execDecPic (f c : Nat) (s : State) : Res :=
  done s (issue 0x80 anyIns f c s fun t k x i =>
    match useHandle t x.hold [1] (x.hnd i.b) with
    | none => faultJob t k St.handle
    | some o =>
      match t.chan o.ref with
      | none => faultJob t k St.handle
      | some y =>
        if !y.blk.dec then faultJob t k St.operand
        else if y.st == .failed then
          match addEmpty t x.hold false with
          | some (hnd, t1) => endNow t1 k (x.setReg i.a (BitVec.setWidth 64 hnd)) i (statusWord St.unrecoverable 0)
          | none => endNow t k (x.setReg i.a 0) i (statusWord St.unrecoverable 0)
        else
          withEngine 2 y.blk.live s t k x
            (match addEmpty t x.hold true with
             | none => endNow t k (x.setReg i.a 0) i (statusWord St.pool 0)
             | some (hnd, t1) =>
               startWork (askSpan (reachChan t1 o.ref f) k x y.blk.live ((spanFields t y.home y.blk.span).drop 1)) k (x.setReg i.a (BitVec.setWidth 64 hnd)) i
                 { ctx := k, hold := x.hold, d := i.d, engine := true, fcls := 1,
                   kind := .decPic o.ref (some (hSlot hnd)) (i.mod.testBit 0) (i.mod.testBit 1) }))

/-- The outstanding DEC.PIC `n` when it is the oldest of its channel (R169): channel, picture slot, R, NV. -/
def decWork (s : State) (n : Nat) : Option (Work × Nat × Nat × Bool × Bool) :=
  match tget s.job.work n with
  | some w =>
    match w.kind with
    | .decPic c p r v =>
      let first := s.job.work.all fun q => n ≤ q.1 || (match q.2.kind with | .decPic c' .. => c' ≠ c | _ => true)
      if first && !s.flt.safe then some (w, c, p.getD 0, r, v) else none
    | _ => none
  | none => none

/-- The buffer under an object slot. -/
def slotBuf (s : State) (slot : Nat) : Nat := match tget s.job.obj slot with | some o => o.ref | none => 0

/-- DEC_ROW_PUBLISH (R201, R354, R357): with R, `rows` more rows of the returned picture are published; the decoder has
taken `used` bytes of its input. `bad` says that the FIFO's pointers differed at the update. -/
def execDecRowPublish (n rows used : Nat) (bad : Bool) (s : State) : Res :=
  match decWork s n with
  | none => .next s
  | some (_, c, p, r, _) =>
    match s.chan c with
    | none => .next s
    | some y =>
      let k := fin_ c
      if fifoAvail (s.fifo k) < used then .next s
      else
        let s1 := if bad then fifoReset s k y.hold else fifoEat s k used
        done s (if r then s1.modBuf (slotBuf s p) fun b => { b with rowsPub := b.rowsPub + rows } else s1)

/-! One picture (R188, R197, R207 to R214, R227 to R236). -/

/-- User data records from byte 0x200 to 0x5FF (R211): the bytes, and UD_TRUNC. -/
def packUser : List (Nat × List Byte) → Nat → List Byte × Bool
  | [], _ => ([], false)
  | (src, pay) :: rest, room =>
    let r := toLE 2 pay.length ++ toLE 1 src ++ pay
    if room < r.length then ([], true)
    else let q := packUser rest (room - r.length); (r ++ q.1, q.2)

/-- Change the samples of a plane in a rectangle. -/
def mapRect (pl : List (List Nat)) (x y w h : Nat) (g : Nat → Nat → Nat → Nat) : List (List Nat) :=
  pl.zipIdx.map fun r =>
    if y ≤ r.2 && r.2 < y + h then
      r.1.zipIdx.map fun v => if x ≤ v.2 && v.2 < x + w then g r.2 v.2 v.1 else v.1
    else r.1

/-- Luma rows for each row of plane `q`: chroma planes of 4:2:0 have half the rows. -/
def chromaRows (chroma q : Nat) : Nat := if q = 0 || chroma ≠ 1 then 1 else 2

/-- Change the samples of every plane in a rectangle of luma samples. -/
def mapArea (pl : List (List (List Nat))) (chroma : Nat) (d : Damage) (g : Nat → Nat → Nat → Nat → Nat) :
    List (List (List Nat)) :=
  pl.zipIdx.map fun p =>
    let v := chromaRows chroma p.2
    mapRect p.1 d.x (d.y / v) d.w (cdiv d.h v) (g p.2)

/-- The 64×64 units that a damaged area touches, in a map `w` units wide. -/
def unitsOf (d : Damage) (w : Nat) : List Nat :=
  if d.w = 0 || d.h = 0 then []
  else (List.range ((d.y + d.h - 1) / 64 - d.y / 64 + 1)).flatMap fun j =>
    (List.range ((d.x + d.w - 1) / 64 - d.x / 64 + 1)).map fun i => (d.y / 64 + j) * w + d.x / 64 + i

/-- Row `r` of a plane with one row for `v` luma rows is decoded over the columns of the area `d`. -/
def decodedRow (l : List Damage) (v : Nat) (d : Damage) (r : Nat) : Bool :=
  l.all fun e => !(e.w ≠ 0 && e.x < d.x + d.w && d.x < e.x + e.w && e.y / v ≤ r && r < e.y / v + cdiv e.h v)

/-- The nearest decoded rows above and below the area `d` in a plane of `n` rows (R231 step 3). -/
def decodedRows (l : List Damage) (v n : Nat) (d : Damage) : Option Nat × Option Nat :=
  ((List.range (Nat.min n (d.y / v))).reverse.find? (decodedRow l v d),
   ((List.range n).drop (d.y / v + cdiv d.h v)).find? (decodedRow l v d))

/-- The step of R231 for a damaged area: `mv` says that the nearest reference has MV_VALID, `prev` that an earlier picture
is in the pool, `row` that a row above or below is decoded. An area lost in the channel's own output buffer takes step 3 or 4
(R228). -/
def concStep (inter mv prev row : Bool) (d : Damage) : Nat :=
  if inter && (d.near4 || mv) && !d.own then 1 else if prev && !d.own then 2 else if row then 3 else 4

/-- A sample of row `r` between the decoded rows `k.1` and `k.2`: linear interpolation, rounded when it is written (R8), or
repetition (R231 step 3). -/
def spatialSample (pl : List (List (List Nat))) (k : Option Nat × Option Nat) (q r col : Nat) : Nat :=
  match k with
  | (some a, some b) =>
    (2 * (sampleAt pl q a col * (b - r) + sampleAt pl q b col * (r - a)) + (b - a)) / (2 * (b - a))
  | (some a, none) => sampleAt pl q a col
  | (none, some b) => sampleAt pl q b col
  | (none, none) => sampleAt pl q r col

/-- The MAP value of a step (R234). -/
def stepMap (n : Nat) : Nat := if n = 0 then 0 else if n = 1 then 1 else if n = 2 then 2 else 3

/-- Raise a map entry to a value. -/
def raiseMap (m : Tab Nat) (u v : Nat) : Tab Nat := if tgetD m u 0 < v then tset m u v else m

/-- The nearest picture of a channel's pool to a position in output order, among those given; a tie goes to the earlier
(R232). -/
def nearest (s : State) (l : List Nat) (pos : Int) : Option Nat :=
  l.foldl (fun best n =>
    match best, s.buf n with
    | none, some _ => some n
    | some m, some b =>
      (match s.buf m with
       | some a =>
         let da := (a.order - pos).natAbs
         let db := (b.order - pos).natAbs
         if db < da || (db = da && b.order < a.order) then some n else some m
       | none => some n)
    | b, none => b) none

/-- Buffers of a pool that hold a picture: marked, pending, or returned and still claimed or pinned. -/
def pictures (s : State) (c : Nat) : List Nat :=
  (poolOf s c).filter fun n => match s.buf n with | some b => !b.planes.isEmpty && !bufFree s n | none => false

/-- The latest picture before a position in output order (R231 step 2). -/
def before (s : State) (l : List Nat) (pos : Int) : Option Nat :=
  nearest s (l.filter fun n => match s.buf n with | some b => decide (b.order < pos) | none => false) pos

/-- A plane set of one value: mid-grey (R231 step 4). -/
def greyPlanes (b : Blk) : List (List (List Nat)) :=
  let g := 2 ^ (b.depth - 1)
  let pl := fun (w h : Nat) => List.replicate h (List.replicate w g)
  pl b.width b.height :: (match b.chroma with
    | 1 => [pl b.width (cdiv b.height 2)]
    | 2 => [pl b.width b.height]
    | 3 => [pl b.width b.height, pl b.width b.height]
    | _ => [])

/-- A gleaned substitute for one missing picture (R232, R233). The `Nat` is the counter of the picture it came from. -/
def glean (s : State) (c : Nat) (b : Blk) (m : Missing) : Word × State :=
  let near := nearest s (pictures s c) m.order
  let src := near.bind s.buf
  let mark : Mark := if m.long then .long else .short
  let cnt := match src with | some x => x.hdr.counter | none => 0xFFFFFFFF
  let note := fun (u : State) (n : Nat) =>
    (u.cntch c B.decGleaned 0 16).modChan c fun y => { y with subs := tset y.subs m.id n }
  match (freeBufs s c).head? with
  | some n =>
    let planes := match src with
      | some x => if x.hdr.flags.testBit 3 then m.proj else x.planes
      | none => greyPlanes b
    let hdr := match src with | some x => { x.hdr with flags := 0 } | none => { blankHdr b with counter := 0xFFFFFFFF }
    (cnt, note (s.modBuf n fun z => { z.fresh with mark := mark, subst := true, order := m.order, planes := planes, hdr := hdr }) n)
  | none =>
    match near with
    | some n => (cnt, note (s.modBuf n fun z => { z with mark := if z.mark == .long then .long else mark }) n)
    | none => (0xFFFFFFFF, s)

/-- The reference marks after a picture's headers (R188); a substitute that the codec no longer marks is gone (R233). -/
def applyMarks (s : State) (c : Nat) (l : List (Nat × Bool)) : State :=
  let s1 := (poolOf s c).foldl
    (fun t n => t.modBuf n fun b =>
      { b with mark := match l.find? (·.1 == n) with | some p => if p.2 then .long else .short | none => .none }) s
  let s2 := s1.modChan c fun y =>
    { y with subs := tfilter y.subs fun _ n => match s1.buf n with | some b => b.mark != .none | none => false }
  s2

/-- The PTS and DTS of a picture in decode order (R194, R195): a PTS without a DTS gives both (log 32). -/
def stampPic (s : State) (c : Nat) (y : Chan) (p : DecPic) : DWord × DWord × Bool × State :=
  match p.pts with
  | none => (0, 0, false, s)
  | some v =>
    let n := if y.blk.codec = 6 then 32 else 33
    let (tp, d1) := extendTs y.blk n v p.disc y.pts
    let (td, d2) := match p.dts with | some w => extendTs y.blk n w p.disc y.dts | none => (tp, false)
    let s1 := s.modChan c fun z => { z with pts := some tp, dts := if p.dts.isSome then some td else z.dts }
    (tp.ext, td.ext, d1 || d2, if d1 || d2 then chanEvent s1 c 5 else s1)

/-- The stream's picture fits the channel (R197). -/
def picFits (b : Blk) (p : DecPic) : Bool :=
  decide (p.hdr.cw ≤ b.width) && decide (p.hdr.ch ≤ b.height) && decide (p.hdr.sdepth ≤ b.depth) &&
    p.hdr.chroma = b.chroma && p.profOk

/-- Fill the damaged areas and build the error-region map (R231, R234): planes, map, worst step, classes. -/
def conceal (s : State) (c : Nat) (y : Chan) (p : DecPic) (planes : List (List (List Nat))) :
    List (List (List Nat)) × Tab Nat × Nat × Nat :=
  let uw := cdiv p.hdr.cw 64
  let mv := match p.refs.head?.bind s.buf with | some b => b.hdr.flags.testBit 3 | none => false
  let prev := before s ((pictures s c).filter fun n => !p.excluded.contains n) p.order
  let old := match prev.bind s.buf with | some b => b.planes | none => []
  let m0 := p.substUnits.foldl (fun m u => raiseMap m u 1) []
  p.damage.foldl
    (fun (a : List (List (List Nat)) × Tab Nat × Nat × Nat) d =>
      let rows := fun q => decodedRows p.damage (chromaRows y.blk.chroma q) ((planes.getD q []).length) d
      let st := concStep (p.hdr.ptype ≠ 0) mv prev.isSome ((rows 0).1.isSome || (rows 0).2.isSome) d
      let pl := match st with
        | 2 => mapArea a.1 y.blk.chroma d fun q r col _ => sampleAt old q r col
        | 3 => mapArea a.1 y.blk.chroma d fun q r col _ => spatialSample planes (rows q) q r col
        | 4 => mapArea a.1 y.blk.chroma d fun _ _ _ _ => 2 ^ (y.blk.depth - 1)
        | _ => a.1
      (pl, (unitsOf d uw).foldl (fun m u => raiseMap m u (stepMap st)) a.2.1, Nat.max a.2.2.1 st, a.2.2.2 ||| d.classes))
    (planes, m0, 0, 0)

/-- The header DEC.PIC writes (R207, R211, R214, R234). -/
def decHdr (b : Blk) (nv : Bool) (p : DecPic) (pts dts : DWord) (map : Tab Nat) (worst classes : Nat) (gsrc : Word)
    (taint : Bool) : Hdr :=
  let ud := packUser p.user 0x400
  let conc := map.length ≠ 0 || !p.missing.isEmpty
  let shift := decide (p.hdr.sdepth < b.depth)
  { p.hdr with
    ts := p.pts.isSome, pts := pts, dts := dts,
    flags := b2n conc + b2n (!p.missing.isEmpty) * 2 + b2n (p.hdr.grainBits ≠ 0) * 4 + b2n (!nv) * 8 + b2n shift * 16 +
      b2n ud.2 * 32,
    user := ud.1, concUnits := map.length, classes := classes, worst := worst, gleanSrc := gsrc, mflags := b2n taint,
    map := map }

/-- Pictures that are to leave no output do not (R200): NO_PRIOR clears the marks of the channel's buffers. -/
def dropPrior (s : State) (c : Nat) (on : Bool) : State :=
  if on then (poolOf s c).foldl (fun t m => t.modBuf m fun b => { b with outp := false }) s else s

/-- The missing references of a picture are made up one by one (R232, R233); with the state, the source of the first. -/
def gleanAll (c : Nat) (blk : Blk) (l : List Missing) (s : State) : Option Word × State :=
  l.foldl
    (fun (a : Option Word × State) m =>
      match tget (match a.2.chan c with | some z => z.subs | none => []) m.id with
      | some n => (some (a.1.getD (match a.2.buf n with | some x => x.hdr.counter | none => 0xFFFFFFFF)), a.2)
      | none => let r := glean a.2 c blk m; (some (a.1.getD r.1), r.2)) (none, s)

/-- The error classes of a picture (R235): what concealment found, and what the report tells besides. -/
def decClasses (y : Chan) (p : DecPic) (cl : Nat) : Nat :=
  cl ||| (if p.missing.isEmpty then 0 else 16) ||| (if p.above then 128 else 0) |||
    (if y.ceil && !p.damage.isEmpty then 32 else 0) ||| (if p.window.isSome then 64 else 0)

/-- Decode a picture into the free buffer `n`. -/
def decodeInto (c n : Nat) (t0 : DWord) (nv : Bool) (y : Chan) (s : State) (p : DecPic) : State :=
  let s3 := (applyMarks (dropPrior (fifoEat s (fin_ c) p.used) c p.noPrior) c p.marks).modBuf n fun b => { b.fresh with mark := .short }
  let g := gleanAll c y.blk p.missing s3
  let st := stampPic g.2 c y p
  let s5 := st.2.2.2
  let up := 2 ^ (y.blk.depth - p.hdr.sdepth)
  let k := conceal s5 c y p ((reconstruct y.blk.codec p.planes p.blocks).map fun pl => pl.map fun r => r.map (· * up))
  let taint := p.refs.any fun m => match s5.buf m with
    | some b => b.hdr.flags % 4 ≠ 0 || b.hdr.mflags ≠ 0 || b.subst
    | none => false
  let hdr := decHdr y.blk nv p st.1 st.2.1 k.2.1 k.2.2.1 (decClasses y p k.2.2.2) (g.1.getD 0xFFFFFFFF) taint
  let s6 := s5.modBuf n fun b =>
    { b with mark := if p.mark = 1 then .short else if p.mark = 2 then .long else .none,
             outp := p.shown, order := p.order, t0 := t0, hdr := { hdr with disc := st.2.2.1 }, planes := k.1, motion := p.motion }
  let s7 := s6.modChan c fun z => { z with ceil := false }
  let f := match s7.chan c with | some z => z.home | none => 0
  let s8 := s7.addq2 (A.fld f + 0x10) 1
  match p.window with
  | some (e, a) => s8.raise { src := 11, hold := some y.hold, chan := some c, info0 := a, info1 := e }
  | none => s8

/-- A picture that shows the buffer `n` again. -/
def decodeShow (c n : Nat) (t0 : DWord) (y : Chan) (s : State) (p : DecPic) : State :=
  let st := stampPic (fifoEat s (fin_ c) p.used) c y p
  st.2.2.2.modBuf n fun b =>
    { b with outp := true, order := p.order, t0 := t0,
             hdr := { b.hdr with pts := st.1, dts := st.2.1, ts := p.pts.isSome, disc := st.2.2.1 } }

/-- Decode one picture of the report (R185, R188, R199): its state after, and a code: 0 decoded or shown, 1 no free
buffer, 2 a format mismatch. -/
def decodeOne (c : Nat) (nv : Bool) (s : State) (p : DecPic) : State × Nat :=
  match s.chan c with
  | none => (s, 0)
  | some y =>
    let t0 := match (s.fifo (fin_ c)).items.find? (fun i => !i.gap) with | some i => i.time | none => s.tim.dtb
    match p.show_ with
    | some n => (decodeShow c n t0 y s p, 0)
    | none =>
      if !picFits y.blk p then (fifoEat s (fin_ c) p.used, 2)
      else
        match (freeBufs s c).head? with
        | none => (s, 1)
        | some n => (decodeInto c n t0 nv y s p, 0)

/-- Decode the report's pictures in order, up to one that cannot be begun or does not fit. -/
def decodeAll (c : Nat) (nv : Bool) : List DecPic → State → State × Nat
  | [], s => (s, 0)
  | p :: rest, s => match decodeOne c nv s p with | (s1, 0) => decodeAll c nv rest s1 | r => r

/-! The end of a DEC.PIC. -/

/-- Buffer `a` is from now on buffer `b` wherever work or a channel names it: the placeholder of a picture in decode gives
way to the picture returned. -/
def remapBuf (s : State) (a b : Nat) : State :=
  let re := fun (n : Nat) => if n = a then b else n
  let kind := fun (k : WorkKind) => match k with
    | .encPic c x r => .encPic c (re x) r
    | .encLadder g x r => .encLadder g (re x) r
    | .analyze c x => .analyze c (re x)
    | .scale d x u v w h r => .scale (re d) (re x) u v w h r
    | .convert d x r => .convert (re d) (re x) r
    | .pack p ad st i bf pr => .pack (re p) ad st i bf pr
    | k => k
  let pic := fun (p : LkPic) => { p with src := p.src.map re }
  { s with
    job := { s.job with
      work := tmap s.job.work fun _ w => { w with uses := w.uses.map re, kind := kind w.kind },
      obj := tmap s.job.obj fun k o => if k / 0x100000 = 2 then { o with ref := re o.ref } else o },
    vid := { s.vid with
      chan := tmap s.vid.chan fun _ y => { y with look := y.look.map pic, cur := y.cur.map fun u => { u with pic := pic u.pic } },
      grp := tmap s.vid.grp fun _ g =>
        { g with look := g.look.map pic, coding := g.coding.map fun u => { u with pic := pic u.pic } } } }

/-- The next picture in output order (R200). -/
def nextOut (s : State) (c : Nat) : Option Nat :=
  ((poolOf s c).filter fun n => match s.buf n with | some b => b.outp | none => false).foldl
    (fun best n =>
      match best, s.buf n with
      | some m, some b => (match s.buf m with | some a => if b.order < a.order then some n else some m | none => some n)
      | none, _ => some n
      | b, none => b) none

/-- Bits 16 and up of DEC.PIC's status word for a returned picture (R114). -/
def decBits (b : Buf) : Nat := b.hdr.flags % 4 + b.hdr.ptype % 4 * 16 + b.hdr.counter.toNat * 2 ^ 16

/-- The status code of a returned picture (R229, R234). -/
def decCode (b : Buf) : Nat :=
  if b.hdr.flags.testBit 0 then St.concealed else if b.hdr.classes.testBit 7 then St.level else St.ok

/-- DEC.PIC ends without a picture: its handle names an empty picture (R226). -/
def decNone (s : State) (n p code : Nat) : State :=
  endWork (s.modBuf (slotBuf s p) fun b => { b with rows := false }) n (statusWord code 0)

/-- The counters and times of a returned picture (R192, R194): a picture without a timestamp takes its own from its
counter. A transcode pair counts on its encode side. -/
def stampOut (y : Chan) (b : Buf) : Buf :=
  let h := { b.hdr with counter := y.counter }
  let v := w64 (framesTicks y.blk y.counter.toNat)
  { b with outp := false, hdr := if b.hdr.ts then h else { h with pts := v, dts := v } }

/-- DEC.PIC returns buffer `m` (R114, R192, R200, R207, R236, R449): its header is completed, the decode error registers
are brought up to date, then the status word is written. -/
def decReturn (s : State) (c n p m : Nat) (bits : List Nat) : State :=
  match s.chan c, s.buf m with
  | some y, some b =>
    let b1 := stampOut y b
    let hold := slotBuf s p
    let claims := match s.buf hold with | some e => e.handles | none => 0
    let s1 := remapBuf s hold m
    let s2 := s1.setVid { s1.vid with
      buf := tset (tdel s1.vid.buf hold) m { b1 with handles := b1.handles + claims, rows := false } }
    let s3 := s2.modChan c fun z =>
      { z with counter := if y.blk.dir = 2 then z.counter else z.counter + 1, last := some (b1.hdr, b1.planes) }
    let s4 := if b1.hdr.flags.testBit 0 then
        ((s3.cntch c B.decConcealed 0 31).wch c B.decLast (w32 (b1.hdr.classes % 256 + b1.hdr.worst * 256))).wch c
          B.decLastPic b1.hdr.counter
      else s3
    let s5 := setStats s4 c 1 b1 0 [(0, [secMotion1 b1]), (1, [secCplxDec b1 bits]), (3, [secHist (windowLuma b1) y.blk.depth])]
    endWork (latency s5 c b.t0) n (statusWord (decCode b1) (decBits b1))
  | _, _ => s

/-- The bytes a report takes are there. -/
def decInOk (s : State) (c : Nat) (r : DecIn) : Bool :=
  decide (r.pics.foldl (fun n p => n + p.used) r.used ≤ fifoAvail (s.fifo (fin_ c)))

/-- What every report brings besides its pictures. -/
def decExtras (s : State) (c : Nat) (r : DecIn) : State :=
  let f := match s.chan c with | some y => y.home | none => 0
  let s1 := addWaits (fifoEat (s.addq2 (A.fld f + 0x18) r.bins) (fin_ c) r.used) c r.waits
  s1.addch c B.decGleaned 16 14 r.late

/-- The bits of the report's picture that is now returned. -/
def decBitsOf (s : State) (m : Nat) (r : DecIn) : List Nat :=
  match s.buf m with
  | some b => (match r.pics.find? fun p => p.order == b.order with | some p => p.bits | none => [])
  | none => []

/-- DEC_PIC_COMPLETE (R175, R185, R199, R200, R229): the pictures reported are decoded, and the next in output order is
returned. Without a free buffer DEC.PIC ends with RESOURCE_POOL, at a format mismatch with STREAM_FORMAT; on a channel
that has FAILED its output is discarded. -/
def execDecPicComplete (n : Nat) (r : DecIn) (s : State) : Res :=
  match decWork s n with
  | none => .next s
  | some (_, c, p, _, nv) =>
    match s.chan c with
    | none => .next s
    | some y =>
      if y.st == .failed then done s (decNone s n p St.unrecoverable)
      else if !decInOk s c r then .next s
      else
        let (s1, code) := decodeAll c nv r.pics s
        if code = 1 then done s (decNone (poolShort s1 c) n p St.pool)
        else if code = 2 then done s (decNone (decExtras s1 c r) n p St.format)
        else
          let s2 := decExtras s1 c r
          match nextOut s2 c with
          | some m => done s (homeMove (decReturn s2 c n p m (decBitsOf s2 m r)) c)
          | none => .next s

/-- DECODE_CEILING_REACHED (R220, R221): `cyc` cycles have been charged to the picture in decode. What is not
reconstructed comes with the picture's report as damage, and CEILING is recorded. -/
def execDecodeCeilingReached (n cyc : Nat) (s : State) : Res :=
  match decWork s n with
  | none => .next s
  | some (_, c, _, _, _) =>
    match s.chan c with
    | some y => .next (if cycleCeiling y.blk ≤ cyc then s.setChan c { y with ceil := true } else s)
    | none => .next s

/-- A repeated picture for a source that brings no data (R225): a copy of the last picture returned, or mid-grey, one
picture period later. -/
def repeatPic (s : State) (y : Chan) (m : Nat) : State :=
  let (hdr, planes) := match y.last with
    | some l => l
    | none => (blankHdr y.blk, greyPlanes y.blk)
  let units := cdiv hdr.cw 64 * cdiv hdr.ch 64
  let st := if y.last.isSome then 2 else 4
  let h : Hdr :=
    { hdr with pts := hdr.pts + w64 (framesTicks y.blk 1), dts := hdr.dts + w64 (framesTicks y.blk 1), flags := 1,
               concUnits := units, classes := 4, worst := st, gleanSrc := 0xFFFFFFFF, mflags := 0,
               map := (List.range units).map fun u => (u, stepMap st) }
  s.modBuf m fun b => { b.fresh with outp := true, order := 0, t0 := s.tim.dtb, hdr := h, planes := planes }

/-- DECODE_DEADLINE_EXPIRY (R225): no data came by the deadline. `r` reports the picture that has begun, if one has, its
data taken as ended; else a pending picture is returned, or a repeat, or none. -/
def execDecodeDeadlineExpiry (n : Nat) (r : DecIn) (s : State) : Res :=
  match decWork s n with
  | none => .next s
  | some (_, c, p, _, nv) =>
    match s.chan c with
    | none => .next s
    | some y =>
      if y.st == .failed then done s (decNone s n p St.unrecoverable)
      else if !decInOk s c r then .next s
      else
        let late := r.pics.map fun q =>
          { q with damage := if q.damage.isEmpty then [] else q.damage.map fun d => { d with classes := d.classes ||| 4 } }
        let (s1, code) := decodeAll c nv late s
        if code = 1 then done s (decNone (poolShort s1 c) n p St.pool)
        else if code = 2 then done s (decNone (decExtras s1 c r) n p St.format)
        else
          let s2 := decExtras s1 c r
          match nextOut s2 c with
          | some m => done s (homeMove (decReturn s2 c n p m (decBitsOf s2 m r)) c)
          | none =>
            if !r.pics.isEmpty then .next s2
            else if fld (s.rch c B.decCtrl) 16 2 = 1 then
              match (freeBufs s2 c).head? with
              | some m => done s (homeMove (decReturn (repeatPic s2 y m) c n p m []) c)
              | none => done s (decNone (poolShort s2 c) n p St.pool)
            else done s (decNone s2 n p St.noData)

/-- A job with work on the channel holds its grant on a span Field. -/
def spanGranted (s : State) (c f : Nat) : Bool :=
  s.job.work.any fun p => workOn p.2 c && s.yoke.grants.any fun g => g.key == spanKey p.2.ctx f

/-- SPAN_GRANT_TIMEOUT (R205, R257): a span Field that has had no grant for 100 µs is left out of the picture. -/
def execSpanGrantTimeout (c f : Nat) (s : State) : Res :=
  match s.chan c with
  | some y =>
    if ((spanFields s y.home y.blk.span).drop 1).contains f && !(spanGranted s c f) then
      .next (s.setChan c { y with left := insNat y.left f })
    else .next s
  | none => .next s

end Sys2Proof.Machine
end

