-- ==== Sys2Proof/Machine/RateMath.lean ====
section
/-! DEFINITION. The real arithmetic of the rate controller (R259 to R263, R269): comparisons of powers are exact; the two
quantities the device must keep, a cost c^α and a model coefficient, are held with 16 and 32 fraction bits (DESIGN CHOICE,
log 9). -/

namespace Sys2Proof.Machine

/-- The integer square root, bit by bit. -/
def isqrtFrom (n : Nat) : Nat → Nat → Nat
  | 0, r => r
  | k + 1, r => let t := r + 2 ^ k; if t * t ≤ n then isqrtFrom n k t else isqrtFrom n k r

/-- ⌊√n⌋. -/
def isqrt (n : Nat) : Nat := isqrtFrom n (Nat.log2 n / 2 + 1) 0

/-- ⌊2^16 × c^(a/16)⌋ (R261). -/
def powA (c a : Nat) : Nat := isqrt (isqrt (isqrt (isqrt (c ^ a * 2 ^ 256))))

/-- 2^32 × 2^(2^−j), j from 1 to 32, rounded down. -/
def exp2Tab : List Nat :=
  [6074000999, 5107605667, 4683695047, 4485121743, 4389014833, 4341736423, 4318288543, 4306612133,
   4300785773, 4297875550, 4296421177, 4295694174, 4295330720, 4295149004, 4295058149, 4295012722] ++
  [4294990009, 4294978652, 4294972974, 4294970135, 4294968715, 4294968005, 4294967650, 4294967473,
   4294967384, 4294967340, 4294967318, 4294967307, 4294967301, 4294967298, 4294967297, 4294967296]

/-- 2^32 × 2^f for a fraction f given in 2^−32. -/
def exp2Frac (f : Nat) : Nat :=
  exp2Tab.zipIdx.foldl (fun v p => if f.testBit (31 - p.2) then v * p.1 / 2 ^ 32 else v) (2 ^ 32)

/-- 2^32 × 2^(p/d). -/
def exp2 (p d : Nat) : Nat := if d = 0 then 2 ^ 32 else 2 ^ (p / d) * exp2Frac (p % d * 2 ^ 32 / d)

/-- round((k/d) × log2(p/r)) for p ≥ r, at most `fuel`: the largest n with (p/r)^(2k) ≥ 2^(d(2n − 1)). -/
def roundLogUp (k d p r : Nat) : Nat → Nat
  | 0 => 0
  | n + 1 => if r ^ (2 * k) * 2 ^ (d * (2 * n + 1)) ≤ p ^ (2 * k) then n + 1 else roundLogUp k d p r n

/-- round((k/d) × log2(p/r)), halves away from zero, held within ±lim; 0 for a ratio of 0. -/
def roundLog (k d p r lim : Nat) : Int :=
  if p = 0 || r = 0 then 0
  else if r ≤ p then roundLogUp k d p r lim
  else -(roundLogUp k d r p lim : Int)

/-! Quantisers (R259). -/

/-- The non-linear quantiser_scale table of MPEG-2, by quantiser_scale_code (PRESUMED, log 9). -/
def mpeg2Scale : List Nat :=
  [0, 1, 2, 3, 4, 5, 6, 7, 8, 10, 12, 14, 16, 18, 20, 22] ++
  [24, 28, 32, 36, 40, 44, 48, 52, 56, 64, 72, 80, 88, 96, 104, 112]

/-- The codec's quantisers from the lowest up, with their step sizes, where these are not steps of q. -/
def qTable (b : Blk) : List (Nat × Nat) :=
  if b.codec = 0 then (mpeg2Scale.drop 1).map fun v => (v, v)
  else if b.codec = 4 then (List.range 256).map fun i => (i, Config.av1Step b.depth i)
  else []

/-- The codec quantiser of a step index: the one whose step size is nearest 2^(q/6) times the lowest one's; a tie goes
up. -/
def qUnit (b : Blk) (q : Nat) : Nat :=
  match qTable b with
  | [] => q
  | (u0, s0) :: rest =>
    (rest.foldl (fun (a : Nat × Nat) p =>
      if (a.2 + p.2) ^ 6 ≤ (2 * s0) ^ 6 * 2 ^ q then p else a) (u0, s0)).1

/-- The step index of a codec quantiser: the nearest to 6 × log2 of its step size over the lowest one's (DEDUCED,
log 9). -/
def qStep (b : Blk) (u : Nat) : Nat :=
  match qTable b with
  | [] => u
  | (_, s0) :: rest =>
    let s := rest.foldl (fun a p => if p.1 ≤ u then p.2 else a) s0
    (roundLog 6 1 s s0 96).toNat

/-- The largest step index of a codec. -/
def qTop (b : Blk) : Nat := qStep b (qpHi b)

/-- The least q in [lo, lo + fuel] with a × c ≤ t × 2^(q/6), a in 2^−32: the planned index of R263. -/
def qPlanFrom (a c t : Nat) : Nat → Nat → Nat
  | lo, 0 => lo
  | lo, n + 1 => if (a * c) ^ 6 ≤ (t * 2 ^ 32) ^ 6 * 2 ^ lo then lo else qPlanFrom a c t (lo + 1) n

/-- ⌊a × c / 2^(q/6)⌋ (R263). -/
def predBits (a c q : Nat) : Nat := a * c / exp2 q 6

/-- The coefficient after a picture: (3a + bits × 2^(q_avg/6) / c) / 4, with q_avg = qs / n (R263); the first picture sets
it. -/
def coefNext (a : Option Nat) (bits c qs n : Nat) : Option Nat :=
  if c = 0 then a
  else
    let x := bits * exp2 qs (6 * n) / c
    match a with
    | some v => some ((3 * v + x) / 4)
    | none => some x

/-! Complexities (R244, R261). -/

/-- Blocks of 16 in a dimension. -/
def blk16 (n : Nat) : Nat := cdiv n 16

/-- The complexity of block `i`: the intra SATD for an intra picture, else the smaller one. -/
def preBlock (p : PreIn) (intra : Bool) (i : Nat) : Nat :=
  let a := p.intra.getD i 0
  if intra then a else match p.inter[i]? with | some b => Nat.min a b | none => a

/-- c of a picture. -/
def preCplx (p : PreIn) (intra : Bool) : Nat :=
  (List.range p.intra.length).foldl (fun n i => n + preBlock p intra i) 0

/-- The complexity of each of `rows` rows of `size` lines of a picture of height `h`, from the search of a picture of
width `w0` and height `h0`: a block belongs to the row its centre falls in (DEDUCED for a rung, log 9). -/
def rowCplx (p : PreIn) (intra : Bool) (w0 h0 h rows size : Nat) : List Nat :=
  let cols := blk16 w0
  let sums := (List.range (blk16 h0)).map fun j =>
    ((16 * j + 8) * h / h0 / size, (List.range cols).foldl (fun n i => n + preBlock p intra (j * cols + i)) 0)
  (List.range rows).map fun r =>
    sums.foldl (fun n q => if Nat.min q.1 (rows - 1) = r then n + q.2 else n) 0

/-- k of R261 in hundredths, by picture type and B depth. -/
def costK (ptype depth : Nat) : Nat := if ptype = 2 then (if depth ≤ 1 then 60 else if depth = 2 then 45 else 35) else 100

/-- e = k × c^α, in hundredths × 2^−16. -/
def cost (c ptype depth alpha : Nat) : Nat := costK ptype depth * powA c alpha

/-- SCORE of the scene-change section (R311). -/
def score (p : PreIn) (w h : Nat) : Nat :=
  let total := cdiv w 32 * cdiv h 32
  if total = 0 then 0 else Nat.min 65535 (65536 * p.cuts / total)

end Sys2Proof.Machine
end

