-- ==== Sys2Proof/Machine/RateControl.lean ====
section
/-! DEFINITION. The rate controller (12): the budget of a picture, its bands, what follows each row, and the end of a
picture; and the rate model of PV16 holdings (R280 to R283). -/

namespace Sys2Proof.Machine

/-- The channel belongs to a PV16 holding and is coded under R280 to R283. -/
def pvRate (s : State) (y : Chan) : Bool := !s.native y.hold

/-- The mode in force (R258, R277): a multiplex member outside a group, or with no assigned rate yet, is coded in CBR. -/
def rcKind (y : Chan) : Nat :=
  if y.blk.rcMode = 5 then (if y.mux.isSome && y.rc.muxRate.isSome then 3 else 4) else y.blk.rcMode

/-- The rate the controller budgets at, in kbit/s (R262, R278). -/
def rcRate (y : Chan) : Nat := if y.blk.rcMode = 5 && y.mux.isSome then y.rc.muxRate.getD y.blk.bitrate else y.blk.bitrate

/-- A buffer model runs (R265). -/
def hasCpb (y : Chan) : Bool := rcKind y = 3 || rcKind y = 4 || (rcKind y = 1 && y.blk.maxrate ≠ 0)

/-- The fill rate in kbit/s of the present parameters (R265). -/
def fillRate (y : Chan) : Nat := if rcKind y = 4 then y.blk.bitrate else y.blk.maxrate

/-- The size of the buffer in bits (R265, R521). -/
def cpbBits (b : Blk) : Nat := (if b.bufsize = 0 then maxCpb b else b.bufsize) * 1000

/-- b̄ × RATE_NUM: the bits of a picture period at a rate (R262). -/
def barNum (b : Blk) (rate : Nat) : Nat := rate * 1000 * b.den

/-- Lines of a row: a CTU row, or a macroblock row of the PV16 model. -/
def rowLines (pv : Bool) : Nat := if pv then 16 else 64

/-- Rows of a picture. -/
def rowCount (b : Blk) (pv : Bool) : Nat := cdiv b.height (rowLines pv)
/-- Units of a row. -/
def rowUnits (b : Blk) (pv : Bool) : Nat := cdiv b.width (rowLines pv)

/-- Stubble bits of one CTU (R270); of one macroblock under the PV16 model (R283). -/
def stubUnit (pv : Bool) (ptype : Nat) : Nat := if pv then 128 else if ptype = 0 then 256 else 48

/-- Raw bits of a unit of a row in the channel's format. -/
def rawUnit (b : Blk) (pv : Bool) : Nat :=
  let n := rowLines pv * rowLines pv * b.depth
  match b.chroma with | 0 => n | 1 => n * 3 / 2 | 2 => n * 2 | _ => n * 3

/-- The stubble bits of a picture (R262, R270). -/
def picStub (b : Blk) (pv : Bool) (ptype : Nat) : Nat := rowCount b pv * rowUnits b pv * stubUnit pv ptype

/-- CPB fullness before the removal, × RATE_NUM: at first INIT_DELAY / 16 of its size (R265). -/
def cpbNow (y : Chan) : Int :=
  match y.rc.cpb with
  | some v => v
  | none => (y.par_ 0x10B * cpbBits y.blk * y.blk.num / 16 : Nat)

/-- Δ × RATE_NUM × CONVERGE for a window of `n` pictures, clamped to ± n × b̄ / 2 (R262). -/
def rcDelta (y : Chan) (n bar : Nat) : Int :=
  let cv := y.par_ 0x10A
  let d : Int :=
    if rcKind y = 4 then
      (cpbNow y - (y.par_ 0x10B * cpbBits y.blk * y.blk.num / 16 : Nat)) * n
    else ((bar * y.rc.pics : Nat) - (y.rc.bits * y.blk.num : Nat) : Int) * n
  let m : Int := (n * bar * cv / 2 : Nat)
  if d < -m then -m else if m < d then m else d

/-- The lookahead allocation B_W × e_0 / Σ e_j of R262, in whole bits. -/
def rcShare (y : Chan) (bar e0 : Nat) (behind : List Nat) : Nat :=
  let n0 := behind.length + 1
  let n := Nat.max n0 8
  let eV := y.rc.eP.getD e0
  let sum := behind.foldl (· + ·) e0 + (n - n0) * eV
  let cv := y.par_ 0x10A
  let bw : Int := (n * bar * cv : Nat) + rcDelta y n bar
  if sum = 0 then 0 else bw.toNat * e0 / (y.blk.num * cv * sum)

/-- The HRD bound in bits: the fullness just before the removal (R265). -/
def hrdBound (y : Chan) : Nat := (cpbNow y).toNat / y.blk.num

/-- T and L of a picture (R258, R262, R275). `pred` is the prediction at the planned index in CQ (DEDUCED, log 33). -/
def rcBudget (y : Chan) (ptype e0 : Nat) (behind : List Nat) (pred : Option Nat) : Option Nat × Nat :=
  let b := y.blk
  let lv := lvlBits b
  let bar := barNum b (rcRate y)
  let l := if hasCpb y then Nat.min lv (hrdBound y) else lv
  let top := (l - picStub b false ptype) * 15 / 16
  let share := Nat.max (rcShare y bar e0 behind) (cdiv bar (8 * b.num))
  match rcKind y with
  | 0 => (none, lv)
  | 1 => if b.maxrate = 0 then (none, lv) else (some (Nat.min (pred.getD top) top), l)
  | 2 => let t := Nat.min share lv; (some t, Nat.min lv (t * y.par_ 0x10C / 16))
  | _ => (some (Nat.min share top), l)

/-- QP_MIN and QP_MAX as step indices. -/
def rcQmin (y : Chan) : Nat := qStep y.blk (y.par_ 0x22)
/-- See `rcQmin`. -/
def rcQmax (y : Chan) : Nat := qStep y.blk (y.par_ 0x23)

/-- A number held in a range. -/
def clampN (lo hi v : Nat) : Nat := Nat.min hi (Nat.max lo v)

/-- q_plan of CQ (R263). -/
def cqPlan (y : Chan) (c depth : Nat) : Nat :=
  let sum := y.rc.hist.foldl (· + ·) 0
  let d := roundLog (6 * (16 - y.par_ 0x109)) 16 (c * y.rc.hist.length) sum 96
  ((qStep y.blk (y.par_ 0x108) + depth : Nat) + d : Int).toNat

/-- q_plan (R263). -/
def rcPlan (y : Chan) (ptype depth c : Nat) (t : Option Nat) : Nat :=
  let lo := rcQmin y
  let hi := rcQmax y
  let q := match rcKind y with
    | 0 => qStep y.blk (y.par_ (0x105 + ptype))
    | 1 => cqPlan y c depth
    | _ => match tget y.rc.a ptype, t with
      | some a, some v => qPlanFrom a c v lo (hi - lo)
      | _, _ => qStep y.blk (y.par_ 0x110)
  clampN lo hi q

/-- Split `n` rows into `k` bands as equal as possible, the earlier ones longer (R256): first row and count. -/
def bandRows (n k : Nat) : List (Nat × Nat) :=
  (List.range k).map fun i => (i * (n / k) + Nat.min i (n % k), n / k + b2n (i < n % k))

/-- Sum of a slice of a list. -/
def sumFrom (l : List Nat) (a n : Nat) : Nat := ((l.drop a).take n).foldl (· + ·) 0

/-- A share of a figure in proportion to the complexity of the band's rows (R276); to their number where no row has
any. -/
def bandShare (v : Nat) (rowC : List Nat) (a n : Nat) : Nat :=
  let all := sumFrom rowC 0 rowC.length
  if all = 0 then v * n / rowC.length else v * sumFrom rowC a n / all

/-- The bands of a picture over a list of Fields (R256, R276). -/
def mkBands (b : Blk) (fields : List Nat) (rowC : List Nat) (t l q : Nat) (now : DWord) : List Band :=
  let k := Nat.min fields.length rowC.length
  if k = 1 then
    [{ field := fields.headD 0, first := 0, count := rowC.length, t := t, l := l, llvl := lvlBits b, q := q, tRow := now }]
  else (bandRows rowC.length k).zipIdx.map fun r =>
    { field := fields.getD r.2 0, first := r.1.1, count := r.1.2, t := bandShare t rowC r.1.1 r.1.2,
      l := bandShare l rowC r.1.1 r.1.2, llvl := bandShare (lvlBits b) rowC r.1.1 r.1.2, q := q, tRow := now }

/-- The Fields that code the channel's pictures now (R256, R257). -/
def encFields (s : State) (y : Chan) : List Nat :=
  (spanFields s y.home (Nat.min y.blk.span 4)).filter fun f => f = y.home || !y.left.contains f

/-! After each row (R268 to R274). -/

/-- The complexities of a band's rows; 1 each where they have none. -/
def bandC (u : Cur) (x : Band) : List Nat :=
  let l := (u.rowC.drop x.first).take x.count
  if l.all (· == 0) then l.map fun _ => 1 else l

/-- Bits of the rows a band has. -/
def bandBits (x : Band) : Nat := x.rows.foldl (fun n r => n + r.bits) 0

/-- Bits of a picture so far. -/
def Cur.bits (u : Cur) : Nat := u.bands.foldl (fun n x => n + bandBits x) 0

/-- The overrun after row `k` of a band with `sum` bits in its rows 0 to k, × 64 × C (R268): the last row's budget has the
part of the reserve not spent before it, `spare`. -/
def overX (x : Band) (cs : List Nat) (hl sum k spare : Nat) : Int :=
  let all := sumFrom cs 0 cs.length
  ((sum * 64 * all : Nat) : Int) - (x.t * (64 - hl) * sumFrom cs 0 (k + 1) : Nat) - (spare : Nat)

/-- The reserve not spent when the last row begins, × 64 × C. -/
def spareX (x : Band) (cs : List Nat) (hl k : Nat) : Nat :=
  if k + 1 = x.count then
    let all := sumFrom cs 0 cs.length
    let overBy := if k = 0 then 0 else overX x cs hl (bandBits x) (k - 1) 0
    ((x.t * hl * all : Nat) - overBy.toNat)
  else 0

/-- The first unit of the row from which stubble mode is forced by L_lvl (R274): before a unit, the bits so far, 1.5 times
the raw bits of a unit and the stubble bits of all after it exceed `lim`; `after` units follow the row. -/
def stubAt (lim stub raw after : Nat) : Nat → List Nat → Option Nat
  | _, [] => none
  | sum, b :: rest =>
    if 2 * lim < 2 * sum + 3 * raw + 2 * stub * (rest.length + after) then some (rest.length + 1)
    else stubAt lim stub raw after (sum + b) rest

/-- The condition of step 3: L − S_k < p_{k+1} + the stubble bits of the rows after it (R270, R271). -/
def runsShort (x : Band) (cs : List Nat) (qmax stubRow sum bits q k : Nat) : Bool :=
  if k + 1 < x.count then
    let room : Int := (x.l : Int) - sum - ((x.count - k - 2) * stubRow : Nat)
    let ck := cs.getD k 0
    let (n, d) := if ck = 0 then (1, 1) else (cs.getD (k + 1) 0, ck)
    if room < 0 then true
    else decide ((room.toNat * d) ^ 6 * 2 ^ (qmax - q) < (n * bits) ^ 6)
  else false

/-- Is there time for a retry (R271): elapsed time + t_k × (R − k) within the time budget, TIME_PCT % of a picture
period. -/
def retryTime (y : Chan) (now start tRow : DWord) (left : Nat) : Bool :=
  let ns := (now - start).toNat + (now - tRow).toNat * left
  decide (ns * 100 * y.blk.num ≤ y.par_ 0x102 * y.blk.den * 1000000000)

/-- What rate control decides after a row of a band (R268 to R275): the band with the row kept, or none and the band whose
row is coded again. `cut` says that R274 forced stubble in the row. -/
def afterRow (y : Chan) (u : Cur) (x : Band) (now : DWord) (r : RowIn) (cut : Bool) : Bool × Band :=
  let k := x.rows.length
  let bits := r.units.foldl (· + ·) 0
  let sum := bandBits x + bits
  let cs := bandC u x
  let all := sumFrom cs 0 cs.length
  let hl := y.par_ 0x100
  let stub := x.stubble || cut
  let row : RowRec :=
    { bits := bits, q := x.q, budget := 0, overBy := 0, step := 0, retried := x.retry, stubble := stub, units := r.units,
      motion := r.motion }
  match u.t with
  | none => (false, { x with rows := x.rows ++ [row], retry := false, stubble := stub, tRow := now })
  | some _ =>
    let sp := spareX x cs hl k
    let ov := overX x cs hl sum k sp
    let budget := (x.t * (64 - hl) * cs.getD k 0 + sp) / (64 * all)
    let ok := decide (ov ≤ (x.t * hl * all : Nat))
    let fb := roundLog 6 1 (sum * 64 * all) (x.t * (64 - hl) * sumFrom cs 0 (k + 1)) (y.par_ 0x103)
    let qf := clampN u.qmin u.qmax ((u.qplan : Int) + fb).toNat
    let q1 := if ok then (if x.ceil then Nat.max x.q qf else qf) else Nat.min u.qmax (x.q + y.par_ 0x104)
    let short := !ok && !stub && runsShort x cs u.qmax (rowUnits y.blk false * stubUnit false u.ptype) sum bits x.q k
    let again := short && x.q < u.qmax && x.retries < y.par_ 0x101 && retryTime y now u.start x.tRow (x.count - k)
    if again then
      (true, { x with q := u.qmax, ceil := true, retry := true, retries := x.retries + 1, tRow := now })
    else
      let step := if short then 4 else if ok then 1 else 2
      (false,
        { x with
          rows := x.rows ++ [{ row with budget := budget, overBy := ov / ((64 * all : Nat) : Int),
                                        step := if x.retry then Nat.max 3 step else step }],
          q := q1, ceil := x.ceil || !ok, retry := false, stubble := stub || short, tRow := now })

/-! The PV16 model (R280 to R283). -/

/-- The mini-GOP limit of the preset (R241). -/
def miniGop (b : Blk) : Nat := match b.preset with | 0 => 2 | 1 => 4 | _ => 8

/-- Weights of R281 × 14: W_t / K_t. -/
def pvW (rc : Rc) (t : Nat) : Nat := rc.w.getD t 0 * (if t = 2 then 10 else 14)

/-- The model at SOPEN, and at the first picture of each GOP (R280, R281, R282). -/
def pvOpenGop (y : Chan) (intra : Bool) : Rc :=
  let bar := barNum y.blk (rcRate y)
  let n := y.blk.num
  let rc := y.rc
  let r1 := if rc.w.isEmpty then
      { rc with w := [40 * bar / n, 15 * bar / n, 10 * bar / n],
                d := [20, 24, 28].map fun j => ((2 * bar * j / (64 * n) : Nat) : Int) }
    else rc
  if intra || r1.gopI + r1.gopP + r1.gopB = 0 then
    let g := Nat.max 1 y.blk.gop
    let m : Int := (g * bar / (4 * n) : Nat)
    let carry := if r1.pool < -m then -m else if m < r1.pool then m else r1.pool
    let mg := if y.blk.look = 0 || y.blk.live then 1 else Nat.min (miniGop y.blk) (y.blk.look + 1)
    let p := cdiv (g - 1) mg
    { r1 with pool := (g * bar / n : Nat) + carry, gopI := 1, gopP := p, gopB := g - 1 - p }
  else r1

/-- The target T of R281. -/
def pvTarget (y : Chan) (rc : Rc) (ptype : Nat) : Nat :=
  let n := fun t => let k := if t = 0 then rc.gopI else if t = 1 then rc.gopP else rc.gopB
                    if t = ptype then Nat.max 1 k else k
  let sum := n 0 * pvW rc 0 + n 1 * pvW rc 1 + n 2 * pvW rc 2
  let t := if sum = 0 then 0 else rc.pool.toNat * pvW rc ptype / sum
  Nat.max t (cdiv (barNum y.blk (rcRate y)) (8 * y.blk.num))

/-- j_k of R282, from the bits of the rows before it. -/
def pvIndex (y : Chan) (u : Cur) (k sum : Nat) : Nat :=
  let bar := barNum y.blk (rcRate y)
  let rm := rowCount y.blk true
  let d := y.rc.d.getD u.ptype 0
  let x : Int := (d + sum) * rm - (u.t.getD 0 * k : Nat)
  let j := if bar = 0 then 63 else 64 * x * y.blk.num / ((rm * 2 * bar : Nat) : Int)
  if j < 1 then 1 else if 63 < j then 63 else j.toNat

/-- The quantiser of an index in codec units (R282). -/
def pvUnit (b : Blk) (j : Nat) : Nat :=
  if b.codec = 0 then mpeg2Scale.getD (Nat.min 31 (cdiv j 2)) 112 else Nat.min 51 (10 + 2 * j / 3)

/-- The bits left below a bound are fewer than 128 for each macroblock still to come: rows from here on are stubble
(R283). -/
def pvShort (y : Chan) (x : Band) (k sum : Nat) : Bool :=
  let left := (x.count - k) * rowUnits y.blk true
  decide (x.l < sum + 128 * left) || decide (x.llvl < sum + 128 * left)

/-- The bands of a picture of the PV16 model before their first rows (R283). -/
def pvStart (y : Chan) (l : List Band) : List Band := l.map fun x => { x with stubble := pvShort y x 0 0 }

/-- After a macroblock row of the PV16 model. -/
def pvAfterRow (y : Chan) (u : Cur) (x : Band) (now : DWord) (r : RowIn) (cut : Bool) : Band :=
  let k := x.rows.length
  let bits := r.units.foldl (· + ·) 0
  let sum := bandBits x + bits
  let stub := x.stubble || cut
  { x with
    rows := x.rows ++ [{ bits := bits, q := x.q, budget := 0, overBy := 0, step := 0, retried := false, stubble := stub,
                         units := r.units, motion := r.motion }],
    q := pvIndex y u (k + 1) sum, stubble := stub || (k + 1 < x.count && pvShort y x (k + 1) sum), tRow := now }

/-- The model after a picture (R280 to R282). -/
def pvEnd (rc : Rc) (ptype t bits jsum rows : Nat) : Rc :=
  let javg := if rows = 0 then 0 else jsum / rows
  { rc with
    w := rc.w.zipIdx.map fun p => if p.2 = ptype then (3 * p.1 + bits * javg) / 4 else p.1,
    d := rc.d.zipIdx.map fun p => if p.2 = ptype then p.1 + bits - t else p.1,
    pool := rc.pool - bits,
    gopI := if ptype = 0 then rc.gopI - 1 else rc.gopI,
    gopP := if ptype = 1 then rc.gopP - 1 else rc.gopP,
    gopB := if ptype = 2 then rc.gopB - 1 else rc.gopB }

/-! The buffer model at a picture's end (R265, R266). -/

/-- Excess over the buffer before the next removal, × RATE_NUM. -/
def cpbExcess (y : Chan) (u : Cur) (bits : Nat) : Int :=
  u.cpb - (bits * y.blk.num : Nat) + (barNum y.blk y.rc.fill : Nat) - (cpbBits y.blk * y.blk.num : Nat)

/-- Stuffing bytes of a picture (R266). -/
def stuffBytes (y : Chan) (u : Cur) (bits : Nat) : Nat :=
  if rcKind y = 4 && u.filler && hasCpb y then
    let e := cpbExcess y u bits
    if e ≤ 0 then 0 else cdiv e.toNat (8 * y.blk.num)
  else 0

/-- The fullness before the next removal (R265): arrival pauses at a full buffer. -/
def cpbNext (y : Chan) (u : Cur) (bits : Nat) : Option Int :=
  if hasCpb y then
    let e := cpbExcess y u bits
    let top : Int := (cpbBits y.blk * y.blk.num : Nat)
    some (if 0 < e then top else top + e)
  else y.rc.cpb

end Sys2Proof.Machine
end

