-- ==== Sys2Proof/Machine/EncodeOps.lean ====
section
/-! DEFINITION. What ENC.PIC and ENC.LADDER share (R238 to R257, R261 to R276): how a source picture enters, how a picture
begins, how a row is placed and committed, and how a picture ends. What the engines find and code is in the reports of the
commands (log 8). -/

namespace Sys2Proof.Machine

/-! Sources (R226, R239, R240, R244, R298). -/

/-- The decode channel that still produces a picture. -/
def producer (s : State) (n : Nat) : Option Chan :=
  s.job.work.findSome? fun p => match p.2.kind with
    | .decPic c pic _ _ => if (pic.map fun q => slotBuf s q) = some n then s.chan c else none
    | _ => none

/-- The chroma format of a source (R239): that of its channel while it is still being decoded. -/
def srcChroma (s : State) (n : Nat) (b : Buf) : Nat :=
  if b.rows then (match producer s n with | some y => y.blk.chroma | none => b.hdr.chroma) else b.hdr.chroma

/-- A handle's object can be the source of an encode: a picture, or a plain buffer with a format (R298). -/
def srcOk (b : Buf) : Bool := b.pic || b.formatted

/-- The luma of a source's display window, and MEAN of R311: unsigned 8.8 on an 8-bit scale, rounded down (log 34). -/
def meanLuma (l : List Nat) (depth : Nat) : Nat :=
  if l.isEmpty then 0 else l.foldl (· + ·) 0 * 256 / (l.length * 2 ^ (depth - 8))

/-- FADE of R311: the mean has moved by 4.0 or more in the same direction over each of the last three pictures. -/
def isFade (mean : Nat) (l : List Nat) : Bool :=
  match l with
  | a :: b :: c :: _ =>
    decide (a + 1024 ≤ mean && b + 1024 ≤ a && c + 1024 ≤ b) || decide (mean + 1024 ≤ a && a + 1024 ≤ b && b + 1024 ≤ c)
  | _ => false

/-- A source picture that is there is searched (R244, R246): its header, luma and results. -/
def takeSource (s : State) (y : Chan) (means : List Nat) (anal : Option (Nat × PreIn)) (p : LkPic) (q : PreIn) : LkPic :=
  match p.src.bind s.buf with
  | none => p
  | some b =>
    let pre := match anal with | some (n, r) => if p.src = some n then r else q | none => q
    let luma := windowLuma b
    let m := meanLuma luma b.depth
    let v := w64 (framesTicks y.blk p.counter.toNat)
    let h := if b.hdr.ts then b.hdr else { b.hdr with pts := v, dts := v }
    { p with hdr := h, depth := b.depth, luma := luma, pre := some pre, mean := m,
             fade := score pre y.blk.width y.blk.height < 49152 && isFade m means,
             resized := b.hdr.ww ≠ y.blk.width || b.hdr.wh ≠ y.blk.height }

/-- The source is complete, or its rows may be read as they come and none is copied (R189). -/
def sourceHere (s : State) (look : Nat) (p : LkPic) : Bool :=
  match p.src.bind s.buf with
  | some b => (!b.empty && !b.rows) || (b.empty && b.rows && look = 0)
  | none => false

/-- Search the source with a counter, if it waits for that: the lookahead, the means, the sources copied. -/
def absorbIn (s : State) (y : Chan) (look : List LkPic) (means : List Nat) (anal : Option (Nat × PreIn)) (q : Nat × PreIn) :
    List LkPic × List Nat × List Nat :=
  look.foldl
    (fun (a : List LkPic × List Nat × List Nat) p =>
      if p.counter.toNat = q.1 && p.pre.isNone && sourceHere s y.blk.look p then
        let p1 := takeSource s y a.2.1 anal p q.2
        if y.blk.look = 0 then (a.1 ++ [p1], (p1.mean :: a.2.1).take 3, a.2.2)
        else (a.1 ++ [{ p1 with src := none }], (p1.mean :: a.2.1).take 3, a.2.2 ++ p.src.toList)
      else (a.1 ++ [p], a.2)) ([], means, [])

/-- Search sources of a channel's lookahead; a copied source loses its claim (R189). -/
def absorbChan (s : State) (c : Nat) (l : List (Nat × PreIn)) : State :=
  l.foldl
    (fun t q =>
      match t.chan c with
      | some y =>
        let (look, means, gone) := absorbIn t y y.look y.means y.anal q
        reapBufs (t.setChan c { y with look := look, means := means }) gone
      | none => t) s

/-! The choice of the next picture (R107, R240, R242, R191). -/

/-- The picture must be an IDR: the first one, a forced one, or one at a GOP position (R107, R242): pictures counted from
the last IDR. -/
def idrDue (y : Chan) (p : LkPic) : Bool :=
  match y.lastIdr with
  | none => true
  | some v => p.idr || (y.blk.gop ≠ 0 && y.blk.gop ≤ (p.counter - v).toNat)

/-- A scene change (R242). -/
def sceneCut (y : Chan) (p : LkPic) : Bool :=
  match p.pre with | some q => decide (49152 ≤ score q y.blk.width y.blk.height) | none => false

/-- The picture is coded intra, so no picture behind it is coded before it. -/
def intraDue (y : Chan) (p : LkPic) : Bool := idrDue y p || sceneCut y p

/-- A picture is released: with a lookahead, by an arrival that finds it full, or by the drain (R109, R240). -/
def released (y : Chan) (look : List LkPic) : Bool :=
  if y.blk.look = 0 || y.st == .draining then !look.isEmpty else decide (y.blk.look < look.length)

/-- The encoder may code `p` next, as a B picture or not (R242). -/
def pickOk (y : Chan) (look : List LkPic) (e : EncStart) (p : LkPic) : Bool :=
  let before := look.takeWhile fun q => q.counter ≠ p.counter
  let pastTop := match y.top with | some v => serialBefore v.toNat p.counter.toNat | none => true
  let open_ := match y.top with
    | some v => look.any fun q => serialBefore q.counter.toNat v.toNat
    | none => false
  let reorder := !y.blk.live && y.blk.look ≠ 0
  if e.b then reorder && !pastTop && !intraDue y p && 1 ≤ e.depth && e.depth ≤ 3
  else
    e.depth = 0 && pastTop && !open_ &&
      (before.isEmpty ||
        (reorder && before.length < Nat.min (miniGop y.blk) (y.blk.look + 1) && !intraDue y p && before.all fun q => !intraDue y q))

/-- The newest acknowledged long-term slot (R191, R193). -/
def newestAck (l : Tab Ltr) : Option Nat :=
  (l.foldl (fun (best : Option (Nat × Ltr)) p =>
    if !p.2.ack then best
    else match best with
      | some (n, b) => if serialBefore b.counter.toNat p.2.counter.toNat then some (p.1, p.2) else some (n, b)
      | none => some (p.1, p.2)) none).map (·.1)

/-! Beginning a picture. -/

/-- Clear the SHORT marks of a pool but for some buffers (R188). -/
def keepShort (s : State) (c : Nat) (keep : List Nat) : State :=
  (poolOf s c).foldl
    (fun t n => t.modBuf n fun b => if b.mark == .short && !keep.contains n then { b with mark := .none } else b) s

/-- Empty every long-term slot that a test picks. -/
def dropLtrs (s : State) (c : Nat) (f : Ltr → Bool) : State :=
  match s.chan c with
  | some y => y.ltr.foldl (fun t p => if f p.2 then dropLtr t c p.1 else t) s
  | none => s

/-- What the picture's headers do to the references (R188, R191). -/
def startMarks (s : State) (c : Nat) (idr rec : Bool) (keep : List Nat) : State :=
  if idr then dropLtrs (keepShort s c []) c fun _ => true
  else if rec then dropLtrs (keepShort s c []) c fun l => !l.ack
  else keepShort s c keep

/-- A picture of channel `c` is budgeted, and its time budget starts (R262, R264, R267, R280). `w0`, `h0` are the size at
which its source was searched. -/
def budgetPic (s : State) (c : Nat) (y : Chan) (p : LkPic) (ptype depth : Nat) (idr ltrRef : Bool) (e : EncStart)
    (behind : List (Nat × Nat × Nat)) (w0 h0 : Nat) : State :=
  let pv := pvRate s y
  let pre := p.pre.getD {}
  let intra := ptype = 0
  let cplx := preCplx pre intra
  let rate := rcRate y
  let rc0 := if y.rc.rate = rate then y.rc else { y.rc with pics := 0, bits := 0, rate := rate }
  let rc1 := if y.rc.cpb.isNone || intra then { rc0 with fill := fillRate y } else rc0
  let y1 := { y with rc := if pv then pvOpenGop { y with rc := rc1 } intra else rc1 }
  let alpha := y1.par_ 0x109
  let e0 := cost cplx ptype depth alpha
  let es := behind.map fun q => cost q.1 q.2.1 q.2.2 alpha
  let pred := (tget y1.rc.a ptype).map fun a => predBits a cplx (rcPlan y1 ptype depth cplx none)
  let (t, l) := if pv then
      (some (pvTarget y1 y1.rc ptype), if hasCpb y1 then Nat.min (lvlBits y1.blk) (hrdBound y1) else lvlBits y1.blk)
    else rcBudget y1 ptype e0 es pred
  let rowC := rowCplx pre intra w0 h0 y.blk.height (rowCount y.blk pv) (rowLines pv)
  let q := rcPlan y1 ptype depth cplx t
  let u0 : Cur :=
    { pic := p, ptype := ptype, depth := depth, idr := idr, ltrRef := ltrRef, isRef := e.isRef, nref := e.nref, c := cplx,
      rowC := rowC, t := t, l := l, hrd := hasCpb y1, cpb := cpbNow y1, qplan := q, qmin := rcQmin y1, qmax := rcQmax y1,
      filler := y1.par_ 0x10F = 1, rate := rate, start := s.tim.dtb, bands := [] }
  let bands := mkBands y.blk (encFields s y) rowC (t.getD 0) l (if pv then pvIndex y1 u0 0 0 else q) s.tim.dtb
  let bands := if pv then pvStart y1 bands else bands
  (s.setChan c { y1 with cur := some { u0 with bands := bands } }).wch c B.rcRate (w32 rate)

/-- Take the buffer for the reconstruction when one is free (R185). -/
def takeBuf (s : State) (c : Nat) : State :=
  match s.chan c with
  | some y =>
    match y.cur, (freeBufs s c).head? with
    | some u, some n =>
      if u.buf.isNone then
        (s.modBuf n fun b => b.fresh).setChan c { y with cur := some { u with buf := some n } }
      else s
    | _, _ => s
  | none => s

/-- A picture begins on a channel: its references, its budget, its buffer (R185, R188, R191, R262). `group` says that the
type comes from RUNG0. -/
def beginPic (s : State) (c : Nat) (p : LkPic) (ptype depth : Nat) (idr : Bool) (e : EncStart)
    (behind : List (Nat × Nat × Nat)) (w0 h0 : Nat) : State :=
  let s1 := homeMove s c
  match s1.chan c with
  | none => s
  | some y =>
    let ack := newestAck y.ltr
    let rec_ := p.loss && !idr && y.blk.codec ≠ 0 && ack.isSome
    let lost := p.loss && y.blk.codec ≠ 0 && ack.isNone
    let idr1 := idr || lost
    let pt := if idr1 then 0 else if p.loss && y.blk.codec = 0 then 0 else ptype
    let s2 := startMarks (if lost then chanEvent s1 c 7 else s1) c idr1 rec_ e.keep
    match s2.chan c with
    | none => s2
    | some z =>
      let z1 := { z with lastIdr := if idr1 then some p.counter else z.lastIdr,
                         top := if pt = 2 then z.top else some p.counter }
      takeBuf (budgetPic s2 c z1 p pt depth idr1 rec_ e behind w0 h0) c

/-! Rows (R12, R13, R256, R351 to R356, R517). -/

/-- Staged rows of a band. -/
def staged (s : State) (c b : Nat) : List Item := tgetD s.grn.stage (4 * c + b) []
/-- Set the staged rows of a band. -/
def setStaged (s : State) (c b : Nat) (l : List Item) : State :=
  { s with grn := { s.grn with stage := if l.isEmpty then tdel s.grn.stage (4 * c + b) else tset s.grn.stage (4 * c + b) l } }

/-- Cells that a channel's output holds against FIFO_CELLS: its FIFO, its staging chains, and a row that waits. -/
def outCells (s : State) (c : Nat) : Nat :=
  let st := (List.range 4).foldl (fun n b => (staged s c b).foldl (fun m i => m + i.cells) n) 0
  let w := match s.chan c with | some y => (match y.cur.bind (·.stall) with | some x => x.cells | none => 0) | none => 0
  fifoUsed (s.fifo (fout c)) + st + w

/-- Take the cells a row still needs, one at a time (R517): the head, the cells it has, and whether it has all. -/
def fillRow (s : State) (h lim need : Nat) (head : Option Nat) (have_ used : Nat) : Nat → Option Nat × Nat × State
  | 0 => (head, have_, s)
  | n + 1 =>
    if need ≤ have_ then (head, have_, s)
    else if lim ≤ used then (head, have_, s)
    else
      match growChain s h head with
      | some (k, s1) => fillRow s1 h lim need (some k) (have_ + 1) (used + 1) n
      | none => (head, have_, cellFail s)

/-- Egress takes OFFSET from the first row of the first picture, and of a picture with DISCONT (R377, R378). -/
def egressClock (s : State) (c : Nat) (dts : DWord) (disc : Bool) : State :=
  s.setEgr { s.egr with flow := tmap s.egr.flow fun _ f =>
    if f.chan = c && (f.offset.isNone || disc) then
      let m := 2 ^ 33 * 300
      let t := (s.tim.dtb.toNat + f.muxDelay * 1000) * 27 / 1000
      { f with offset := some ((300 * dts.toNat % m + m - t % m) % m), discDue := f.discDue || disc }
    else f }

/-- Commit items to the output FIFO, stamped with the DTB, a pending gap marker ahead of them; without a cell for the marker
they are dropped into it (R352, R353, R356). -/
def commitItems (s : State) (c h : Nat) (l : List Item) : State :=
  match l.head? with
  | none => s
  | some i =>
    match commitPending s (fout c) h with
    | (false, s1) =>
      let s2 := dropItems s1 l
      s2.setFifo (fout c) (addPending (s2.fifo (fout c)) l.length (l.foldl (fun n x => n + x.len) 0) s.tim.dtb)
    | (true, s1) =>
      let f := s1.fifo (fout c)
      let s2 := s1.setFifo (fout c) { f with items := f.items ++ l.map fun x => { x with time := s.tim.dtb } }
      match i.pic with | some (_, _, d, _) => egressClock s2 c d i.disc | none => s2

/-- Commit the rows of a band that may be committed: all but the last `keep` (R13); a band below the front keeps its rows
staged (R256). -/
def commitBand (s : State) (c h b keep : Nat) (front : Bool) : State :=
  if b = 0 then
    let f := s.fifo (fout c)
    let n := f.unc.length - keep
    commitItems (s.setFifo (fout c) { f with unc := f.unc.drop n, pmark := 0 }) c h (f.unc.take n)
  else if front then
    let l := staged s c b
    let n := l.length - keep
    commitItems (setStaged s c b (l.drop n)) c h (l.take n)
  else s

/-- Put a row's item behind those of its band. -/
def putRow (s : State) (c b : Nat) (i : Item) : State :=
  if b = 0 then
    let f := s.fifo (fout c)
    s.setFifo (fout c) { f with unc := f.unc ++ [i], pmark := f.unc.length }
  else setStaged s c b (staged s c b ++ [i])

/-- Rewind the last row of a band (R272): its cells are freed. -/
def rewindRow (s : State) (c b : Nat) : State :=
  if b = 0 then producerRewind s (fout c)
  else
    let l := staged s c b
    setStaged (dropItems s (l.drop (l.length - 1))) c b (l.take (l.length - 1))

/-- The item of a row. -/
def rowItem (u : Cur) (x : Band) (r : RowIn) (head n : Nat) : Item :=
  { cell := head, cells := n, len := r.data.length, gap := false, reset := false, time := 0, items := 0,
    bytes := 0, data := r.data, disc := u.pic.hdr.disc && x.first + x.rows.length = 0, pic := some (u.pic.counter, u.pic.hdr.pts, u.pic.hdr.dts, u.idr || (u.ptype = 0)),
    last := x.rows.length + 1 = x.count && (u.bands.getLast?.map (·.first)) = some x.first }

/-- The item of a picture's stuffing, after its last row (R266). -/
def stuffItem (u : Cur) (r : RowIn) (head n : Nat) : Item :=
  { cell := head, cells := n, len := r.stuff.length, gap := false, reset := false, time := 0, items := 0, bytes := 0,
    data := r.stuff, pic := some (u.pic.counter, u.pic.hdr.pts, u.pic.hdr.dts, u.idr || (u.ptype = 0)), last := true }

/-! The end of a picture (R240, R275, R284, R305 to R313). -/

/-- The average quantiser of a picture in codec units (R114, R259). -/
def avgQuant (b : Blk) (pv : Bool) (u : Cur) : Nat :=
  let l := u.bands.flatMap fun x => x.rows.map fun r => if pv then pvUnit b r.q else qUnit b r.q
  if l.isEmpty then 0 else rdiv (l.foldl (· + ·) 0) l.length

/-- Sum of the SATD of the blocks of a 64×64 unit. -/
def unitSatd (p : PreIn) (intra : Bool) (w h ux uy : Nat) : Nat :=
  (List.range 4).foldl
    (fun n j => (List.range 4).foldl
      (fun m i =>
        if 4 * ux + i < blk16 w && 4 * uy + j < blk16 h then
          (if intra then m + p.intra.getD ((4 * uy + j) * blk16 w + 4 * ux + i) 0
           else m + p.inter.getD ((4 * uy + j) * blk16 w + 4 * ux + i) 0)
        else m) n) 0

/-- The scene-change section (R311). -/
def secScene (p : LkPic) (w h c : Nat) : StatSec :=
  let sc := score (p.pre.getD {}) w h
  { typ := 0x20, size := 16, cols := 0, rows := 0,
    recs := [toLE 2 sc ++ toLE 1 (b2n (49152 ≤ sc) + b2n p.fade * 2) ++ toLE 1 0 ++ toLE 2 p.mean ++ toLE 2 0 ++
      toLE 4 (sat32 c) ++ toLE 4 0] }

/-- The complexity section of an encoded picture (R310). -/
def secCplxEnc (b : Blk) (u : Cur) (w h : Nat) : StatSec :=
  let cols := cdiv b.width 64
  let rows := u.bands.flatMap (·.rows)
  { typ := 0x10, size := 16, cols := cols, rows := cdiv b.height 64,
    recs := rows.zipIdx.flatMap fun r => (List.range cols).map fun x =>
      let known := w = b.width && h = b.height
      let pre := u.pic.pre.getD {}
      cplxRec (if known then unitSatd pre true w h x r.2 else 0xFFFFFFFF)
        (if known && u.ptype ≠ 0 then unitSatd pre false w h x r.2 else 0xFFFFFFFF)
        (r.1.units.getD x 0) (qUnit b r.1.q)
        (b2n r.1.stubble + b2n (tgetD u.pic.hdr.map (r.2 * cols + x) 0 ≠ 0) * 2) }

/-- A signed number in `n` bytes. -/
def toLEi (n : Nat) (v : Int) : List Byte := toLE n (v % ((256 ^ n : Nat) : Int)).toNat

/-- The highest step of R271 used (R313). -/
def topStep (u : Cur) (hrdBad : Bool) : Nat :=
  if u.t.isNone then 0 else if hrdBad then 5 else maxL (u.bands.flatMap fun x => x.rows.map (·.step))

/-- The rate-decision sections (R313). -/
def secRate (y : Chan) (pv : Bool) (u : Cur) (bits retries : Nat) (hrdBad : Bool) : List StatSec :=
  let t := u.t.getD 0
  let unit := fun q => if pv then pvUnit y.blk q else qUnit y.blk q
  [{ typ := 0x40, size := 32, cols := 0, rows := 0,
     recs := [toLE 4 (sat32 t) ++ toLE 4 (if pv then 0 else t * y.par_ 0x100 / 64) ++ toLE 4 (sat32 u.l) ++
       toLE 4 (sat32 (bits + u.stuff)) ++ toLE 4 u.stuff ++ toLE 1 (if pv then 0 else qUnit y.blk u.qplan) ++
       toLE 1 (avgQuant y.blk pv u) ++ toLE 1 (topStep u hrdBad) ++ toLE 1 retries ++
       toLE 4 (if u.hrd then sat32 (u.cpb.toNat / y.blk.num) else 0) ++ toLE 4 u.rate] },
   { typ := 0x41, size := 16, cols := 0, rows := 0,
     recs := u.bands.zipIdx.flatMap fun x => x.1.rows.map fun r =>
       toLE 4 (sat32 r.budget) ++ toLE 4 (sat32 r.bits) ++ toLEi 4 r.overBy ++ toLE 1 (unit r.q) ++ toLE 1 r.step ++
       toLE 1 (b2n r.retried + b2n r.stubble * 2) ++ toLE 1 x.2 }]

/-- The sections of an encoded picture (R305). -/
def encSecs (y : Chan) (pv : Bool) (u : Cur) (bits retries : Nat) (hrdBad : Bool) (w h : Nat) : Tab (List StatSec) :=
  [(0, [{ typ := 2, size := 8, cols := blk16 y.blk.width, rows := blk16 y.blk.height,
          recs := if u.ptype = 0 then [] else u.bands.flatMap fun x => x.rows.flatMap (·.motion) }]),
   (1, [secCplxEnc y.blk u w h]), (2, [secScene u.pic w h u.c]), (3, [secHist u.pic.luma u.pic.depth]),
   (4, secRate y pv u bits retries hrdBad)]

/-- The model coefficients, counts and buffer after a picture (R262, R263, R265, R281). -/
def rcEnd (y : Chan) (pv : Bool) (u : Cur) (bits : Nat) : Rc :=
  let rows := u.bands.flatMap (·.rows)
  let qs := rows.foldl (fun n r => n + r.q) 0
  let r0 := { y.rc with pics := y.rc.pics + 1, bits := y.rc.bits + bits, cpb := cpbNext y u (bits + u.stuff) }
  if pv then pvEnd r0 u.ptype (u.t.getD 0) bits qs rows.length
  else
    let r1 := { r0 with eP := if u.ptype = 1 then some (cost u.c 1 0 (y.par_ 0x109)) else r0.eP,
                        hist := (u.c :: r0.hist).take (y.par_ 0x10A) }
    match coefNext (tget r1.a u.ptype) bits u.c qs rows.length with
    | some a => { r1 with a := tset r1.a u.ptype a }
    | none => r1

/-- The reconstruction takes its marks (R188, R190, R212): a long-term slot, a short-term reference, or none. -/
def keepRecon (s : State) (c : Nat) (u : Cur) (r : RowIn) : State :=
  match u.buf with
  | none => s
  | some n =>
    let codec := match s.chan c with | some y => y.blk.codec | none => 1
    let put := fun (t : State) (m : Mark) => t.modBuf n fun b =>
      { b with mark := m, planes := if m == .none then b.planes else reconstruct codec r.planes r.blocks,
               motion := if m == .none then b.motion else r.field, hdr := { u.pic.hdr with counter := u.pic.counter } }
    match u.pic.ltrSet with
    | some k =>
      let s1 := dropLtr s c k
      (put s1 .long).modChan c fun y => { y with ltr := tset y.ltr k { buf := n, counter := u.pic.counter } }
    | none => put s (if u.isRef then .short else .none)

/-- What the picture in `cur` reports (R114, R275, R284). `force` is a code that a resource wait ended it with. -/
def codedOf (y : Chan) (pv : Bool) (u : Cur) (w h : Nat) (force : Option Nat) : Coded :=
  let bits := u.bits
  let hrdBad := u.hrd && decide ((u.cpb.toNat : Int) < (bits * y.blk.num : Nat))
  let rows := u.bands.flatMap (·.rows)
  let stub := rows.any (·.stubble)
  let retries := maxL (u.bands.map (·.retries))
  let out := !pv && u.t.isSome && u.bands.any fun x => x.rows.any fun r =>
    decide (0 < r.overBy) && decide ((x.t * y.par_ 0x100 : Nat) ≤ r.overBy * 64)
  let q := avgQuant y.blk pv u
  let code := match force with
    | some k => k
    | none => if hrdBad then St.hrd else if stub then St.stubble else if u.pic.resized then St.resized else St.ok
  { counter := u.pic.counter, code := code,
    bits := b2n u.idr + b2n u.ltrRef * 2 + b2n u.pic.ltrSet.isSome * 4 + b2n (retries ≠ 0) * 8 +
      u.pic.ltrSet.getD 0 * 16 + q % 256 * 256,
    pts := u.pic.hdr.pts, ptype := u.ptype, nref := u.nref,
    secs := encSecs y pv u bits retries hrdBad w h,
    rcState := w32 (q % 256 + b2n stub * 256 + b2n hrdBad * 512 + retries % 4 * 1024 + b2n out * 4096),
    cpb := if u.hrd then u.cpb.toNat / y.blk.num else 0, evStub := stub, evHrd := hrdBad }

/-- The rate-control registers and STATS take a coded picture (R284, R305). -/
def showCoded (s : State) (c : Nat) (r : Coded) : State :=
  let s1 := (s.wch c B.rcState r.rcState).wch c B.rcCpb (w32 (sat32 r.cpb))
  let s2 := if r.evStub then s1.cntch c B.rcEvents 0 16 else s1
  let s3 := if r.evHrd then s2.cntch c B.rcEvents 16 14 else s2
  s3.modChan c fun y =>
    { y with statSrc := some 0, statCnt := r.counter, statPts := r.pts, statType := r.ptype, statNref := r.nref,
             statSec := r.secs, statW := y.blk.width, statH := y.blk.height }

/-- A result goes to whoever reports it (R240, R290): the channel's next instruction, the ladder group, or, in a drain,
nobody. -/
def putCoded (s : State) (c : Nat) (r : Coded) : State :=
  match s.chan c with
  | none => s
  | some y =>
    match y.grp with
    | some (g, n) =>
      s.setVid { s.vid with grp := tmod s.vid.grp g fun z =>
        { z with coding := z.coding.map fun p => { p with done := tset p.done n r } } }
    | none =>
      if y.st == .draining && !(s.job.work.any fun p => workOn p.2 c && (match p.2.kind with | .encPic .. => true | _ => false)) then
        showCoded s c r
      else s.setChan c { y with coded := y.coded ++ [r] }

/-- A ladder picture that every rung is done with waits for its instruction (R290). -/
def groupDone (s : State) (g : Nat) : State :=
  match tget s.vid.grp g with
  | none => s
  | some z =>
    match z.coding with
    | none => s
    | some p =>
      if z.rungs.all fun q => thas p.done q.1 then
        reapBufs (s.setGrp g { z with coding := none, coded := z.coded ++ [p.done] }) p.pic.src.toList
      else s

/-- Size at which a channel's pictures are searched: that of RUNG0 in a group. -/
def searchSize (s : State) (y : Chan) : Nat × Nat :=
  match y.grp.bind fun q => tget s.vid.grp q.1 with
  | some g => (match (tget g.rungs 0).bind s.chan with | some z => (z.blk.width, z.blk.height) | none => (y.blk.width, y.blk.height))
  | none => (y.blk.width, y.blk.height)

/-- The picture in `cur` ends (R240, R275, R284): `r` is the report of its last row; `force` a code that ends it early. A
channel that has FAILED discards what it coded (R175). -/
def endPic (s : State) (c : Nat) (r : RowIn) (force : Option Nat) : State :=
  match s.chan c with
  | none => s
  | some y =>
    match y.cur with
    | none => s
    | some u =>
      let pv := pvRate s y
      let (w, h) := searchSize s y
      let code := if y.st == .failed then some St.unrecoverable else force
      let res := codedOf y pv u w h code
      let begun := u.bands.any fun x => !x.rows.isEmpty
      let y1 := { y with cur := none, rc := if begun then rcEnd y pv u u.bits else y.rc }
      let s1 := keepRecon (s.setChan c y1) c u r
      let s2 := u.bands.foldl (fun t x => if x.rows.isEmpty then t else t.addq2 (A.fld x.field + 0x20) 1) s1
      let s3 := s2.setVid { s2.vid with mux := match y.mux with
        | some m => tmod s2.vid.mux m fun z => { z with bits := z.bits + u.bits }
        | none => s2.vid.mux }
      let s4 := putCoded (latency s3 c u.pic.t0) c res
      let s5 := reapBufs s4 (u.pic.src.toList ++ u.buf.toList)
      match y.grp with | some (g, _) => groupDone s5 g | none => s5

/-- Bands wholly coded from the top, and the rows they release (R256). -/
def advanceFront (s : State) (c h : Nat) (u : Cur) : Nat → Nat × State
  | 0 => (u.front, s)
  | n + 1 =>
    let (fr, s1) := advanceFront s c h u n
    match u.bands[fr]? with
    | some x =>
      if x.rows.length = x.count then
        let s2 := commitBand s1 c h fr 0 true
        let s3 := match u.bands[fr + 1]? with
          | some z => commitBand s2 c h (fr + 1) (b2n (z.rows.length < z.count)) true
          | none => s2
        (fr + 1, s3)
      else (fr, s1)
    | none => (fr, s1)

/-- A row of a band has been placed and coded: rate control decides (R271), rows are committed (R13), and the picture may
end. -/
def rowDone (s : State) (c : Nat) (y : Chan) (u : Cur) (b : Nat) (x : Band) (r : RowIn) (i : Item) : State :=
  let pv := pvRate s y
  let stub := stubUnit pv u.ptype
  let after := (x.count - x.rows.length - 1) * rowUnits y.blk pv
  let cut := (stubAt x.llvl stub (rawUnit y.blk pv) after (bandBits x) r.units).isSome
  let front := b ≤ u.front
  let s1 := putRow (commitBand s c y.hold b 0 front) c b i
  let (again, x1) := if pv then (false, pvAfterRow y u x s.tim.dtb r cut) else afterRow y u x s.tim.dtb r cut
  let u1 := { u with bands := u.bands.set b x1, stall := none }
  if again then ((rewindRow s1 c b).cntch c B.rcRetry 0 31).setChan c { y with cur := some u1 }
  else
    let s2 := s1.setChan c { y with cur := some u1 }
    let (fr, s3) := advanceFront s2 c y.hold u1 4
    let s4 := s3.modChan c fun z => { z with cur := z.cur.map fun v => { v with front := fr } }
    if fr = u1.bands.length && stuffBytes y u1 u1.bits = 0 then endPic s4 c r none else s4

/-- Every row is coded and committed; only stuffing is left. -/
def rowsDone (u : Cur) : Bool := u.front = u.bands.length

/-- The stuffing of a picture has been placed: it is committed, and the picture ends (R266). -/
def stuffDone (s : State) (c : Nat) (y : Chan) (u : Cur) (r : RowIn) (i : Item) : State :=
  let s1 := commitItems s c y.hold [i]
  endPic (s1.setChan c { y with cur := some { u with stall := none, stuff := 8 * r.stuff.length } }) c r none

/-- Rows of the picture that are not committed (R356). -/
def uncRows (s : State) (c : Nat) (u : Cur) : Nat :=
  (s.fifo (fout c)).unc.length + (List.range 4).foldl (fun n b => n + (staged s c b).length) 0 + b2n u.stall.isSome

/-- A picture that waits past its time budget ends (R12, R185, R356): its uncommitted rows are rewound, and their count is
added to the pending gap marker. -/
def cutPic (s : State) (c code : Nat) : State :=
  match s.chan c with
  | none => s
  | some y =>
    match y.cur with
    | none => s
    | some u =>
      let n := uncRows s c u
      let f := s.fifo (fout c)
      let gone := f.unc ++ (List.range 4).flatMap fun b => staged s c b
      let s1 := dropItems s gone
      let s2 := match u.stall.bind (·.head) with | some k => decRef s1 k 0 | none => s1
      let f1 := { s2.fifo (fout c) with unc := [], pmark := 0 }
      let s3 := (List.range 4).foldl (fun t b => setStaged t c b []) (s2.setFifo (fout c) (if n = 0 then f1 else addPending f1 n 0 s.tim.dtb))
      endPic (s3.modChan c fun z => { z with cur := some { u with stall := none } }) c {} (some code)

/-- Place the row that waits, as far as cells and room allow (R12, R517): with all its cells it is coded; without them it
waits, or ends the picture when the time budget has ended. -/
def placeRow (s : State) (c : Nat) (y : Chan) (u : Cur) (st : Stall) : State :=
  let need := itemCells (if rowsDone u then st.row.stuff.length else st.row.data.length)
  let (head, n, s1) := fillRow s y.hold y.blk.fifoCells need st.head st.cells (outCells s c) need
  match s1.chan c, u.bands[st.row.band]? with
  | some y1, some x =>
    if need ≤ n then
      if rowsDone u then stuffDone s1 c y1 u st.row (stuffItem u st.row (head.getD 0) n)
      else rowDone s1 c y1 u st.row.band x st.row (rowItem u x st.row (head.getD 0) n)
    else
      let s2 := s1.setChan c { y with cur := some { u with stall := some { st with head := head, cells := n } } }
      if u.timeout then cutPic s2 c St.granary else s2
  | _, _ => s

/-- An encode that waits for a cell tries again (R12). -/
def resumeRow (s : State) (c : Nat) : State :=
  match s.chan c with
  | some y =>
    match y.cur with
    | some u => (match u.stall with | some st => placeRow s c y u st | none => s)
    | none => s
  | none => s

/-- The source rows that row `k` of a band needs are published (R113, R201). -/
def rowsHere (s : State) (y : Chan) (u : Cur) (x : Band) : Bool :=
  match u.pic.src.bind s.buf with
  | some b => !b.rows || decide (Nat.min y.blk.height ((x.first + x.rows.length + 1) * rowLines (pvRate s y)) ≤ b.rowsPub)
  | none => true

/-- The bands follow the Fields that have grants until the first row is coded (R257). -/
def rebands (s : State) (y : Chan) (u : Cur) : Cur :=
  if u.bands.all fun x => x.rows.isEmpty && !x.retry then
    let fl := encFields s y
    if fl = u.bands.map (·.field) then u
    else
      let bands := mkBands y.blk fl u.rowC (u.t.getD 0) u.l ((u.bands.head?.map (·.q)).getD u.qplan) u.start
      { u with bands := if pvRate s y then pvStart y bands else bands }
  else u

end Sys2Proof.Machine
end

