-- ==== Sys2Proof/Machine/Encode.lean ====
section
/-! DEFINITION. Encoding: ENC.PIC and the events of a picture in encode, and the ticks of multiplex groups (R237 to
R284). -/

namespace Sys2Proof.Machine

/-- A source is accepted on an encode channel (R189, R192, R240): the picture, and the channel after it. -/
def acceptPic (s : State) (y : Chan) (src : Nat) : LkPic × Chan :=
  ({ counter := y.counter, src := some src, ltrSet := y.ltrSet, loss := y.loss, idr := y.idr, work := s.job.nextWork,
     t0 := s.tim.dtb },
   { y with counter := y.counter + 1, ltrSet := none, loss := false, idr := false,
            filled := Nat.min y.blk.look (y.filled + 1) })

/-- ENC.PIC (R112, R113, R117, R175, R226, R239, R240, R287, R298). -/
def execEncPic (f c : Nat) (s : State) : Res :=
  done s (issue 0x81 anyIns f c s fun t k x i =>
    match useHandle t x.hold [1] (x.hnd i.a), useHandle t x.hold [2, 3] (x.hnd i.b) with
    | some o, some p =>
      match t.chan o.ref, t.buf p.ref with
      | some y, some b =>
        if !y.blk.enc || y.grp.isSome || !srcOk b then faultJob t k St.operand
        else if y.st == .failed then endNow t k x i (statusWord St.unrecoverable 0)
        else if b.empty && !b.rows then endNow t k x i (statusWord St.noPicture 0)
        else if srcChroma t p.ref b ≠ y.blk.chroma then endNow t k x i (statusWord St.source 0)
        else
          withEngine 3 y.blk.live s t k x
            (let (pic, y1) := acceptPic t y p.ref
             let early := if y.filled < y.blk.look then some y.counter else none
             let t1 := reachChan (t.setChan o.ref { y1 with look := y1.look ++ [pic] }) o.ref f
             startWork (askSpan t1 k x y.blk.live ((spanFields t y.home (Nat.min y.blk.span 4)).drop 1)) k x i
               { ctx := k, hold := x.hold, d := i.d, engine := true, fcls := 3, kind := .encPic o.ref p.ref early })
      | _, _ => faultJob t k St.handle
    | _, _ => faultJob t k St.handle)

/-- Pictures behind a picture: complexity, type and B depth of each that has been searched (R262). -/
def behindOf (y : Chan) (look : List LkPic) (plan : List (Nat × Nat)) : List (Nat × Nat × Nat) :=
  look.filterMap fun p => p.pre.map fun q =>
    match plan.find? fun r => r.1 = p.counter.toNat with
    | some r => (preCplx q false, 2, r.2)
    | none => let i := intraDue y p; (preCplx q i, if i then 0 else 1, 0)

/-- A rung that codes nothing of a ladder picture reports this (R239, R291). -/
def noCoded (counter : Word) (code : Nat) : Coded :=
  { counter := counter, code := code, bits := 0, pts := 0, ptype := 3, nref := 0, secs := [], rcState := 0, cpb := 0,
    evStub := false, evHrd := false }

/-- A rung begins the group's picture, or has nothing to code of it (R239, R288, R291). -/
def rungBegin (s : State) (g c r : Nat) (y : Chan) (p : GrpPic) (e : EncStart) : State :=
  let (w0, h0) := searchSize s y
  let base := match (tget s.vid.grp g).bind fun z => tget z.rungs 0 with
    | some z => (match s.chan z with | some v => v.counter | none => 0)
    | none => 0
  let cnt := y.counter - (base - p.pic.counter)
  let s1 := s.setVid { s.vid with grp := tmod s.vid.grp g fun z =>
    { z with coding := z.coding.map fun q => { q with begun := insNat q.begun r } } }
  if y.st == .failed then groupDone (putCoded s1 c (noCoded cnt St.unrecoverable)) g
  else if p.pic.hdr.chroma ≠ y.blk.chroma then groupDone (putCoded s1 c (noCoded cnt St.source)) g
  else
    let (pt, d) := if y.blk.codec = 0 && p.ptype = 2 && p.isRef then (1, 0) else (p.ptype, p.depth)
    let pic := { p.pic with counter := cnt, src := none, ltrSet := none, loss := false, resized := p.pic.resized && r = 0 }
    beginPic s1 c pic pt d p.idr { e with isRef := p.isRef } p.behind w0 h0

/-- ENC_PICTURE_START (R185, R188, R242, R244, R261 to R264, R267, R288): sources that are there are searched, and the
picture the encoder picks is budgeted. On a rung below RUNG0 the picture is the one RUNG0 has begun. -/
def execEncPictureStart (c : Nat) (e : EncStart) (s : State) : Res :=
  if s.flt.safe then .next s
  else
    match s.chan c with
    | none => .next s
    | some y =>
      if !y.blk.enc || y.cur.isSome then .next s
      else
        match y.grp with
        | none =>
          let s1 := absorbChan s c e.pre
          (match s1.chan c with
           | none => .next s1
           | some z =>
             match z.look.find? fun p => p.counter.toNat = e.pick && p.pre.isSome with
             | none => .next s1
             | some p =>
               if released z z.look && pickOk z z.look e p then
                 let rest := z.look.filter fun q => q.counter ≠ p.counter
                 let pt := if intraDue z p then 0 else if e.b then 2 else 1
                 done s (beginPic (s1.setChan c { z with look := rest }) c p pt (if pt = 2 then e.depth else 0)
                   (idrDue z p) e (behindOf z rest e.plan) z.blk.width z.blk.height)
               else .next s1)
        | some (g, r) =>
          match tget s.vid.grp g with
          | none => .next s
          | some z =>
            match z.coding with
            | some p => if thas p.done r || p.begun.contains r then .next s else done s (rungBegin s g c r y p e)
            | none =>
              if r ≠ 0 then .next s
              else
                let (look, means, gone) := e.pre.foldl
                  (fun (a : List LkPic × List Nat × List Nat) q =>
                    let (l, m, d) := absorbIn s y a.1 a.2.1 none q
                    (l, m, a.2.2 ++ d)) (z.look, y.means, [])
                let s1 := reapBufs ((s.setChan c { y with means := means }).setGrp g { z with look := look }) gone
                let y1 := { y with means := means }
                match look.find? fun p => p.counter.toNat = e.pick && p.pre.isSome with
                | none => .next s1
                | some p =>
                  if released y1 look && pickOk y1 look e p then
                    let rest := look.filter fun q => q.counter ≠ p.counter
                    let pt := if intraDue y1 p then 0 else if e.b then 2 else 1
                    let gp : GrpPic :=
                      { pic := p, ptype := pt, depth := if pt = 2 then e.depth else 0, idr := idrDue y1 p, isRef := e.isRef,
                        behind := behindOf y1 rest e.plan }
                    let top := if pt = 2 then y1.top else some p.counter
                    let y2 := { y1 with top := top, lastIdr := if gp.idr then some p.counter else y1.lastIdr }
                    let s2 := (s1.setChan c y2).setGrp g { z with look := rest, coding := some gp }
                    done s (rungBegin s2 g c 0 y2 gp e)
                  else .next s1

/-- A row's report is of the picture in `cur` and complete: its units, or, when only stuffing is left, its stuffing. -/
def rowInOk (s : State) (y : Chan) (u : Cur) (r : RowIn) : Bool :=
  if rowsDone u then r.units.isEmpty && r.data.isEmpty && r.stuff.length = stuffBytes y u u.bits
  else
    match u.bands[r.band]? with
    | some x =>
      decide (x.rows.length < x.count) && r.units.length = rowUnits y.blk (pvRate s y) && r.stuff.isEmpty && rowsHere s y u x
    | none => false

/-- ENC_ROW_CODED (R12, R13, R185, R250, R251, R257, R268 to R274, R282, R352, R353, R517). -/
def execEncRowCoded (c : Nat) (r : RowIn) (s : State) : Res :=
  if s.flt.safe then .next s
  else
    let s1 := takeBuf s c
    match s1.chan c with
    | none => .next s
    | some y =>
      match y.cur with
      | none => .next s
      | some u0 =>
        let u := rebands s1 y u0
        if u.stall.isSome || u.buf.isNone || !rowInOk s1 y u r then .next s
        else
          let f := match u.bands[r.band]? with | some x => x.field | none => y.home
          let s2 := (s1.addq2 (A.fld f + 0x28) r.bins).addq2 (A.fld f + 0x30) r.probes
          let s3 := addWaits ((s2.addch c B.encSearch 0 16 r.clipped).addch c B.encSearch 16 14 r.refills) c r.waits
          done s (placeRow (s3.setChan c { y with cur := some u }) c y u { row := r })

/-- ENC_TIME_BUDGET_EXPIRY (R12, R185, R267, R356): a wait for cells ends with RESOURCE_GRANARY, one for a pool buffer with
RESOURCE_POOL; without a wait the picture is coded on, with no retry left. -/
def execEncTimeBudgetExpiry (c : Nat) (s : State) : Res :=
  let s1 := takeBuf s c
  match s1.chan c with
  | none => .next s
  | some y =>
    match y.cur with
    | none => .next s
    | some u =>
      if u.stall.isSome then done s (cutPic s1 c St.granary)
      else if u.buf.isNone then done s (cutPic s1 c St.pool)
      else .next (s1.setChan c { y with cur := some { u with timeout := true } })

/-- The outstanding ENC.PIC `n` when it is the oldest of its channel (R169). -/
def encWork (s : State) (n : Nat) : Option (Nat × Nat × Option Word) :=
  match tget s.job.work n with
  | some w =>
    match w.kind with
    | .encPic c src early =>
      if (s.job.work.all fun q => n ≤ q.1 || (match q.2.kind with | .encPic c' .. => c' ≠ c | _ => true)) && !s.flt.safe then
        some (c, src, early)
      else none
    | _ => none
  | none => none

/-- The status word of a coded picture (R114). -/
def encStatus (r : Coded) : DWord := statusWord r.code (r.bits % 65536 + r.counter.toNat * 65536)

/-- The source that instruction `n` brought has been copied (R240). -/
def copied (look : List LkPic) (n : Nat) : Bool := match look.find? fun p => p.work = n with | some p => p.pre.isSome | none => true

/-- ENC_PIC_COMPLETE (R114, R175, R226, R240, R284): OK_QUEUED once a source that came while the lookahead filled is copied;
else the status of the picture its arrival released. -/
def execEncPicComplete (n : Nat) (q : PreIn) (s : State) : Res :=
  match encWork s n with
  | none => .next s
  | some (c, src, early) =>
    match s.chan c with
    | none => .next s
    | some y =>
      let mine := y.look.find? fun p => p.work = n
      let void := match mine, s.buf src with | some p, some b => b.empty && !b.rows && p.src = some src | _, _ => false
      if y.st == .failed then (if y.cur.isNone then done s (endWork s n (statusWord St.unrecoverable 0)) else .next s)
      else if void then
        done s (endWork (s.setChan c { y with look := y.look.filter fun p => p.work ≠ n }) n (statusWord St.noPicture 0))
      else
        match early with
        | some v =>
          let s1 := match mine with | some p => absorbChan s c [(p.counter.toNat, q)] | none => s
          if copied (match s1.chan c with | some z => z.look | none => []) n then done s (endWork s1 n (statusWord St.queued (v.toNat * 65536))) else .next s1
        | none =>
          match y.coded with
          | r :: rest =>
            let s1 := showCoded (s.setChan c { y with coded := rest }) c r
            done s (endWork s1 n (encStatus r))
          | [] => .next s

/-! Multiplex groups (R277 to R279). -/

/-- A member at a tick: its channel, weight, floor and cap in kbit/s, and its rate once it is clamped. -/
structure MuxIn where
  /-- Channel. -/
  chan : Nat
  /-- Weight × 2^16. -/
  w : Nat
  /-- MUX_MIN. -/
  lo : Nat
  /-- MAXRATE. -/
  hi : Nat
  /-- The rate of a clamp. -/
  rate : Option Nat
  deriving DecidableEq, Repr

/-- A member's share of `left` kbit/s among the weights `sum` of `n` members that are not clamped. -/
def muxShare (left sum n w : Nat) : Nat := if sum = 0 then left / n else left * w / sum

/-- Share the rate, clamp, and share again among the unclamped members, in at most `fuel` rounds (R278). -/
def muxRounds (avail : Nat) (l : List MuxIn) : Nat → List MuxIn
  | 0 => l
  | fuel + 1 =>
    let free := l.filter fun m => m.rate.isNone
    let left := avail - l.foldl (fun n m => n + m.rate.getD 0) 0
    let sum := free.foldl (fun n m => n + m.w) 0
    let l1 := l.map fun m =>
      match m.rate with
      | some _ => m
      | none =>
        let v := muxShare left sum free.length m.w
        if v < m.lo then { m with rate := some m.lo } else if m.hi < v then { m with rate := some m.hi } else m
    if l1 = l then l else muxRounds avail l1 fuel

/-- The rates that a list of members gets. -/
def muxRates (avail : Nat) (l : List MuxIn) : List (Nat × Nat) :=
  let l1 := muxRounds avail l 32
  let free := l1.filter fun m => m.rate.isNone
  let left := avail - l1.foldl (fun n m => n + m.rate.getD 0) 0
  let sum := free.foldl (fun n m => n + m.w) 0
  l1.map fun m => (m.chan, m.rate.getD (clampN m.lo m.hi (muxShare left sum free.length m.w)))

/-- The lookahead a channel's pictures wait in: the group's for a rung. -/
def lookOf (s : State) (y : Chan) : List LkPic :=
  match y.grp.bind fun q => tget s.vid.grp q.1 with | some g => g.look | none => y.look

/-- Σ e_j / n' over the window of a member's next picture (R262, R278), and n'. -/
def muxWindow (s : State) (y : Chan) : Nat × Nat :=
  let al := y.par_ 0x109
  let es := (behindOf y (lookOf s y) []).map fun q => cost q.1 q.2.1 q.2.2 al
  let n := Nat.max es.length 8
  let sum := es.foldl (· + ·) 0 + (n - es.length) * y.rc.eP.getD (es.headD 0)
  (sum / n, n)

/-- A member's entry at a tick, and its channel after it (R278, R279): without a picture to budget it keeps its weight for
two ticks, then gets MUX_MIN. -/
def muxMember (s : State) (c : Nat) (y : Chan) : MuxIn × Chan :=
  let lo := y.par_ 0x10E
  let hi := y.blk.maxrate
  if (behindOf y (lookOf s y) []).isEmpty then
    let idle := y.rc.muxIdle + 1
    ({ chan := c, w := y.rc.muxW, lo := lo, hi := hi, rate := if 2 < idle then some lo else none },
     { y with rc := { y.rc with muxIdle := idle } })
  else
    let w := y.par_ 0x10D * (muxWindow s y).1
    ({ chan := c, w := w, lo := lo, hi := hi, rate := none }, { y with rc := { y.rc with muxW := w, muxIdle := 0 } })

/-- The rate available at a tick, in kbit/s (R278): CONVERGE is that of the first member, n' the longest window (log 35). -/
def muxAvail (g : Mux) (num den cv n : Nat) : Nat :=
  let overBy : Int := (g.bits * num : Nat) - (g.rate * 1000 * g.ticks * den : Nat)
  ((g.rate : Int) - overBy * n / ((cv * 1000 * den : Nat) : Int)).toNat

/-- MUX_RATE_TICK (R278, R279): a new MUX_RATE applies, members join and leave, and each gets its rate. -/
def execMuxRateTick (m : Nat) (s : State) : Res :=
  match tget s.vid.mux m with
  | none => .next s
  | some g0 =>
    let g := { g0 with rate := g0.next.getD g0.rate, next := none, active := g0.members.foldl insNat [] }
    match (g.members.head?).bind s.chan with
    | none => .next (s.setMux m { g with ticks := g.ticks + 1 })
    | some y0 =>
      let n := maxL (g.members.map fun c => match s.chan c with | some y => (muxWindow s y).2 | none => 8)
      let avail := muxAvail g y0.blk.num y0.blk.den (y0.par_ 0x10A) n
      let (ins, s1) := g.active.foldl
        (fun (a : List MuxIn × State) c =>
          match a.2.chan c with
          | some y => let (i, y1) := muxMember a.2 c y; (a.1 ++ [i], a.2.setChan c y1)
          | none => a) ([], s)
      let s2 := (muxRates avail ins).foldl
        (fun t p => (t.modChan p.1 fun y => { y with rc := { y.rc with muxRate := some p.2 } }).wch p.1 B.rcRate (w32 p.2)) s1
      .next (s2.setMux m { g with ticks := g.ticks + 1 })

end Sys2Proof.Machine
end

