-- ==== Sys2Proof/Machine/Ladder.lean ====
section
/-! DEFINITION. Encode ladders and ANALYZE (R246, R285 to R292). -/

namespace Sys2Proof.Machine

/-- Scaling from size `a` to size `b` lies within the ratios of R296. -/
def ratioOk (a b : Nat) : Bool := decide (b ≤ 8 * a) && decide (a ≤ 32 * b)

/-- The rungs may be fixed (R111, R286): contiguous from RUNG0, none larger than it, all distribution encode channels of
its rate, within the scaling ratios. -/
def rungsOk (s : State) (g : Grp) : Bool :=
  g.rungs.zipIdx.all (fun p => p.1.1 == p.2) &&
  match (tget g.rungs 0).bind s.chan with
  | none => false
  | some y0 => g.rungs.all fun p =>
      match s.chan p.2 with
      | some y =>
        y.blk.dir = 1 && !y.blk.live && y.blk.num * y0.blk.den = y0.blk.num * y.blk.den &&
          decide (y.blk.width * y.blk.height ≤ y0.blk.width * y0.blk.height) &&
          ratioOk y0.blk.width y.blk.width && ratioOk y0.blk.height y.blk.height
      | none => false

/-- The status word of ENC.LADDER (R114): the worst rung status, the rungs whose status is not OK, the counter of rung 0. -/
def ladderStatus (l : List (Nat × Nat)) (counter : Word) : DWord :=
  statusWord (maxL (l.map (·.2)))
    (l.foldl (fun n p => if p.2 = 0 then n else n + 2 ^ p.1) 0 % 4096 + counter.toNat * 65536)

/-- ENC.LADDER ends at issue with one status for every rung (R226, R239). -/
def ladderNow (s : State) (k : Nat) (x : Ctx) (i : Ins) (g : Grp) (counter : Word) (code : Nat) : State :=
  endNow s k x i (ladderStatus (g.rungs.map fun p => (p.1, code)) counter)

/-- Every rung accepts the source (R188, R288): its counter advances, and its first picture begins. -/
def acceptRungs (s : State) (g : Grp) (f : Nat) : State :=
  g.rungs.foldl
    (fun t p => (reachChan t p.2 f).modChan p.2 fun y => { y with counter := y.counter + 1, idr := false }) s

/-- ENC.LADDER (R111, R112, R117, R226, R239, R286, R289, R291). -/
def execEncLadder (f c : Nat) (s : State) : Res :=
  done s (issue 0x82 anyIns f c s fun t k x i =>
    match useHandle t x.hold [6] (x.hnd i.a), useHandle t x.hold [2, 3] (x.hnd i.b) with
    | some o, some p =>
      match tget t.vid.grp o.ref, t.buf p.ref with
      | some g, some b =>
        (match (tget g.rungs 0).bind t.chan with
         | none => faultJob t k St.operand
         | some y0 =>
           if !srcOk b || (!g.fixed && !rungsOk t g) then faultJob t k St.operand
           else if b.empty && !b.rows then ladderNow t k x i g y0.counter St.noPicture
           else if srcChroma t p.ref b ≠ y0.blk.chroma then ladderNow t k x i g y0.counter St.source
           else
             withEngine 3 false s t k x
               (let idr := g.rungs.any fun q => match t.chan q.2 with | some y => y.idr | none => false
                let pic := { (acceptPic t y0 p.ref).1 with ltrSet := none, loss := false, idr := idr }
                let early := if g.filled < y0.blk.look then some y0.counter else none
                let g1 := { g with fixed := true, look := g.look ++ [pic], filled := Nat.min y0.blk.look (g.filled + 1) }
                startWork (acceptRungs (t.setGrp o.ref g1) g1 f) k x i
                  { ctx := k, hold := x.hold, d := i.d, engine := true, fcls := 3, kind := .encLadder o.ref p.ref early }))
      | _, _ => faultJob t k St.handle
    | _, _ => faultJob t k St.handle)

/-- The outstanding ENC.LADDER `n` when it is the oldest of its group. -/
def ladderWork (s : State) (n : Nat) : Option (Nat × Nat × Option Word) :=
  match tget s.job.work n with
  | some w =>
    match w.kind with
    | .encLadder g src early =>
      if (s.job.work.all fun q => n ≤ q.1 || (match q.2.kind with | .encLadder g' .. => g' ≠ g | _ => true)) && !s.flt.safe then
        some (g, src, early)
      else none
    | _ => none
  | none => none

/-- ENC_LADDER_COMPLETE (R114, R226, R240, R284, R290): OK_QUEUED while the lookahead filled; else every rung has committed
or ended, and the status word says how. -/
def execEncLadderComplete (n : Nat) (q : PreIn) (s : State) : Res :=
  match ladderWork s n with
  | none => .next s
  | some (g, src, early) =>
    match tget s.vid.grp g with
    | none => .next s
    | some z =>
      match (tget z.rungs 0).bind s.chan with
      | none => .next s
      | some y0 =>
        let mine := z.look.find? fun p => p.work = n
        let void := match mine, s.buf src with | some p, some b => b.empty && !b.rows && p.src = some src | _, _ => false
        if void then
          done s (endWork (s.setGrp g { z with look := z.look.filter fun p => p.work ≠ n }) n
            (ladderStatus (z.rungs.map fun p => (p.1, St.noPicture)) y0.counter))
        else
          match early with
          | some v =>
            let (look, means, gone) := match mine with
              | some p => absorbIn s y0 z.look y0.means none (p.counter.toNat, q)
              | none => (z.look, y0.means, ([] : List Nat))
            let s1 := match tget z.rungs 0 with | some c => s.modChan c fun y => { y with means := means } | none => s
            let s2 := reapBufs (s1.setGrp g { z with look := look }) gone
            if copied look n then done s (endWork s2 n (statusWord St.queued (v.toNat * 65536))) else .next s2
          | none =>
            match z.coded with
            | r :: rest =>
              let s1 := r.foldl (fun t p => match tget z.rungs p.1 with | some c => showCoded t c p.2 | none => t)
                (s.setGrp g { z with coded := rest })
              let cnt := match tget r 0 with | some v => v.counter | none => 0
              done s (endWork s1 n (ladderStatus (r.map fun p => (p.1, p.2.code)) cnt))
            | [] => .next s

/-- ANALYZE (R112, R117, R175, R226, R239, R246, R287, R298). -/
def execAnalyze (f c : Nat) (s : State) : Res :=
  done s (issue 0x83 anyIns f c s fun t k x i =>
    match useHandle t x.hold [1] (x.hnd i.a), useHandle t x.hold [2, 3] (x.hnd i.b) with
    | some o, some p =>
      match t.chan o.ref, t.buf p.ref with
      | some y, some b =>
        if !y.blk.enc || y.grp.isSome || !srcOk b then faultJob t k St.operand
        else if y.st == .failed then endNow t k x i (statusWord St.unrecoverable 0)
        else if b.empty && !b.rows then endNow t k x i (statusWord St.noPicture 0)
        else if srcChroma t p.ref b ≠ y.blk.chroma then endNow t k x i (statusWord St.source 0)
        else
          withEngine 3 y.blk.live s t k x
            (startWork (reachChan t o.ref f) k x i
              { ctx := k, hold := x.hold, d := i.d, engine := true, fcls := 1, kind := .analyze o.ref p.ref, uses := [p.ref] })
      | _, _ => faultJob t k St.handle
    | _, _ => faultJob t k St.handle)

/-- The sections after an ANALYZE (R305, R309 to R312). -/
def analSecs (b : Blk) (p : LkPic) (q : PreIn) : Tab (List StatSec) :=
  let cols := cdiv b.width 64
  let rows := cdiv b.height 64
  [(0, [{ typ := 3, size := 8, cols := blk16 b.width, rows := blk16 b.height, recs := q.motion }]),
   (1, [{ typ := 0x10, size := 16, cols := cols, rows := rows,
          recs := (List.range (cols * rows)).map fun u =>
            cplxRec (unitSatd q true b.width b.height (u % cols) (u / cols))
              (if q.inter.isEmpty then 0xFFFFFFFF else unitSatd q false b.width b.height (u % cols) (u / cols)) 0 0
              (b2n (tgetD p.hdr.map u 0 ≠ 0) * 2) }]),
   (2, [secScene p b.width b.height (preCplx q false)]), (3, [secHist p.luma p.depth])]

/-- ANALYZE_COMPLETE (R114, R175, R226, R246, R305): the results are the channel's, its next ENC.PIC of the same picture takes
them, and the status word carries SCORE. -/
def execAnalyzeComplete (n : Nat) (q : PreIn) (s : State) : Res :=
  match tget s.job.work n with
  | some w =>
    match w.kind with
    | .analyze c src =>
      (match s.chan c, s.buf src with
       | some y, some b =>
         if s.flt.safe || b.rows then .next s
         else if y.st == .failed then done s (endWork s n (statusWord St.unrecoverable 0))
         else if b.empty then done s (endWork s n (statusWord St.noPicture 0))
         else
           let p := takeSource s y y.means none { counter := y.counter, src := some src, work := n } q
           let s1 := s.setChan c
             { y with anal := some (src, q), means := (p.mean :: y.means).take 3, statSrc := some 2,
                      statCnt := b.hdr.counter, statPts := b.hdr.pts, statType := b.hdr.ptype, statNref := 0,
                      statSec := analSecs y.blk p q, statW := y.blk.width, statH := y.blk.height }
           done s (endWork s1 n (statusWord St.ok (score q y.blk.width y.blk.height)))
       | _, _ => .next s)
    | _ => .next s
  | none => .next s

end Sys2Proof.Machine
end

