-- ==== Sys2Proof/Machine/Scale.lean ====
section
/-! DEFINITION. SCALE and CONVERT (R112 to R114, R293 to R303). -/

namespace Sys2Proof.Machine

/-- Width, height, chroma format and depth of a picture that an instruction may write (R176, R297, R298): a picture of the
pool of an open channel, or a formatted plain buffer. -/
def outShape (s : State) (b : Buf) : Option (Nat × Nat × Nat × Nat) :=
  if b.empty then none
  else if b.pic then (b.chan.bind s.chan).map fun y => (y.blk.width, y.blk.height, y.blk.chroma, y.blk.depth)
  else if b.formatted then
    some (tgetD b.par 0x210 0, tgetD b.par 0x211 0, tgetD b.par 0x212 0, tgetD b.par 0x213 0)
  else none

/-- The source window's size and chroma format as far as they are known: while rows are still produced, those of the
picture's producer (DEDUCED from R81). -/
def srcShape (s : State) (n : Nat) (b : Buf) : Nat × Nat × Nat :=
  if b.rows then
    match producer s n, outShape s b with
    | some y, _ => (y.blk.width, y.blk.height, y.blk.chroma)
    | none, some (w, h, c, _) => (w, h, c)
    | none, none => (b.hdr.ww, b.hdr.wh, b.hdr.chroma)
  else (b.hdr.ww, b.hdr.wh, b.hdr.chroma)

/-- Fields of a header that SCALE and CONVERT carry over (R297); those the rule does not name are as in a blank header
(log 37). `w` × `h`, chroma format and depth are the destination's. -/
def carryHdr (h0 : Hdr) (d : Colour) (w h chroma depth : Nat) (map : Tab Nat) (mv : Bool) : Hdr :=
  { ts := h0.ts, disc := h0.disc, pts := h0.pts, dts := h0.dts, counter := h0.counter, ptype := h0.ptype,
    cw := w, ch := h, ww := w, wh := h, sdepth := depth, chroma := chroma,
    prim := d.prim, trans := d.trans, matrix := d.matrix, range := d.range,
    flags := (h0.flags &&& 0b10111) + b2n mv * 8, grainBits := h0.grainBits, grain := h0.grain,
    concUnits := h0.concUnits, classes := h0.classes, worst := h0.worst, gleanSrc := h0.gleanSrc, mflags := h0.mflags,
    map := map }

/-- The colour description of a source (R304): its header's, or a buffer picture's COLOUR. -/
def srcColour (b : Buf) : Colour :=
  match (if b.pic then none else tget b.par 0x220) with
  | some v => descOf v
  | none => { prim := b.hdr.prim, trans := b.hdr.trans, matrix := b.hdr.matrix, range := b.hdr.range }

/-- A parameter of a destination (R304): its own, or its channel's. -/
def dstParam (s : State) (b : Buf) (id dflt : Nat) : Nat :=
  if b.pic then (match b.chan.bind s.chan with | some y => y.param id dflt | none => dflt) else tgetD b.par id dflt

/-- The highest value of the source units from `x0` to `x1`, `y0` to `y1` (R297). -/
def unitsMax (h : Hdr) (x0 x1 y0 y1 : Nat) : Nat :=
  maxL ((List.range (y1 - y0 + 1)).flatMap fun j => (List.range (x1 - x0 + 1)).map fun i =>
    tgetD h.map ((y0 + j) * cdiv h.cw 64 + x0 + i) 0)

/-- The error-region map of a destination of `dw` × `dh` from a source window (R297). -/
def scaleMap (h : Hdr) (x y w h' dw dh : Nat) : Tab Nat :=
  let cols := cdiv dw 64
  (List.range (cols * cdiv dh 64)).filterMap fun u =>
    let (ux, uy) := (u % cols * 64, u / cols * 64)
    let v := unitsMax h ((x + ux * w / dw) / 64) ((x + (Nat.min dw (ux + 64) * w - 1) / dw) / 64)
      ((y + uy * h' / dh) / 64) ((y + (Nat.min dh (uy + 64) * h' - 1) / dh) / 64)
    if v = 0 then none else some (u, v)

/-- A signed number of 16 bits. -/
def int16 (v : Nat) : Int := if v < 32768 then v else (v : Int) - 65536

/-- A motion record with its vectors scaled (R292, R297). -/
def scaleRec (w h dw dh : Nat) (r : List Byte) : List Byte :=
  let v := fun (off num den : Nat) => toLEi 2 (rdivAway (int16 (leAt r off 2) * num) den)
  v 0 dw w ++ v 2 dh h ++ v 4 dw w ++ v 6 dh h ++ r.drop 8

/-- The motion field of a destination: each block's record is that of the source block that covers its centre (R297). -/
def scaleMotion (b : Buf) (x y w h dw dh : Nat) : List (List Byte) :=
  (List.range (cdiv dh 16)).flatMap fun j => (List.range (cdiv dw 16)).map fun i =>
    let cx := (x + (16 * i + 8) * w / dw) / 16
    let cy := (y + (16 * j + 8) * h / dh) / 16
    scaleRec w h dw dh (b.motion.getD (cy * cdiv b.hdr.cw 16 + cx) [])

/-- SCALE and CONVERT (R81, R113, R117, R176, R226): the handles, the destination's shape, then `ok`, then an empty source,
then `now`, a status it ends with at once, then the engine. -/
def issueScale (op : Nat) (f c : Nat) (s : State)
    (ok : State → Ctx → Ins → Nat → Buf → Nat × Nat × Nat × Nat → Bool)
    (now : State → Buf → Buf → Option Nat) (kind : Ctx → Ins → Nat → Nat → WorkKind) : State :=
  issue op anyIns f c s fun t k x i =>
    match useHandle t x.hold [2, 3] (x.hnd i.a), useHandle t x.hold [2, 3] (x.hnd i.b) with
    | some o, some p =>
      match t.buf o.ref, t.buf p.ref with
      | some d, some b =>
        let void := b.empty && !b.rows
        (match outShape t d with
         | none => faultJob t k St.operand
         | some sh =>
           if !srcOk b || (!void && !ok t x i p.ref b sh) then faultJob t k St.operand
           else if void then endNow t k x i (statusWord St.noPicture 0)
           else
             match now t d b with
             | some code => endNow t k x i (statusWord code 0)
             | none =>
               withEngine 2 false s t k x
                 (startWork (t.modBuf o.ref fun b => { b with rows := true, rowsPub := 0 }) k x i
                   { ctx := k, hold := x.hold, d := i.d, engine := true, fcls := 1, kind := kind x i o.ref p.ref,
                     uses := [o.ref, p.ref] }))
      | _, _ => faultJob t k St.handle
    | _, _ => faultJob t k St.handle

/-- The source window of SCALE's extra word with CROP: x, y, width, height; width 0 without it. -/
def cropOf (x : Ctx) (i : Ins) : Nat × Nat × Nat × Nat :=
  if i.mod.testBit 1 then
    let w := extraWord x
    (fld w 0 16, fld w 16 16, fld w 32 16, fld w 48 16)
  else (0, 0, 0, 0)

/-- SCALE's geometry (R296): the crop lies in the display window, the chroma formats are equal and both ratios allowed. -/
def scaleOk (t : State) (x : Ctx) (i : Ins) (n : Nat) (b : Buf) (sh : Nat × Nat × Nat × Nat) : Bool :=
  let (dw, dh, dc, _) := sh
  let (sw, sh', sc) := srcShape t n b
  let (cx, cy, cw, ch) := cropOf x i
  let (w, h) := if i.mod.testBit 1 then (cw, ch) else (sw, sh')
  decide (cx + w ≤ sw) && decide (cy + h ≤ sh') && dc = sc && ratioOk w dw && ratioOk h dh &&
    decide (16 ≤ dw) && decide (16 ≤ dh)

/-- SCALE (R112, R113, R117, R176, R226, R296). -/
def execScale (f c : Nat) (s : State) : Res :=
  done s (issueScale 0x84 f c s scaleOk (fun _ _ _ => none) fun x i d b =>
    let (cx, cy, cw, ch) := cropOf x i
    .scale d b cx cy cw ch (i.mod.testBit 0))

/-- CONVERT's geometry equals the source window's (R300). -/
def convertOk (t : State) (_ : Ctx) (_ : Ins) (n : Nat) (b : Buf) (sh : Nat × Nat × Nat × Nat) : Bool :=
  let (sw, sh', _) := srcShape t n b
  sw = sh.1 && sh' = sh.2.1

/-- The two colour descriptions of CONVERT, each code 2 filled from the other side (R300). -/
def convertColours (s : State) (d b : Buf) : Colour × Colour :=
  let p := srcColour b
  let q := descOf (dstParam s d 0x220 0x20202)
  (fillDesc p q, fillDesc q p)

/-- CONVERT accepts the descriptions (R300). -/
def coloursOk (s : State) (d b : Buf) : Bool := let (p, q) := convertColours s d b; descOk p && descOk q

/-- CONVERT (R112, R113, R117, R226, R300). -/
def execConvert (f c : Nat) (s : State) : Res :=
  done s (issueScale 0x85 f c s convertOk
    (fun t d b => if !b.rows && !coloursOk t d b then some St.colour else none)
    fun _ i d b => .convert d b (i.mod.testBit 0))

/-- The outstanding SCALE or CONVERT ends with a status and writes nothing. -/
def scaleEnd (s : State) (n d code : Nat) : State :=
  endWork (s.modBuf d fun b => { b with rows := false }) n (statusWord code 0)

/-- The written destination's shape, its header's where its channel has closed meanwhile. -/
def shapeOf (s : State) (d : Buf) : Nat × Nat × Nat × Nat :=
  (outShape s d).getD (d.hdr.cw, d.hdr.ch, d.hdr.chroma, d.depth)

/-- The destination is whole: its samples, header and motion field are stored and its last row is published (R297). -/
def putPicture (s : State) (n d : Nat) (planes : List (List (List Nat))) (depth : Nat) (h : Hdr) (motion : List (List Byte)) :
    State :=
  endWork (s.modBuf d fun b =>
    { b with planes := planes, depth := depth, hdr := h, motion := if b.pic then motion else b.motion, rows := false,
             rowsPub := h.ch }) n (statusWord St.ok 0)

/-- SCALE_COMPLETE (R8, R114, R226, R293 to R297): the source is there; the destination is its window at its own size. -/
def execScaleComplete (n : Nat) (s : State) : Res :=
  match tget s.job.work n with
  | some w =>
    match w.kind with
    | .scale d src cx cy cw ch _ =>
      (match s.buf d, s.buf src with
       | some o, some b =>
         if s.flt.safe || b.rows then .next s
         else if b.empty then done s (scaleEnd s n d St.noPicture)
         else
           let (dw, dh, dc, dd) := shapeOf s o
           let h := b.hdr
           let (x, y, sw, sh) := if cw = 0 then (h.wx, h.wy, h.ww, h.wh) else (h.wx + cx, h.wy + cy, cw, ch)
           let pl := storePlanes dc dd (scalePlanes dc sw sh dw dh (windowOf b x y sw sh))
           let mv := o.pic && h.flags.testBit 3
           done s (putPicture s n d pl dd (carryHdr h (srcColour b) dw dh dc dd (scaleMap h x y sw sh dw dh) mv)
             (if mv then scaleMotion b x y sw sh dw dh else []))
       | _, _ => .next s)
    | _ => .next s
  | none => .next s

/-- Steps 1 to 9 of R301 on planes at 20 bits, and how many free values it takes (R303). -/
def convertPlanes (free : Nat) (p q : Colour) (white peak fs fd w h : Nat) (l : List (List (List Nat))) :
    List (List (List Nat)) × Nat :=
  if colourSteps p q then
    let v := toChroma fs 3 w h l
    let at_ := fun k r c => ((v.getD k []).getD r []).getD c 0
    let out := fun k => (List.range h).map fun r => (List.range w).map fun c =>
      let e := if p.matrix = 2 || (p.trans = 2 && p.prim ≠ q.prim) then none else colourSample p q white peak (at_ 0 r c) (at_ 1 r c) (at_ 2 r c)
      nearSample (e.map fun t => t.getD k 0) (Config.freeValue (free + 3 * (r * w + c) + k))
    (toChroma 3 fd w h [out 0, out 1, out 2], 3 * w * h)
  else
    let m := if p.range = q.range then l
      else l.zipIdx.map fun x => x.1.map fun r => r.map (rangeSample p.range q.range (x.2 = 0))
    (toChroma fs fd w h m, 0)

/-- CONVERT_COMPLETE (R8, R114, R226, R297, R300 to R303). -/
def execConvertComplete (n : Nat) (s : State) : Res :=
  match tget s.job.work n with
  | some w =>
    match w.kind with
    | .convert d src _ =>
      (match s.buf d, s.buf src with
       | some o, some b =>
         if s.flt.safe || b.rows then .next s
         else if b.empty then done s (scaleEnd s n d St.noPicture)
         else if !coloursOk s o b then done s (scaleEnd s n d St.colour)
         else
           let (dw, dh, dc, dd) := shapeOf s o
           let h := b.hdr
           let (p, q) := convertColours s o b
           let (pl, k) := convertPlanes s.free p q (dstParam s o 0x222 203) (dstParam s o 0x221 1000) h.chroma dc dw dh
             (windowOf b h.wx h.wy dw dh)
           let mv := o.pic && h.flags.testBit 3
           done s (putPicture { s with free := s.free + k } n d (storePlanes dc dd pl) dd
             (carryHdr h q dw dh dc dd (scaleMap h h.wx h.wy dw dh dw dh) mv) (if mv then b.motion else []))
       | _, _ => .next s)
    | _ => .next s
  | none => .next s

end Sys2Proof.Machine
end

