-- ==== Sys2Proof/Machine/Moves.lean ====
section
/-! DEFINITION. Data movement of jobs (R115, R148, R153, R181, R360 to R362, R480): XFER, FILL, PACK. A move's bytes are
read, then written, when the move finishes. -/

namespace Sys2Proof.Machine

/-- Bytes before the first poisoned burst of a range; none when none is poisoned (R365, R403). -/
def cleanBytes (s : State) (h off len : Nat) : Option Nat :=
  if devPoison s h off len then
    (List.range len).find? fun i => devPoison s h (off + i) 1
  else none

/-- What a move reads of a place: the bytes up to a failure, and the status it ends with. None while it cannot be known: a
granule is not mapped yet (R390), or the command brings no bytes of that length. -/
def moveRead (s : State) (h : Nat) (p : Place) (len : Nat) (m : MoveIn) : Option (List Byte × Nat) :=
  match p with
  | .dev off =>
    if !devMapped s h off len then none
    else
      match cleanBytes s h off len with
      | some n => some (readDev s h off n, St.poison)
      | none => some (readDev s h off len, St.ok)
  | .host _ => if m.data.length = len then some (m.data, St.ok) else none
  | .remote a =>
    match remoteAt s h a len with
    | none => some ([], St.remote)
    | some (q, _, _) =>
      if !(s.bp q).up then some ([], St.remote)
      else if m.rem ≠ 0 then some ([], m.rem)
      else if m.data.length = len then some (m.data, St.ok) else none

/-- The frames of a remote access whose answers come within the move (log 39): they are sent and nothing is kept for
replay. -/
def sendFrames (s : State) (q typ : Nat) (l : List (List Byte)) : State :=
  l.foldl (fun t b => (t.emit (.baulk q typ (t.bp q).tx b)).modBp q fun y => { y with tx := (y.tx + 1) % 4096 }) s

/-- The READ_REQ frames of a remote source (R477). -/
def readFrames (s : State) (h : Nat) (p : Place) (len : Nat) : State :=
  match p with
  | .remote a =>
    (match remoteAt s h a len with
     | some (q, e, off) =>
       if (s.bp q).up then
         sendFrames s q 3 ((List.range (cdiv len 4096)).map fun i =>
           toLE 8 e ++ toLE 8 (off + 4096 * i) ++ toLE 8 (Nat.min 4096 (len - 4096 * i)))
       else s
     | none => s)
  | _ => s

/-- Write a move's bytes: the state and the status. None while a granule is not mapped. `rem` is the exporting device's
answer. -/
def moveWrite (s : State) (h : Nat) (p : Place) (bs : List Byte) (rem : Nat) : Option (State × Nat) :=
  match p with
  | .dev off => if devMapped s h off bs.length then some (writeDev s h off bs, St.ok) else none
  | .host a => if bs.isEmpty then some (s, St.ok) else some (s.emit (.hostWrite h a bs), St.ok)
  | .remote a =>
    match remoteAt s h a bs.length with
    | none => some (s, St.remote)
    | some (q, e, off) =>
      if !(s.bp q).up then some (s, St.remote)
      else
        some (sendFrames s q 2 ((List.range (cdiv bs.length 256)).map fun i =>
          toLE 8 e ++ toLE 8 (off + i * 256) ++ (bs.drop (i * 256)).take 256), rem)

/-- Bytes that a move takes from or gives to host memory (HC_DMA_BYTES, R448). -/
def hostBytes (p : Place) (n : Nat) : Nat := match p with | .host _ => n | _ => 0

/-- Count host DMA bytes of a holding. -/
def countDma (s : State) (h n : Nat) : State := if n = 0 then s else s.addq0 h B.hcDma n

/-- The places overlap in device memory, and are not one place. -/
def overlaps (a b : Place) (len : Nat) : Bool :=
  match a, b with
  | .dev x, .dev y => x ≠ y && decide (x < y + len) && decide (y < x + len)
  | _, _ => false

/-- Free bytes: what a copy between overlapping ranges leaves, which the spec does not state (log 12). -/
def freeBytes (s : State) (n : Nat) : List Byte × State :=
  ((List.range n).map fun i => (Config.freeValue (s.free + i)).setWidth 8, { s with free := s.free + n })

/-- A whole move: read, write, count, and the flushing read of BF (R153). -/
def moveAll (s : State) (h : Nat) (dst src : Place) (len : Nat) (bf : Bool) (m : MoveIn) : Option (State × Nat) :=
  match moveRead s h src len m with
  | none => none
  | some (bs, code) =>
    let s1 := countDma (readFrames s h src len) h (hostBytes src bs.length)
    let (out, s2) := if overlaps dst src len then freeBytes s1 bs.length else (bs, s1)
    (match moveWrite s2 h dst out m.rem with
     | none => none
     | some (s3, c2) =>
       let s4 := countDma s3 h (hostBytes dst out.length)
       let s5 := match dst with | .host _ => if bf then s4.emit (.flushRead h) else s4 | _ => s4
       some (s5, if code = St.ok then c2 else code))

/-- What the context remembers of a move's unfenced writes (R101, R482). -/
def noteMove (s : State) (h k : Nat) (p : Place) : State :=
  match p with
  | .host _ => s.modCtx k fun x => { x with ports := x.ports ||| 4 }
  | .remote a => (match remoteAt s h a 0 with
    | some (q, _, _) => s.modCtx k fun x => { x with bports := x.bports ||| 2 ^ (3 + q) }
    | none => s)
  | .dev _ => s

/-- A place that a move may use (R76, R480). -/
def movePlace (s : State) (h : Nat) (a : DWord) (len : Nat) : Option Place :=
  match place s h a len with
  | some (.remote r) => if (remoteAt s h r len).isSome then some (.remote r) else none
  | p => p

/-- XFER (R115, R76, R480): both ends and the whole length are checked at issue. -/
def execXfer (f c : Nat) (s : State) : Res :=
  .next (issue 0xC0 anyIns f c s fun t k x i =>
    let len := i.imm.toNat
    let (d, b) := (x.gr i.a, x.gr i.b)
    if len = 0 then faultJob t k St.operand
    else
      match movePlace t x.hold d len, movePlace t x.hold b len with
      | some _, some _ =>
        startWork t k x i { ctx := k, hold := x.hold, d := i.d, engine := false, fcls := 2,
                            kind := .xfer d b len (i.mod.testBit 0) (nfld i.mod 1 2) }
      | _, _ => faultJob t k St.bounds)

/-- FILL (R115, R76, R480). -/
def execFill (f c : Nat) (s : State) : Res :=
  .next (issue 0xC1 anyIns f c s fun t k x i =>
    let len := i.imm.toNat
    if len = 0 then faultJob t k St.operand
    else
      match movePlace t x.hold (x.gr i.a) len with
      | some _ =>
        startWork t k x i { ctx := k, hold := x.hold, d := i.d, engine := false, fcls := 2,
                            kind := .fill (x.gr i.a) (x.gr i.b) len (i.mod.testBit 0) (nfld i.mod 1 2) }
      | none => faultJob t k St.bounds)

/-! PACK (R181). -/

/-- The planes of a picture in packed-linear order: samples in a row, rows. -/
def packShape (h : Hdr) : List (Nat × Nat) :=
  match h.chroma with
  | 0 => [(h.ww, h.wh)]
  | 3 => [(h.ww, h.wh), (h.ww, h.wh), (h.ww, h.wh)]
  | c => [(h.ww, h.wh), (2 * chromaW c h.ww, chromaH c h.wh)]

/-- Bytes of a sample (R181). -/
def packBytes (depth : Nat) : Nat := if depth = 8 then 1 else 2

/-- Bytes of a plane's row, its stride, and its rows. -/
def packRows (b : Buf) (stride : Nat) : List (Nat × Nat × Nat) :=
  (packShape b.hdr).map fun p => let n := p.1 * packBytes b.depth; (n, if stride = 0 then n else stride, p.2)

/-- Where each row of a plane starts, from the address of the picture: (plane, row, offset, bytes). -/
def packPlan (b : Buf) (stride : Nat) : List (Nat × Nat × Nat × Nat) :=
  ((packRows b stride).zipIdx.foldl
    (fun (a : Nat × List (Nat × Nat × Nat × Nat)) p =>
      let (n, st, rows) := p.1
      (a.1 + st * rows, a.2 ++ (List.range rows).map fun r => (p.2, r, a.1 + st * r, n))) (0, [])).2

/-- Bytes from the picture's first to its last. -/
def packSpan (b : Buf) (stride : Nat) : Nat := maxL ((packPlan b stride).map fun p => p.2.2.1 + p.2.2.2)

/-- The column of a window's first sample in a stored plane, and its first row. -/
def packOrigin (h : Hdr) (p : Nat) : Nat × Nat :=
  if p = 0 || h.chroma = 3 then (h.wx, h.wy)
  else (h.wx / 2 * 2, if h.chroma = 1 then h.wy / 2 else h.wy)

/-- The bytes of one row of a picture: its stored samples, or those with film grain (R210). -/
def packRow (b : Buf) (m : MoveIn) (p r n : Nat) : List Byte :=
  let (x, y) := packOrigin b.hdr p
  let pl := if b.hdr.flags.testBit 2 then m.planes else b.planes
  let bytes := packBytes b.depth
  (List.range (n / bytes)).flatMap fun c => toLE bytes (sampleAt pl p (y + r) (x + c))

/-- The samples of a row that PACK.IN takes: bits above the depth are ignored (R181). -/
def unpackRow (depth : Nat) (bs : List Byte) : List Nat :=
  let n := packBytes depth
  (List.range (bs.length / n)).map fun c => leAt bs (c * n) n % 2 ^ depth

/-- A plane with a row of samples put at a column. -/
def putSamples (l : List Nat) (x : Nat) (v : List Nat) : List Nat :=
  (List.range (Nat.max l.length (x + v.length))).map fun c =>
    if x ≤ c && c < x + v.length then v.getD (c - x) 0 else l.getD c 0

/-- Planes with one row put. -/
def putRowAt (pl : List (List (List Nat))) (p y x : Nat) (v : List Nat) : List (List (List Nat)) :=
  let rows := fun (q : List (List Nat)) =>
    (List.range (Nat.max q.length (y + 1))).map fun r => if r = y then putSamples (q.getD r []) x v else q.getD r []
  (List.range (Nat.max pl.length (p + 1))).map fun k => if k = p then rows (pl.getD k []) else pl.getD k []

/-- PACK and PACK.IN at issue (R115, R117, R181, R226, R480). -/
def issuePack (inn : Bool) (f c : Nat) (s : State) : State :=
  issue 0xC4 (fun i => i.mod.testBit 0 = inn) f c s fun t k x i =>
    match useHandle t x.hold [2, 3] (x.hnd i.a) with
    | none => faultJob t k St.handle
    | some o =>
      match t.buf o.ref with
      | none => faultJob t k St.handle
      | some b =>
        let stride := i.imm.toNat
        let a := x.gr i.b
        if !srcOk b || (inn && !b.empty && (outShape t b).isNone) then faultJob t k St.operand
        else if b.empty then endNow t k x i (statusWord St.noPicture 0)
        else if b.depth = 20 || (packRows b stride).any (fun p => decide (p.2.1 < p.1)) then faultJob t k St.operand
        else
          match place t x.hold a (packSpan b stride) with
          | some (.remote _) | none => faultJob t k St.bounds
          | some _ =>
            withEngine 2 false s t k x
              (startWork t k x i { ctx := k, hold := x.hold, d := i.d, engine := true, fcls := 2, uses := [o.ref],
                                   kind := .pack o.ref a stride inn (i.mod.testBit 1) (nfld i.mod 2 2) })

/-- PACK (R115, R181). -/
def execPack (f c : Nat) (s : State) : Res := done s (issuePack false f c s)
/-- PACK.IN (R115, R181). -/
def execPackIn (f c : Nat) (s : State) : Res := done s (issuePack true f c s)

/-- The place at an offset from a place. -/
def Place.at_ (p : Place) (n : Nat) : Place :=
  match p with | .dev o => .dev (o + n) | .host o => .host (o + n) | .remote o => .remote (o + n)

/-- PACK's rows to their places; none while a granule is not mapped. -/
def packOut (s : State) (h : Nat) (b : Buf) (p : Place) (stride : Nat) (m : MoveIn) : Option State :=
  (packPlan b stride).foldl
    (fun (o : Option State) r =>
      o.bind fun t =>
        let bs := packRow b m r.1 r.2.1 r.2.2.2
        (moveWrite t h (p.at_ r.2.2.1) bs 0).map fun u => countDma u.1 h (hostBytes p bs.length)) (some s)

/-- PACK.IN's picture from the bytes of the whole span. -/
def packIn (b : Buf) (stride : Nat) (bs : List Byte) : Buf :=
  let pl := (packPlan b stride).foldl
    (fun pl r =>
      let (x, y) := packOrigin b.hdr r.1
      putRowAt pl r.1 (y + r.2.1) x (unpackRow b.depth (slice bs r.2.2.1 r.2.2.2))) b.planes
  { b with planes := pl }

/-- A move ends: a BF flush of host writes, what the context remembers, and the status. -/
def moveEnd (s : State) (n : Nat) (w : Work) (dst : Place) (code : Nat) : State :=
  endWork (noteMove s w.hold w.ctx dst) n (statusWord code 0)

/-- One move of outstanding instruction `n`; none while it cannot finish. -/
def moveDone (s : State) (n : Nat) (w : Work) (m : MoveIn) : Option State :=
  match w.kind with
  | .xfer d b len bf _ =>
    (match place s w.hold d len, place s w.hold b len with
     | some p, some q => (moveAll s w.hold p q len bf m).map fun r => moveEnd r.1 n w p r.2
     | _, _ => some (endWork s n (statusWord St.bounds 0)))
  | .fill d pat len bf _ =>
    (match place s w.hold d len with
     | some p =>
       let bs := (List.range len).map fun i => BitVec.ofNat 8 (pat.toNat >>> (8 * (i % 8)))
       (moveWrite s w.hold p bs m.rem).map fun r =>
         let s1 := countDma r.1 w.hold (hostBytes p len)
         moveEnd (match p with | .host _ => if bf then s1.emit (.flushRead w.hold) else s1 | _ => s1) n w p r.2
     | none => some (endWork s n (statusWord St.bounds 0)))
  | .pack b a stride inn bf _ =>
    (match s.buf b with
     | none => some (endWork s n (statusWord St.noPicture 0))
     | some x =>
       let span := packSpan x stride
       match place s w.hold a span with
       | none => some (endWork s n (statusWord St.bounds 0))
       | some p =>
         if inn then
           (match moveRead s w.hold p span m with
            | none => none
            | some (bs, code) =>
              let s1 := countDma s w.hold (hostBytes p bs.length)
              some (endWork (if code = St.ok then s1.setBuf b (packIn x stride bs) else s1) n (statusWord code 0)))
         else
           (packOut s w.hold x p stride m).map fun s1 =>
             moveEnd (match p with | .host _ => if bf then s1.emit (.flushRead w.hold) else s1 | _ => s1) n w p St.ok)
  | _ => none

/-- The DMA priority of a move (R115, R360); none for an instruction that is no move. -/
def movePrio (k : WorkKind) : Option Nat :=
  match k with | .xfer _ _ _ _ p | .fill _ _ _ _ p | .pack _ _ _ _ _ p => some p | _ => none

/-- The starvation turn of a priority's channels ends with the move that took it (R361). -/
def endTurn (s : State) (k : WorkKind) : State :=
  { s with dma := { s.dma with turn := s.dma.turn.filter fun c => 16 ≤ c || movePrio k ≠ some (c / 4) } }

/-- DMA_MOVE_COMPLETE (R80, R153, R181, R365, R480): an XFER, FILL or PACK finishes its data, with BF its flushing read,
and writes its status. The moves of a cancelled job write nothing (R36). -/
def execDmaMoveComplete (n : Nat) (m : MoveIn) (s : State) : Res :=
  match tget s.job.work n with
  | none => .next s
  | some w =>
    if s.flt.safe || (movePrio w.kind).isNone then .next s
    else if w.ctx = noCtx then done s (endWork s n 0)
    else
      match moveDone s n w m with
      | some s1 => done s (endTurn s1 w.kind)
      | none => .next s

end Sys2Proof.Machine
end

