-- ==== Sys2Proof/Machine/Power.lean ====
section
/-! DEFINITION. The commands of the Yoke, clocks and power levels (18). -/

namespace Sys2Proof.Machine

/-- LTOL_MIN (R412): the smallest LTOL_US among ACTIVE holdings with an open channel or an enabled queue. -/
def ltolMin (s : State) : Option Nat :=
  s.hold.foldl
    (fun m p =>
      let uses := (s.vid.chan.any fun c => c.2.hold == p.1) ||
        (s.job.sq.any fun q => q.1 / 1024 == p.1 && q.2.enable)
      if p.2.st == .active && uses then
        let l := fld (s.r0 p.1 B.fnLtol) 0 20
        some (match m with | some v => Nat.min v l | none => l)
      else m) none

/-- A latency is within LTOL_MIN. -/
def withinLtol (s : State) (us : Nat) : Bool := match ltolMin s with | some l => decide (us ≤ l) | none => true

/-- Exit latencies of the uncore levels, in µs (R411). -/
def plExit (l : Nat) : Nat := [0, 2, 20, 2000, 25000].getD l 25000
/-- Exit latencies of the Field states, in µs; that of FS1 is below one (R410). -/
def fsExit (l : Nat) : Nat := [0, 0, 12, 60, 400].getD l 400

/-- The deepest uncore level now allowed (R412). -/
def deepestPl (s : State) : Nat :=
  let m := Nat.min 4 (fld (s.r2 A.pwrLimit) 0 3)
  ((List.range (m + 1)).filter fun l => withinLtol s (plExit l)).getLast?.getD 0

/-- A Drill context of the Field is busy. -/
def drillBusy (s : State) (f : Nat) : Bool := s.job.ctx.any fun p => p.1 / 32 == f

/-- The deepest state a Field may enter (R412); FS1 is always allowed. -/
def deepestFs (s : State) (f : Nat) : Nat :=
  let m := Nat.min 4 (fld (s.r2 A.pwrLimit) 4 3)
  let home := s.vid.chan.any fun c => c.2.home == f
  if home || drillBusy s f then
    let ok := (List.range (m + 1)).filter fun l => withinLtol s (fsExit l + plExit (deepestPl s))
    Nat.max 1 (ok.getLast?.getD 0)
  else Nat.max 1 m

/-- A Field holds a grant. -/
def fieldGranted (s : State) (f : Nat) : Bool := s.yoke.grants.any fun g => g.field == f

/-- YOKE_GRANT_ADMIT: the waiting requests are tested in the order of R422, `aged` naming those that have waited 1 ms;
those that fit are admitted, those of groups 1 to 3 within quota that do not recall borrowed grants (R424), and PEAK
upgrades come last. -/
def execYokeGrantAdmit (aged : List Nat) (s : State) : Res :=
  let s1 := recallPass (admitPass aged s)
  done s (envAdvance (if s1.yoke.reqs.any fun r => aged.contains r.key then s1 else upgradePass s1))

/-- A channel of an outstanding instruction of a job context is live-link. -/
def ctxLive (s : State) (key : Nat) : Bool :=
  s.job.work.any fun w => w.2.ctx == key &&
    (match w.2.kind with
     | .decPic c .. | .encPic c .. | .analyze c .. =>
       (match tget s.vid.chan c with | some x => x.blk.live | none => false)
     | _ => false)

/-- YOKE_RECALL_DONE: the recalled job's grant returns, RECALL sets, the job asks again, and what still does not fit
recalls more (R424). -/
def execYokeRecallDone (key : Nat) (s : State) : Res :=
  if s.yoke.recalls.contains key then
    let k := grantCtx key
    let s1 := releaseGrant s key
    let s2 := match tget s1.job.ctx k with
      | some x =>
        let y : Ctx := if key < 256 then { x with granted := false }
          else if key < 1024 && x.wait == .none then { x with wait := .base } else x
        let f := if 1024 ≤ key then key % 8 else k / 32
        (askGrant s1 { key := key, field := f, hold := x.hold, cls := x.cls, live := ctxLive s1 k, fallow := 0 }).setCtx k y
      | none => s1
    done s (envAdvance (recallPass (devEvent s2 A.yokeEvent 1 1316)))
  else .next s

/-- RAMP_STEP: the oldest cost has been covered, and its clock step, start or enabling takes place (R421). -/
def execRampStep (s : State) : Res :=
  match s.yoke.ramp with
  | [] => .next s
  | r :: rest =>
    let s1 := s.setYoke { s.yoke with ramp := rest }
    let s2 := if r.unit < 8 then
        (if r.clk = 0 then s1 else s1.modFs r.unit fun x => { x with clk := Nat.min r.clk (targetClk s1 (envActive s1) r.unit) })
      else s1.setYoke { s1.yoke with plls := insNat s1.yoke.plls r.unit }
    done s (match r.key with | some k => grantProceed s2 k | none => s2)

/-- FIELD_IDLE_TIMER: a Field with no grant and no busy context enters FS`l`, or one state short of what the depth rule
refuses (R410, R412). -/
def execFieldIdleTimer (f l : Nat) (s : State) : Res :=
  let x := s.fs f
  let t := Nat.min l (deepestFs s f)
  if f < 8 && 2 ≤ l && l ≤ 4 && !fieldGranted s f && !drillBusy s f && !x.waking && x.fs < t then
    .next (s.modFs f fun x => { x with fs := t, pllStop := x.clk ≠ 0 })
  else .next s

/-- FIELD_WAKE_DONE: a waking Field has completed its exit latency and issues work (R410, R463). -/
def execFieldWakeDone (f : Nat) (s : State) : Res :=
  if (s.fs f).waking then
    let s1 := s.modFs f fun x => { x with waking := false, fs := 1 }
    .next { s1 with job := { s1.job with ctx := tmap s1.job.ctx fun k x =>
      if k / 32 = f && x.wait == .base && (s1.yoke.grants.any fun g => g.key == k + 512) &&
         !(s1.yoke.ramp.any fun r => r.key == some (k + 512)) then { x with wait := .none } else x } }
  else .next s

/-- A user of an uncore PLL remains (R408, R409). -/
def pllUser (s : State) (i : Nat) : Bool :=
  let quadOn := fun q => fld (s.r2 (A.ingQuad q)) 0 2 ≠ 0 &&
    ((List.range 4).any fun k => bit (s.r2 (A.ingPortCtrl (q * 4 + k))) 0)
  match i with
  | 9 => s.yoke.pl ≤ 1
  | 10 => quadOn 0
  | 11 => quadOn 1
  | 12 => (List.range 3).any fun p => bit (s.r2 (A.bkPortCtrl p)) 0
  | 13 => (s.hp 0).up && (s.hp 0).clx != .cl2
  | 14 => (s.hp 1).up && (s.hp 1).clx != .cl2
  | _ => s.yoke.pl ≤ 3

/-- PLL_STOP_TIMER: 10 µs after its last user released it the PLL stops (R409). -/
def execPllStopTimer (k : Nat) (s : State) : Res :=
  if k < 8 then
    if (s.fs k).pllStop && !fieldGranted s k then .next (s.modFs k fun x => { x with clk := 0, pllStop := false })
    else .next s
  else if s.yoke.plls.contains k && !pllUser s k then
    .next (s.setYoke { s.yoke with plls := remNat s.yoke.plls k, pllIdle := remNat s.yoke.pllIdle k })
  else .next s

/-- A PLL runs. -/
def pllRuns (s : State) (i : Nat) : Bool := if i < 8 then (s.fs i).clk ≠ 0 else s.yoke.plls.contains i

/-- PLL_LOCK_LOSS: a running PLL loses lock; its users stop, and PLL_LOCK is raised with the PLL in INFO1 (R409,
R431). -/
def execPllLockLoss (k : Nat) (s : State) : Res :=
  if pllRuns s k && !s.yoke.unlocked.contains k then
    done s ((setCause (s.setYoke { s.yoke with unlocked := insNat s.yoke.unlocked k }) 3 true).raise { src := 3, info1 := k })
  else .next s

/-- PLL_RELOCK: the PLL locks again and its users resume; the cause ends with the last unlocked PLL (R409). -/
def execPllRelock (k : Nat) (s : State) : Res :=
  if s.yoke.unlocked.contains k then
    let s1 := s.setYoke { s.yoke with unlocked := remNat s.yoke.unlocked k }
    .next (if s1.yoke.unlocked.isEmpty then setCause s1 3 false else s1)
  else .next s

/-- Every rank of every DRAM channel is in power-down (R397, R411). -/
def allRanksDown (s : State) : Bool :=
  (List.range 16).all fun c => (List.range s.drm.ranks).all fun r => s.drm.pd.contains (c * 2 + r)

/-- The DMA engine is idle. -/
def dmaIdle (s : State) : Bool :=
  !(s.dma.ring.any fun r => r.2.run) &&
    !(s.job.work.any fun w => match w.2.kind with | .xfer .. | .fill .. | .pack .. | .stats .. => true | _ => false)

/-- The condition of an uncore level (R411), as far as State shows it. -/
def plCond (s : State) (l : Nat) : Bool :=
  let allFs := fun n => (List.range 8).all fun f => n ≤ (s.fs f).fs
  let noPort := !((List.range 8).any fun p => bit (s.r2 (A.ingPortCtrl p)) 0) &&
    !((List.range 3).any fun p => bit (s.r2 (A.bkPortCtrl p)) 0)
  match l with
  | 1 => allRanksDown s
  | 2 => allFs 2 && dmaIdle s
  | 3 => allFs 3 && dmaIdle s && noPort
  | 4 => allFs 4 && dmaIdle s && noPort
  | _ => false

/-- The requests for CL2 on the ports whose connection manager has enabled it (R46, R411). -/
def askCl2s (s : State) : State :=
  [0, 1].foldl (fun t p => if (t.hp p).up && bit (t.hp p).clxEn 2 then t.emit (.askCl2 p) else t) s

/-- UNCORE_LEVEL_ENTRY: the condition of a deeper level has held for its time and the level is allowed (R411, R412).
At PL3 the ranks go to deep self-refresh, the network and Baulk SerDes stop, and CL2 is requested; at PL4 the uncore PLL
stops too (R408). -/
def execUncoreLevelEntry (l : Nat) (s : State) : Res :=
  if s.yoke.pl < l && l ≤ deepestPl s && plCond s l && s.yoke.wake.isNone then
    let s1 := s.setYoke { s.yoke with pl := l, gpioOff := (s.yoke.gpioOff || l == 4), plls := if l = 4 then remNat s.yoke.plls 8 else s.yoke.plls }
    .next (if 3 ≤ l && s.yoke.pl < 3 then
        askCl2s { s1 with drm := { s1.drm with self := true, row := [] },
                          yoke := { s1.yoke with plls := (s1.yoke.plls.filter fun i => i < 9 || 12 < i) } }
      else s1)
  else .next s

/-- UNCORE_WAKE: a request needs level `l` or higher, and the uncore wakes to it (R411). -/
def execUncoreWake (l : Nat) (s : State) : Res :=
  if l < s.yoke.pl then
    .next (s.setYoke { s.yoke with wake := some (match s.yoke.wake with | some w => Nat.min w l | none => l) })
  else .next s

/-- UNCORE_WAKE_DONE: the uncore reaches the level, its PLLs running (R408); after PL4 nanosecond counting resumes and DTB_COARSE sets (R413). -/
def execUncoreWakeDone (s : State) : Res :=
  match s.yoke.wake with
  | none => .next s
  | some l =>
    let was := s.yoke.pl
    let up := fun (n : Nat) (b : Bool) (x : List Nat) => if b then insNat x n else x
    let run := up 9 (l ≤ 1) (up 8 (was = 4 && l < 4) s.yoke.plls)
    let s1 := s.setYoke { s.yoke with pl := l, gpioOff := (s.yoke.gpioOff && l != 0), wake := none, plls := run }
    let s2 := if 3 ≤ was && l < 3 then { s1 with drm := { s1.drm with self := false } } else s1
    done s (if was = 4 && l < 4 then devEvent s2 A.yokeEvent 7 1316 else s2)

/-- ENVELOPE_CHANGE: a write of PWR_ENVELOPE.ENV (R414, R415 step 1); ignored while BUSY, and with 3. -/
def execEnvelopeChange (w : Nat) (v : Word) (s : State) : Res :=
  done s (adminWrite s w fun s =>
    let e := fld v 0 2
    if bit (s.r2 A.pwrEnvelope) 3 || e = 3 then s
    else
      let s1 := (s.put2 A.pwrEnvelope 0 2 e).put2 A.pwrEnvelope 3 1 1
      let s2 := s1.setYoke { s1.yoke with change := some (e, 1) }
      envAdvance (if envTotal s2 e ≤ ceiling s2 then s2 else recallFor s2 (envTotal s2 e - ledger s2)))

/-- A change of envelope is abandoned: BUSY clears and ENV_FAIL sets (R415). -/
def envAbandon (s : State) : State :=
  let s1 := (s.put2 A.pwrEnvelope 3 1 0).setYoke { s.yoke with change := none }
  devEvent s1 A.yokeEvent 5 1316

/-- ENVELOPE_FIT_TIMEOUT: 10 ms without fitting the new figures (R415 step 1). -/
def execEnvelopeFitTimeout (s : State) : Res :=
  match s.yoke.change with
  | some (_, 1) => done s (envAbandon s)
  | _ => .next s

/-- The clock steps by which a Field climbs to the clock of an envelope (R415 step 4, R421). -/
def climb (s : State) (e f : Nat) : List Ramp :=
  let now := (s.fs f).clk
  if now = 0 then [] else (List.range (targetClk s e f - now)).map fun i =>
    { unit := f, cost := envStepCost s e f (now + i), clk := now + i + 1 }

/-- A Field whose rise of clock does not fit under the ceiling stays at its present clock, and rises as a throttled one does
(R418, log 58). -/
def envRaise (s : State) (e : Nat) : State :=
  (List.range 8).foldl
    (fun t f =>
      let c := (t.fs f).clk
      if c = 0 || envTop t e (f + 1) ≤ ceiling t then t
      else t.modFs f fun x => { x with throttle := x.throttle + (targetClk t e f - c) }) s

/-- VOUT_POLL: READ_VOUT is `mv`; within 10 mV of the request the change goes on to raise what it raises (R415 steps 3
and 4). -/
def execVoutPoll (mv : Nat) (s : State) : Res :=
  match s.yoke.change with
  | some (e, 3) =>
    if mv ≤ envVolt e + 10 && envVolt e ≤ mv + 10 then
      let s1 := if e ≠ 0 && envActive s = 0 then s.put2 A.drcCfg 5 1 (b2n (dramRun6400 s e)) else s
      let s2 := envRaise s1 e
      .next (s2.setYoke { s2.yoke with change := some (e, 4), ramp := s2.yoke.ramp ++ (List.range 8).flatMap (climb s2 e) })
    else .next s
  | _ => .next s

/-- VOUT_SETTLE_TIMEOUT: the old voltage is requested again, VOUT and ENV_FAIL set (R415 step 3). What step 2 lowered goes
back: the memory to the rate, the Fields to the clock of the envelope in force (log 58). -/
def execVoutSettleTimeout (s : State) : Res :=
  match s.yoke.change with
  | some (_, 3) =>
    let e := envActive s
    let s1 := (askVolt s (envVolt e)).put2 A.drcCfg 5 1 (b2n (dramRun6400 s e))
    let s2 := s1.setYoke { s1.yoke with ramp := s1.yoke.ramp ++ (List.range 8).flatMap (climb s1 e) }
    done s (envAbandon (devEvent s2 A.yokeEvent 6 1316))
  | _ => .next s

/-- ENVELOPE_CHANGE_DONE: the grants take the new figures, ACTIVE takes the new value, BUSY clears, ENV_DONE sets
(R415 step 5). -/
def execEnvelopeChangeDone (s : State) : Res :=
  match s.yoke.change with
  | some (e, 4) =>
    let s1 := ((s.put2 A.pwrEnvelope 4 2 e).put2 A.pwrEnvelope 3 1 0).setYoke
      { s.yoke with change := none, fast := if e = 2 then s.yoke.fast else [] }
    let s2 := (List.range 8).foldl recharge s1
    done s (devEvent s2 A.yokeEvent 4 1316)
  | _ => .next s

/-- YOKE_CEILING_WRITE: clamped to 320 to 1200; refused when it would break the quota sum of R31 or exceed the board
share; below the ledger it sets OVER and recalls (R419, R425). -/
def execYokeCeilingWrite (w : Nat) (v : Word) (s : State) : Res :=
  done s (adminWrite s w fun s =>
    let c := Nat.max 320 (Nat.min 1200 (fld v 0 11))
    let sum := s.hold.foldl (fun n p => if p.2.enable then n + p.2.qYoke else n) 0
    let share := if bit (s.r2 A.bkPoolCtrl) 0 then fld (s.r2 A.bkPoolStatus) 0 11 else 1200
    if c < sum + 208 || share < c then s
    else
      let s1 := s.put2 A.yokeCeiling 0 11 c
      if c < ledger s1 then devEvent (recallFor s1 0) A.yokeEvent 2 1316 else s1)

/-- IOUT_SAMPLE: VDD_CORE current is `cu`; above the ledger MEASURED sets and YOKE_OVERDRAW is raised (R418). -/
def execIoutSample (cu : Nat) (s : State) : Res :=
  let s1 := s.w2 A.yokeIout (w32 (cu % 2048))
  done s (if ledger s < cu then (devEvent s1 A.yokeEvent 3 1316).raise { src := 4 } else s1)

/-- YOKE_CAL_UPDATE: the current read against 95% and 80% of the ledger moves CAL by 1 within 56 to 72 (R418). -/
def execYokeCalUpdate (s : State) : Res :=
  let i := fld (s.r2 A.yokeIout) 0 11
  let l := ledger s
  let c := s.yoke.cal
  .next (s.setYoke { s.yoke with cal :=
    if 95 * l < 100 * i then Nat.min 72 (c + 1) else if 100 * i < 80 * l then Nat.max 56 (c - 1) else c })

/-- FALLOW_TASK_START: task `k` of R426 (0 scrub, 1 retraining, 2 lane recalibration, 3 PLL check, 4 telemetry, 5 Field
self-test) takes unit `u`. One not due runs only on a unit foreground work does not want (R427). At most four lanes
recalibrate at once, and one Field self-test runs. -/
def execFallowTaskStart (k u : Nat) (due : Bool) (s : State) : Res :=
  let key := k * 32 + u
  if s.yoke.fallow.contains key then .next s
  else if k = 2 && 4 ≤ (s.yoke.fallow.filter fun x => x / 32 == 2).length then .next s
  else if k = 5 then
    let busy := s.yoke.fallow.any fun x => x / 32 == 5
    let free := bit (s.r2 (A.fld u)) 0 && !drillBusy s u && !fieldGranted s u
    if busy || !(u < 8) || !(due || free) then .next s
    else
      let s1 := askGrant (s.setYoke { s.yoke with fallow := insNat s.yoke.fallow key })
        { key := 256 + u, field := u, hold := 32, cls := 7, live := false, fallow := if due then 1 else 2 }
      .next (if due then s1.modFs u fun x => { x with test := 1 } else s1)
  else .next (s.setYoke { s.yoke with fallow := insNat s.yoke.fallow key })

/-- LANE_RECAL: a lane's shadow sampler has recalibrated and swaps in (R426). -/
def execLaneRecal (l : Nat) (s : State) : Res :=
  .next (s.setYoke { s.yoke with fallow := remNat s.yoke.fallow (2 * 32 + l) })

/-- FIELD_SELFTEST_START: the Field's self-test holds its charge and no picture runs on it; the Field is isolated
(R427). -/
def execFieldSelftestStart (f : Nat) (s : State) : Res :=
  let running := s.job.work.any fun w => w.2.engine && w.2.ctx / 32 == f
  if (s.yoke.fallow.contains (5 * 32 + f)) && (s.yoke.grants.any fun g => g.key == 256 + f) && !running then
    .next (s.modFs f fun x => { x with test := if x.test = 1 then 2 else 3 })
  else .next s

/-- The Field to throttle: the hottest of the eight (R428). -/
def hottestField (t : List Int) : Nat :=
  (List.range 8).foldl (fun b f => if t.getD b 0 < t.getD f 0 then f else b) 0

/-- One step of temperature throttling of a Field: the clock 100 MHz lower, to no lower than 200 MHz (R428). -/
def throttleDown (s : State) (f : Nat) : State :=
  let env := envActive s
  if targetClk s env f ≤ 2 then s
  else
    let s1 := recharge (s.modFs f fun x => { x with throttle := x.throttle + 1 }) f
    s1.modFs f fun x => { x with clk := Nat.min x.clk (targetClk s1 env f) }

/-- One step up again, when the recharge is admitted (R418, R428). -/
def throttleUp (s : State) (f : Nat) : State :=
  if (s.fs f).throttle = 0 then s
  else
    let s1 := recharge (s.modFs f fun x => { x with throttle := x.throttle - 1 }) f
    if ledger s1 ≤ ceiling s1 then
      (if (s1.fs f).clk = 0 then s1
       else s1.setYoke { s1.yoke with ramp := s1.yoke.ramp ++
         [{ unit := f, cost := ledger s1 - ledger s, clk := targetClk s1 (envActive s1) f }] })
    else s

/-- The temperature sensor that its test has excluded (R468): ST_RESULT 29 shows FAIL and the sensor. -/
def sensorOut (s : State) : Option Nat :=
  let w := s.r2 (A.stResult 29)
  if fld w 0 3 = 3 then some (fld w 8 8) else none

/-- The readings of a sample; an excluded sensor counts as the coldest (R468). -/
def tempSeen (s : State) (t0 : List Int) : List Int :=
  match sensorOut s with
  | some i => t0.set i (t0.foldl (fun m x => min m x) (t0.headD 0))
  | none => t0

/-- The highest reading. -/
def tempTop (t : List Int) : Int := t.foldl (fun m x => max m x) (t.headD 0)

/-- TEMP_STATUS takes the highest reading and its sensor, and the HIGH event rises (R428). -/
def tempNote (s : State) (t : List Int) : State :=
  let s1 := s.w2 A.tempStatus (w32 ((tempTop t % 256).toNat + Nat.min 8 (t.findIdx (· == tempTop t)) * 256))
  if (fld (s.r2 A.tempCfg) 0 8 : Int) ≤ tempTop t && !bit (s1.r2 A.tempEvent) 0 then devEvent s1 A.tempEvent 0 1317 else s1

/-- At the limit the clocks are throttled until the reading is 2 °C below it (R430); 110 °C bounds the limit. -/
def tempHot (s : State) (lim : Nat) (top : Int) : State :=
  let s1 := if decide ((lim : Int) ≤ top) && !s.yoke.hot then
      devEvent (s.setYoke { s.yoke with hot := true }) A.tempEvent 1 1317 else s
  if s1.yoke.hot && decide (top ≤ (lim : Int) - 2) then s1.setYoke { s1.yoke with hot := false } else s1

/-- One step of the throttle, down for the hottest Field or up for every Field (R430). -/
def tempPace (s : State) (t : List Int) : State :=
  if s.yoke.hot then throttleDown s (hottestField t) else (List.range 8).foldl throttleUp s

/-- The temperature trip at 120 °C (R430). -/
def tempTrip (s : State) (trip : Bool) : State :=
  if trip && !s.flt.cause.contains 2 then (setCause s 2 true).raise { src := 2 } else setCause s 2 trip

/-- TEMP_SAMPLE: the sensors read `t0`: Fields 0 to 7, then two of the uncore, in °C (R428, R430). -/
def execTempSample (t0 : List Int) (s : State) : Res :=
  let t := tempSeen s t0
  let lim := Nat.min 110 (fld (s.r2 A.tempCfg) 8 8)
  done s (tempTrip (tempPace (tempHot (tempNote s t) lim (tempTop t)) t) ((120 : Int) ≤ tempTop t))

end Sys2Proof.Machine
end

