-- ==== Sys2Proof/Machine/Time.lean ====
section
/-! DEFINITION. The device time base (R429), the AON tick counter (R447, R452), and the writes to them. -/

namespace Sys2Proof.Machine

/-- FOLLOW: the DTB follows BK_SYNC (R485). -/
def follows (s : State) : Bool := bit (s.r2 A.bkSyncCtrl) 1

/-- A rate within ±4,294,967 (R429). -/
def rateClamp (v : Int) : Int := max (-4294967) (min 4294967 v)

/-- The rate in force: DTB_RATE, or the one steered by BK_SYNC (R429, R485). -/
def dtbRate (s : State) : Int := if follows s then s.baulk.steer else rateClamp (s.r2 A.dtbRate).toInt

/-- Add to the DTB, in 2^−32 ns (R429). -/
def dtbAdd (t : Tim) (d : Int) : Tim :=
  let v : Int := (t.dtb.toNat * 2 ^ 32 + t.frac.toNat : Nat) + d
  let m := (v % 2 ^ 96).toNat
  { t with dtb := BitVec.ofNat 64 (m / 2 ^ 32), frac := BitVec.ofNat 32 (m % 2 ^ 32) }

/-- A DTB_SET waiting loads, and a DTB_STEP waiting adds (R429). -/
def dtbApply (t : Tim) : Tim :=
  let t1 := match t.set with | some v => { t with dtb := v, frac := 0, set := none } | none => t
  match t1.step with
  | some v => { t1 with dtb := t1.dtb + v.signExtend 64, step := none }
  | none => t1

/-- One REFCLK cycle (log 2): the DTB advances by 40 ns × (1 + DTB_RATE × 2^−32), or, at PL4, by 30,517.578125 ns with
the same rate at each AON tick (R413, R429); the AON tick counter counts at 32.768 kHz. Nothing runs under PORST_N. -/
def idleTick (s : State) : State :=
  if s.sys.porst then s
  else
    let ph := s.tim.phase + 32768
    let tick := decide (25000000 ≤ ph)
    let t := { s.tim with phase := if tick then ph - 25000000 else ph, aon := if tick then s.tim.aon + 1 else s.tim.aon }
    let d : Int := if s.yoke.pl = 4 then (if tick then 131072000000000 + dtbRate s * 1000000000 / 32768 else 0)
                   else 40 * 2 ^ 32 + 40 * dtbRate s
    { s with tim := dtbApply (dtbAdd t d) }

/-- DTB_STEP_WRITE: the signed value is added once, at the next REFCLK cycle (R429). -/
def execDtbStepWrite (w : Nat) (v : Word) (s : State) : Res :=
  done s (adminWrite s w fun s => if follows s then s else { s with tim := { s.tim with step := some v } })

/-- DTB_SET_WRITE: a committed DTB_SET is loaded at the next REFCLK cycle (R429, R57). -/
def execDtbSetWrite (w : Nat) (v : DWord) (s : State) : Res :=
  done s (adminWrite s w fun s =>
    if follows s then s else { s.wq2 A.dtbSet v with tim := { s.tim with set := some v } })

end Sys2Proof.Machine
end

