-- ==== Sys2Proof/Machine/Baulk.lean ====
section
/-! DEFINITION. Baulk links, remote accesses received, the board current pool and BK_SYNC (21). -/

namespace Sys2Proof.Machine

/-! Links (R474 to R478). -/

/-- An event bit of BK_PORT_STATUS (R487). -/
def bkEvent (s : State) (p b : Nat) : State := devEvent s (A.bkPortStatus p) b (1329 + p)

/-- ENABLE of a port. -/
def bkOn (s : State) (p : Nat) : Bool := bit (s.r2 (A.bkPortCtrl p)) 0

/-- A port's LINK frame: BAULK_ID, port number, stepping, serial number (R476). -/
def linkFrame (s : State) (p : Nat) : Out :=
  .baulk p 1 0 (toLE 8 s.sys.baulkId ++ toLE 8 p ++ toLE 8 0xA2 ++ toLE 8 s.sys.serial.toNat)

/-- ENABLE rises: bring-up starts, with the Baulk PLL (R409, R476). -/
def bkEnable (s : State) (p : Nat) : State :=
  if 3 ≤ p || bkOn s p then s else claimPll (s.put2 (A.bkPortCtrl p) 0 1 1) 12

/-- BAULK_PORT_ENABLE: function `w` sets BK_PORT_CTRL.ENABLE. -/
def execBaulkPortEnable (w p : Nat) (s : State) : Res := done s (adminWrite s w fun t => bkEnable t p)

/-- The port's SerDes can run: enabled, and the Baulk PLL is locked. -/
def bkReady (s : State) (p : Nat) : Bool :=
  decide (p < 3) && bkOn s p && s.yoke.plls.contains 12 && !s.yoke.unlocked.contains 12

/-- BAULK_BRINGUP_RETRY: an enabled port that is down tries again and sends its LINK frame (R476). -/
def execBaulkBringupRetry (p : Nat) (s : State) : Res :=
  if bkReady s p && !(s.bp p).up then .next (s.emit (linkFrame s p)) else .next s

/-- A frame for another device is dropped and counted (R475). -/
def misrouted (s : State) (p : Nat) : State := s.cnt2 (A.bkPortErr p) 16 14

/-- LINK: at step 4 of bring-up the peer's LINK frame, sent to device `d`, names device `id` and its `port` (R474, R476); the
device's own goes out. -/
def execLink (p d id port : Nat) (s : State) : Res :=
  if !bkReady s p || (s.bp p).up then .next s
  else if d ≠ s.sys.baulkId then .next (misrouted s p)
  else
    let s1 := s.emit (linkFrame s p)
    if id = (s.sys.baulkId + p + 1) % 4 && port = 2 - p then
      let s2 := (s1.put2 (A.bkPortStatus p) 1 2 id).modBp p fun _ => { up := true, credit := 262144 }
      done s (bkEvent s2 p 8)
    else done s ((bkEvent s1 p 10).raise { src := 25, info1 := p })

/-- A link goes down: what waits for its answers ends with MEMORY_REMOTE (R478). -/
def bkDown (s : State) (p : Nat) : State :=
  let w := (s.bp p).wait
  w.foldl (fun t x => remoteFail t p x.2.1 x.2.2) (s.modBp p fun _ => {})

/-- A link is lost: LINK_DOWN fires (R478). -/
def bkLost (s : State) (p : Nat) : State := (bkEvent (bkDown s p) p 9).raise { src := 24, info1 := p }

/-- ENABLE is cleared: a link that is up is lost (log 50). -/
def bkDisable (s : State) (p : Nat) : State :=
  let s1 := s.put2 (A.bkPortCtrl p) 0 1 0
  if (s.bp p).up then bkLost s1 p else s1

/-- BAULK_LANE_LOCK_LOSS (R478). -/
def execBaulkLaneLockLoss (p : Nat) (s : State) : Res := if (s.bp p).up then done s (bkLost s p) else .next s

/-- BAULK_ACK_TIMEOUT: 1 ms without an ACK while frames are outstanding (R478). -/
def execBaulkAckTimeout (p : Nat) (s : State) : Res :=
  if (s.bp p).up && !(s.bp p).replay.isEmpty then done s (bkLost s p) else .next s

/-! Frames received (R477). An ACK's body is the credit granted, then an answer's status (log 22). -/

/-- Send an ACK of a frame, with the room it leaves. -/
def bkAck (s : State) (p seq room : Nat) (ans : Option Nat) : State :=
  s.emit (.baulk p 7 seq (toLE 8 room ++ (match ans with | some a => toLE 8 a | none => [])))

/-- Send a NAK: replay from the number expected. -/
def bkNak (s : State) (p : Nat) : State := s.emit (.baulk p 8 (s.bp p).rx [])

/-- A sequenced frame arrives on a port that is up, of `len` payload bytes. `apply` gives the state after it and an answer,
or none while it cannot be applied. One applied already is acknowledged again; one that comes too early asks for a
replay. -/
def bkRecv (s : State) (p : Nat) (h : BkHdr) (len : Nat) (apply : State → Option (State × Option Nat)) : Res :=
  let x := s.bp p
  if !x.up then .next s
  else if h.dst ≠ s.sys.baulkId then .next (misrouted s p)
  else if h.seq % 4096 = x.rx then
    match apply (s.modBp p fun y => { y with rx := (y.rx + 1) % 4096 }) with
    | some (t, ans) => done s (bkAck t p x.rx (16 + len) ans)
    | none => .next s
  else if (x.rx + 4096 - h.seq % 4096) % 4096 < 2048 then .next (bkAck s p (h.seq % 4096) (16 + len) none)
  else .next (bkNak s p)

/-- The holding and the offset in its memory that a peer's access through export `e` reaches (R479, R480); none refuses it
with MEMORY_REMOTE. -/
def exportAt (s : State) (p e off len : Nat) : Option (Nat × Nat) :=
  let w := expWord s e 0
  let h := fld w 0 5
  let at_ := fld (expWord s e 1) 0 13 * granule + off
  if e < 64 && bit w 7 && fld w 5 2 = fld (s.r2 (A.bkPortStatus p)) 1 2 && s.active h &&
      off + len ≤ fld (expWord s e 2) 0 13 * granule && at_ + len ≤ (s.hd h).qDram * granule then some (h, at_) else none

/-- WRITE: a peer's write of 1 to 256 bytes at `off` of export `e`, applied or refused with nothing written (R477, R480). -/
def execWrite (p : Nat) (h : BkHdr) (e off : Nat) (data : List Byte) (s : State) : Res :=
  bkRecv s p h data.length fun t =>
    if t.flt.safe then none
    else
      match exportAt t p e off data.length with
      | none => some (t, none)
      | some (g, at_) => if devMapped t g at_ data.length then some (writeDev t g at_ data, none) else none

/-- The READ_DATA frames that answer a request: its number, a status, up to 256 bytes. -/
def bkAnswer (s : State) (p req st : Nat) (data : List Byte) : Nat → State
  | 0 => s
  | n + 1 =>
    let s1 := bkSend s p 4 (toLE 8 req ++ toLE 8 st ++ data.take 256)
    if data.length ≤ 256 then s1 else bkAnswer s1 p req st (data.drop 256) n

/-- READ_REQ: a peer's read of `len` bytes, answered with READ_DATA (R480). It waits for room in the replay buffer and for
credit. -/
def execReadReq (p : Nat) (h : BkHdr) (e off len : Nat) (s : State) : Res :=
  bkRecv s p h 0 fun t =>
    let n := cdiv (Nat.max len 1) 256
    let x := t.bp p
    if t.flt.safe || 64 < x.replay.length + n || x.credit < len + 32 * n then none
    else
      match exportAt t p e off len with
      | none => some (bkAnswer t p h.seq St.remote [] 1, none)
      | some (g, at_) =>
        if !devMapped t g at_ len then none
        else if devPoison t g at_ len then some (bkAnswer t p h.seq St.poison [] 1, none)
        else some (bkAnswer t p h.seq St.ok (readDev t g at_ len) n, none)

/-- A remote load ends its job with a status (R480, log 23). -/
def loadFail (s : State) (n code : Nat) : State :=
  match tget s.job.work n with
  | some w =>
    let s1 := s.setJob { s.job with work := tdel s.job.work n }
    (match s1.ctx w.ctx with
     | some x => if x.ended.isNone then faultJob s1 w.ctx code else s1
     | none => s1)
  | none => s

/-- READ_DATA: the answer to request `req`: a status and data (R480). -/
def execReadData (p : Nat) (h : BkHdr) (req st : Nat) (data : List Byte) (s : State) : Res :=
  bkRecv s p h data.length fun t =>
    let w := (t.bp p).wait
    let mine := w.filter fun x => x.1 == req % 4096 && x.2.2 == 0
    let t1 := t.modBp p fun y => { y with wait := w.filter fun x => !(x.1 == req % 4096 && x.2.2 == 0) }
    some (mine.foldl
      (fun u x => if st = St.ok then endWork u x.2.1 (w64 (leNat data)) else loadFail u x.2.1 st) t1, none)

/-- SIGNAL_FRAME: a peer adds `n` to the semaphore whose INDEX is `j`, through export `e`; the answer goes with the ACK
(R481). -/
def execSignalFrame (p : Nat) (h : BkHdr) (e j n : Nat) (s : State) : Res :=
  bkRecv s p h 0 fun t =>
    match exportAt t p e 0 0, tget t.job.obj (8 * 0x100000 + j % 65536) with
    | some (g, _), some o =>
      if o.hold = g then
        let (sat, t1) := addSem t o.ref n
        some (t1, some (if sat then St.saturated else St.ok))
      else some (t, some St.remote)
    | _, _ => some (t, some St.remote)

/-- FLUSH: every earlier frame of the port has been applied, and the ACK says so (R482). -/
def execFlush (p : Nat) (h : BkHdr) (s : State) : Res := bkRecv s p h 0 fun t => some (t, some St.ok)

/-- The answer to the frame `seq` arrives: a SIGNAL's status, or a FLUSH's (R481, R482). -/
def bkAnswered (s : State) (p seq ans : Nat) : State :=
  let w := (s.bp p).wait
  let s1 := s.modBp p fun y => { y with wait := w.filter fun x => !(x.1 == seq && x.2.2 ≠ 0) }
  (w.filter fun x => x.1 == seq && x.2.2 ≠ 0).foldl
    (fun t x =>
      if x.2.2 = 1 then
        t.modCtx x.2.1 fun y => if y.wait == .remote then { (y.status ans).advance 0 with wait := .none } else y
      else t.modCtx x.2.1 fun y => { y with backed := y.backed ||| 2 ^ p }) s1

/-- ACK: every frame up to `h.seq` leaves the replay buffer, credit is granted, and a FLUSH or SIGNAL is answered (R477). -/
def execAck (p : Nat) (h : BkHdr) (credit : Nat) (ans : Option Nat) (s : State) : Res :=
  let x := s.bp p
  if !x.up then .next s
  else if h.dst ≠ s.sys.baulkId then .next (misrouted s p)
  else
    let rest := match x.replay.findIdx? fun f => f.1 == h.seq with | some i => x.replay.drop (i + 1) | none => x.replay
    let s1 := s.modBp p fun y =>
      { y with replay := rest, nreplay := if rest.length < x.replay.length then 0 else y.nreplay,
               credit := Nat.min 262144 (y.credit + credit) }
    done s (match ans with | some a => bkAnswered s1 p h.seq a | none => s1)

/-- NAK: the frames from `h.seq` on are replayed; the link is lost when the frame has been replayed 8 times in a row (R477,
R478). -/
def execNak (p : Nat) (h : BkHdr) (s : State) : Res :=
  let x := s.bp p
  if !x.up then .next s
  else if h.dst ≠ s.sys.baulkId then .next (misrouted s p)
  else
    match x.replay.findIdx? fun f => f.1 == h.seq with
    | none => .next s
    | some i =>
      let n := if x.nreplay ≠ 0 && x.naked = h.seq then x.nreplay + 1 else 1
      if 8 < n then done s (bkLost s p)
      else
        let fs := x.replay.drop i
        let s1 := fs.foldl (fun t f => (t.emit (.baulk p f.2.1 f.1 f.2.2)).cnt2 (A.bkPortErr p) 0 16) s
        done s ((s1.modBp p fun y => { y with nreplay := n, naked := h.seq }).raise { src := 26, info1 := p })

/-- BAULK_FRAME_CRC_ERROR: the frame is discarded and a NAK requests replay (R477). -/
def execBaulkFrameCrcError (p : Nat) (s : State) : Res := if (s.bp p).up then .next (bkNak s p) else .next s

/-! The export and import tables (R479). -/

/-- A write of a word of an entry at offset `off` of the Baulk block: to an entry that is VALID only a write that clears
VALID counts. -/
def exportWrite (s : State) (a : Nat) (v : Word) : State :=
  let e := a / 16 * 16
  let j := a % 16 / 4
  let valid := bit (s.r2 e) 7
  if j = 0 then (if valid && bit v 7 then s else s.w2 a (v &&& 0xFF))
  else if j = 3 || valid then s
  else s.w2 a (v &&& 0x1FFF)

/-- BAULK_EXPORT_WRITE: function `w` writes the word at offset `off` of the export table. -/
def execBaulkExportWrite (w off : Nat) (v : Word) (s : State) : Res :=
  done s (adminWrite s w fun t => if off < 0x400 && off % 4 = 0 then exportWrite t (0xC01000 + off) v else t)

/-- A write of a word of an import entry; setting VALID advances its generation and makes the handle: TYPE 0xA, INDEX the
entry. -/
def importWrite (s : State) (a : Nat) (v : Word) : State :=
  let e := a / 16 * 16
  let j := a % 16 / 4
  let valid := bit (s.r2 e) 13
  if j = 0 then
    if valid && bit v 13 then s
    else
      let s1 := s.w2 a (v &&& 0x3FFF)
      if bit v 13 then
        let m := (e - 0xC02000) / 16
        let g := (tgetD s.baulk.gen m 0 + 1) % 256
        (s1.setBk { s1.baulk with gen := bankSet s1.baulk.gen (fun _ => 0) m g }).w2 (e + 8)
          (w32 (0xA0000000 + g * 2 ^ 20 + m))
      else s1
  else if j = 1 && !valid then s.w2 a (v &&& 0x1FFF)
  else s

/-- BAULK_IMPORT_WRITE: function `w` writes the word at offset `off` of the import table. -/
def execBaulkImportWrite (w off : Nat) (v : Word) (s : State) : Res :=
  done s (adminWrite s w fun t => if off < 0x400 && off % 4 = 0 then importWrite t (0xC02000 + off) v else t)

/-! The board current pool (R483, R484). The messages' contents: log 51. -/

/-- EN: the device takes part in the pool. -/
def poolOn (s : State) : Bool := bit (s.r2 A.bkPoolCtrl) 0

/-- The devices present: those heard, and the device itself while it takes part. -/
def poolMembers (s : State) : List Nat := if poolOn s then insNat s.baulk.present s.sys.baulkId else s.baulk.present

/-- The leader: the present device with the lowest BAULK_ID. -/
def poolLeader (s : State) : Option Nat := (poolMembers s).head?

/-- The device leads. -/
def leads (s : State) : Bool := poolOn s && poolLeader s = some s.sys.baulkId

/-- SHARE. -/
def share (s : State) : Nat := fld (s.r2 A.bkPoolStatus) 0 11

/-- An event bit of BK_POOL_STATUS (R487). -/
def poolEvent (s : State) (b : Nat) : State := devEvent s A.bkPoolStatus b 1332

/-- LEADER and LEADER_ID follow the leader; a device that begins to lead gathers first (R484). -/
def elect (s0 s : State) : State :=
  let s1 := (s.put2 A.bkPoolStatus 11 1 (b2n (leads s))).put2 A.bkPoolStatus 12 2 ((poolLeader s).getD 0)
  if leads s && !leads s0 then
    setCause (s1.setBk { s1.baulk with gather := true, shares := [(s.sys.baulkId, share s)], want := [] }) 27 false
  else if !leads s && leads s0 then s1.setBk { s1.baulk with gather := false, shares := [], want := [] }
  else s1

/-- The share changes, and YOKE_CEILING goes down to it, never below 320 (R419, R484). -/
def setShare (s : State) (n : Nat) : State :=
  let s1 := if n = share s then s else poolEvent (s.put2 A.bkPoolStatus 0 11 n) 15
  if n < ceiling s1 then
    let s2 := s1.put2 A.yokeCeiling 0 11 (Nat.max 320 n)
    if ceiling s2 < ledger s2 then devEvent (recallFor s2 0) A.yokeEvent 2 1316 else s2
  else s1

/-- BUDGET. -/
def budget (s : State) : Nat := fld (s.r2 A.bkPoolCtrl) 16 13

/-- The share of device `i` as the leader knows it. -/
def shareOf (s : State) (i : Nat) : Nat := if i = s.sys.baulkId then share s else tgetD s.baulk.shares i 0

/-- Its slack: share − YOKE_CEILING. -/
def slackOf (s : State) (i : Nat) : Nat := shareOf s i - (if i = s.sys.baulkId then ceiling s else tgetD s.baulk.ceil i 0)

/-- The leader sets the share of device `i`, with a message of a kind. -/
def giveShare (s : State) (kind i n : Nat) : State :=
  if i = s.sys.baulkId then setShare s n
  else
    let s1 := s.setBk { s.baulk with shares := tset s.baulk.shares i n }
    s1.emit (.bus kind i n)

/-- The unallocated part of the budget. -/
def unallocated (s : State) : Nat := budget s - (poolMembers s).foldl (fun n i => n + shareOf s i) 0

/-- The member of a list with the most of something. -/
def mostOf (l : List Nat) (f : Nat → Nat) : Option Nat :=
  l.foldl (fun b i => match b with | some j => if f j < f i then some i else some j | none => some i) none

/-- Recall slack of devices other than `i`, the largest first, until `need` cu are released (R484). -/
def recallSlack (s : State) (i need : Nat) : Nat → State
  | 0 => s
  | n + 1 =>
    if need = 0 then s
    else
      match mostOf ((poolMembers s).filter fun j => j ≠ i && 0 < Nat.min (slackOf s j) (shareOf s j - 320)) (slackOf s) with
      | none => s
      | some j =>
        let k := Nat.min need (Nat.min (slackOf s j) (shareOf s j - 320))
        recallSlack (giveShare s 3 j (shareOf s j - k)) i (need - k) n

/-- The leader meets the requests that wait, oldest first, from the unallocated budget (R484): a device with no share gets
at least 320 cu. What is left waits. -/
def poolGrant (s : State) : State :=
  if !leads s || s.baulk.gather then s
  else
    s.baulk.want.foldl
      (fun t w =>
        let have_ := shareOf t w.1
        let g := Nat.min w.2 (unallocated t)
        let dest := if have_ = 0 then Nat.max 320 g else have_ + g
        let rest := w.2 - (dest - have_)
        let t1 := if dest = have_ then t else giveShare t 2 w.1 dest
        t1.setBk { t1.baulk with want := if rest = 0 then t1.baulk.want else t1.baulk.want ++ [(w.1, rest)] })
      (s.setBk { s.baulk with want := [] })

/-- The leader takes a request of device `i` for `n` cu: from the budget, and the rest from others' slack (R484). -/
def poolRequest (s : State) (i n : Nat) : State :=
  let s1 := s.setBk { s.baulk with want := s.baulk.want ++ [(i, n)] }
  if s1.baulk.gather then s1
  else
    let s2 := poolGrant s1
    let rest := s2.baulk.want.foldl (fun m w => m + w.2) 0
    poolGrant (recallSlack s2 i rest 4)

/-- The device asks for `n` cu besides. -/
def poolAsk (s : State) (n : Nat) : State :=
  if n = 0 then s
  else if leads s then poolRequest s s.sys.baulkId n
  else
    match poolLeader s with
    | some l => s.emit (.bus 1 l n)
    | none => s

/-- A write of BK_POOL_CTRL: BUDGET below 320 × the devices present keeps its value; EN begins or ends taking part. -/
def poolCtrl (s : State) (v : Word) : State :=
  let on := bit v 0
  let was := poolOn s
  let s1 := s.put2 A.bkPoolCtrl 0 1 (b2n on)
  let n := Nat.max 1 (poolMembers s1).length
  let s2 := if fld v 16 13 < 320 * n then s1 else s1.put2 A.bkPoolCtrl 16 13 (fld v 16 13)
  let s3 := elect s s2
  if on && !was then poolAsk s3 (ceiling s3)
  else if was && !on then s3.put2 A.bkPoolStatus 0 11 0
  else s3

/-- POOL_ENABLE: function `w` writes `v` with EN to BK_POOL_CTRL; the device reports its YOKE_CEILING as its request
(R484). -/
def execPoolEnable (w : Nat) (v : Word) (s : State) : Res :=
  done s (adminWrite s w fun t => if bit v 0 then poolCtrl t v else t)

/-- POOL_WANT_WRITE: function `w` writes BK_POOL_WANT, 320 to 1200; above the share the difference is asked for (R484). -/
def execPoolWantWrite (w : Nat) (v : Word) (s : State) : Res :=
  done s (adminWrite s w fun t =>
    let n := Nat.max 320 (Nat.min 1200 (fld v 0 11))
    let t1 := t.put2 A.bkPoolWant 0 11 n
    if poolOn t1 && share t1 < n then poolAsk t1 (n - share t1) else t1)

/-- POOL_HEARTBEAT: every 10 ms (R483). -/
def execPoolHeartbeat (s : State) : Res :=
  if poolOn s then .next (s.emit (.bus 0 4 (ceiling s + 2048 * share s))) else .next s

/-- A heartbeat of device `i` (R483, R484): it is present, its ceiling and share are known, and the leader may grant what has
been released. -/
def poolHeard (s : State) (i val : Nat) : State :=
  let b := { s.baulk with present := insNat s.baulk.present i, ceil := tset s.baulk.ceil i (val % 2048),
                          shares := tset s.baulk.shares i (val / 2048) }
  let s1 := elect s (s.setBk b)
  let s2 := if poolLeader s1 = some i then setCause s1 27 false else s1
  poolGrant s2

/-- POOL_MESSAGE: device `i` sends a message of a kind to device `to` (4: to all), with a value (R483, R484). -/
def execPoolMessage (dev kind dest val : Nat) (s : State) : Res :=
  if 4 ≤ dev || dev = s.sys.baulkId || (dest ≠ 4 && dest ≠ s.sys.baulkId) then .next s
  else
    match kind with
    | 0 => done s (poolHeard s dev val)
    | 1 => done s (if leads s then poolRequest s dev val else s)
    | 2 => done s (if poolOn s then setShare s (val % 2048) else s)
    | 3 => done s (if poolOn s then setShare s (Nat.max 320 (val % 2048)) else s)
    | _ => .next s

/-- Recall from the largest share until the shares fit the budget (R484). -/
def fitBudget (s : State) : Nat → State
  | 0 => s
  | n + 1 =>
    let overBy := (poolMembers s).foldl (fun m i => m + shareOf s i) 0 - budget s
    if overBy = 0 then s
    else
      match mostOf ((poolMembers s).filter fun i => 320 < shareOf s i) (shareOf s) with
      | none => s
      | some i => fitBudget (giveShare s 3 i (Nat.max 320 (shareOf s i - overBy))) n

/-- POOL_GATHER_END: a new leader has gathered for 20 ms (R484). -/
def execPoolGatherEnd (s : State) : Res :=
  if leads s && s.baulk.gather then done s (poolGrant (fitBudget (s.setBk { s.baulk with gather := false }) 4)) else .next s

/-- POOL_LEADER_LOST: no heartbeat of the leader for 100 ms (R484, R486). -/
def execPoolLeaderLost (s : State) : Res :=
  if poolOn s && !leads s then
    match poolLeader s with
    | none => .next s
    | some l =>
      let s1 := (setCause (poolEvent s 14) 27 true).raise { src := 27 }
      done s (elect s (s1.setBk { s1.baulk with present := remNat s1.baulk.present l }))
  else .next s

/-! BK_SYNC (R485). -/

/-- The device that drives BK_SYNC: the pool's leader, or the lowest present BAULK_ID. -/
def syncLeads (s : State) : Bool := (insNat s.baulk.present s.sys.baulkId).head? = some s.sys.baulkId

/-- BK_SYNC_DRIVE: the DTB is at a multiple of a millisecond, and the leader drives the line. -/
def execBkSyncDrive (s : State) : Res :=
  if syncLeads s && bit (s.r2 A.bkSyncCtrl) 0 then .next (s.emit .bkSync) else .next s

/-- A write of BK_SYNC_CTRL; following begins at the rate of DTB_RATE. -/
def syncCtrl (s : State) (v : Word) : State :=
  let s1 := (s.put2 A.bkSyncCtrl 0 2 (fld v 0 2)).put2 A.bkSyncCtrl 16 16 (fld v 16 16)
  if follows s1 && !follows s then s1.setBk { s1.baulk with steer := rateClamp (s.r2 A.dtbRate).toInt }
  else if follows s1 then s1
  else setCause (s1.put2 A.bkSyncCtrl 2 1 0) 28 false

/-- The difference of the DTB, less DELAY_NS, from the nearest millisecond. -/
def syncDiff (s : State) : Int :=
  let d := ((s.tim.dtb.toNat : Int) - fld (s.r2 A.bkSyncCtrl) 16 16) % 1000000
  if 500000 < d then d - 1000000 else d

/-- BK_SYNC_EDGE: a follower steps by a difference above 1 µs; otherwise it steers to a rate that the spec does not give: a
free value within the limits of DTB_RATE (log 12). -/
def execBkSyncEdge (s : State) : Res :=
  if !follows s then .next s
  else
    let d := syncDiff s
    let s1 := setCause (s.setBk { s.baulk with diff := d }) 28 false
    let s2 := s1.put2 A.bkSyncCtrl 2 1 (b2n (decide (-20 ≤ d && d ≤ 20)))
    if 1000 < d || d < -1000 then
      done s { s2 with tim := { s2.tim with dtb := s2.tim.dtb - BitVec.ofInt 64 d } }
    else
      let (v, s3) := s2.takeFree
      done s (s3.setBk { s3.baulk with steer := rateClamp v.toInt })

/-- BK_SYNC_LOST: 10 ms without an edge (R485, R486). -/
def execBkSyncLost (s : State) : Res :=
  if follows s then done s ((setCause (s.put2 A.bkSyncCtrl 2 1 0) 28 true).raise { src := 28 }) else .next s

end Sys2Proof.Machine
end

