-- ==== Sys2Proof/Machine/DmaRings.lean ====
section
/-! DEFINITION. Descriptor rings (R363 to R367, R518) and receive rings (R358, R359, R369). A descriptor ring's registers
are kept under the model's own holding number 32. -/

namespace Sys2Proof.Machine

/-- Set a descriptor ring. -/
def State.setRing (s : State) (r : Nat) (x : DRing) : State := { s with dma := { s.dma with ring := tset s.dma.ring r x } }
/-- A descriptor ring. -/
def State.ring (s : State) (r : Nat) : DRing := tgetD s.dma.ring r {}
/-- DMAR_CTRL of a ring. -/
def ringCtrl (s : State) (r : Nat) : Word := s.r0 32 (B.dmar r + 8)

/-- The holding that a ring is assigned to (R363). -/
def ringOwner (s : State) (r : Nat) : Option Nat :=
  let w := s.r2 (A.dmaRingOwner r)
  if bit w 5 then some (fld w 0 5) else none

/-- The function sees the ring's registers (R363). -/
def ringMine (s : State) (h r : Nat) : Bool := barOn s h && s.native h && r < 16 && ringOwner s r = some h

/-- DMA_RING_OWNER_WRITE (R363): accepted only while the ring's ENABLE is 0. -/
def execDmaRingOwnerWrite (w r : Nat) (v : Word) (s : State) : Res :=
  done s (adminWrite s w fun t =>
    if r < 16 && !bit (ringCtrl t r) 0 then t.w2 (A.dmaRingOwner r) (v &&& 0x3F) else t)

/-- ENABLE of a ring rises (R366): HEAD is 0 and the ring starts; ENABLE stays 0 for a LOG2 outside 4 to 12, and while the
holding is not ACTIVE. -/
def ringEnable (s : State) (h r : Nat) : State :=
  let c := ringCtrl s r
  if bit c 0 || fld c 1 4 < 4 || 12 < fld c 1 4 || !s.active h then s
  else (s.put0 32 (B.dmar r + 8) 0 1 1).setRing r { head := 0, run := true }

/-- ENABLE of a ring is cleared (R367): it stops after its current descriptor. -/
def ringDisable (s : State) (r : Nat) : State :=
  if bit (ringCtrl s r) 0 then
    let x := s.ring r
    (s.put0 32 (B.dmar r + 8) 0 1 0).setRing r { x with run := x.cur.isSome, latch := false }
  else s

/-- A poke (R366): it starts an idle ring at HEAD, sets the latch of a running one, and is nothing while ENABLE is 0. -/
def ringPoke (s : State) (r : Nat) : State :=
  let x := s.ring r
  if !bit (ringCtrl s r) 0 then s
  else if x.run then s.setRing r { x with latch := true }
  else s.setRing r { x with run := true, latch := false }

/-- DMAR_ENABLE (R366). -/
def execDmarEnable (h r : Nat) (s : State) : Res := .next (if ringMine s h r then ringEnable s h r else s)
/-- DMAR_DISABLE (R367). -/
def execDmarDisable (h r : Nat) (s : State) : Res := .next (if ringMine s h r then ringDisable s r else s)
/-- DMAR_POKE (R366). -/
def execDmarPoke (h r : Nat) (s : State) : Res := .next (if ringMine s h r then ringPoke s r else s)

/-! Descriptors (R364). -/

/-- Word `i` of a descriptor. -/
def Desc.wd (d : Desc) (i : Nat) : Word := d.w.getD i 0
/-- LEN. -/
def Desc.len (d : Desc) : Nat := (d.wd 1).toNat
/-- SRC. -/
def Desc.src (d : Desc) : DWord := joinW (d.wd 3) (d.wd 2)
/-- DST. -/
def Desc.dst (d : Desc) : DWord := joinW (d.wd 5) (d.wd 4)
/-- SRC_KIND. -/
def Desc.sk (d : Desc) : Nat := fld (d.wd 0) 4 2
/-- DST_KIND. -/
def Desc.dk (d : Desc) : Nat := fld (d.wd 0) 6 2

/-- One end of a descriptor: a place, or a channel's FIFO. -/
inductive DEnd where
  | at_ (p : Place)
  | fifo (c : Nat)
  deriving DecidableEq, Repr

/-- An end as R364 and R365 allow it: a FIFO that its channel has (R351). -/
def descEnd (s : State) (h kind : Nat) (dst : Bool) (a : DWord) (len : Nat) : Option DEnd :=
  if kind = 0 then (movePlace s h a len).map .at_
  else
    let c := fld a 0 8
    match s.chan c with
    | some y => if y.hold = h && y.st != .failed && (if dst then y.blk.dec else y.blk.enc) then some (.fifo c) else none
    | none => none

/-- The checks of a descriptor in the order of R365: its two ends, or the status it ends with. -/
def descCheck (s : State) (h : Nat) (d : Desc) : Except Nat (DEnd × DEnd) :=
  let w := d.wd 0
  if bit w 3 || fld w 8 8 ≠ 0 || fld (d.wd 7) 16 16 ≠ 0 || 1 < d.sk || 1 < d.dk || d.len = 0 then .error St.illegal
  else if d.dk = 1 && 16777215 < d.len then .error St.operand
  else
    match descEnd s h d.sk false d.src d.len, descEnd s h d.dk true d.dst d.len with
    | some a, some b => .ok (a, b)
    | _, _ => .error St.bounds

/-- The 16-byte header of an item (R352). -/
def itemHdr (i : Item) : List Byte :=
  toLE 3 i.len ++ toLE 1 (b2n i.gap + b2n i.reset * 4) ++ toLE 4 0 ++ toLE 8 i.time.toNat

/-- Whole committed items, headers included, while the next fits: how many, and their bytes (R365). -/
def itemsIn (room : Nat) : List Item → Nat × List Byte
  | [] => (0, [])
  | i :: l =>
    if 16 + i.len ≤ room then
      let (n, bs) := itemsIn (room - 16 - i.len) l
      (n + 1, itemHdr i ++ i.data ++ bs)
    else (0, [])

/-- A descriptor ends (R365, R367): DONE and STATUS are written, then OWN is cleared, then the completion of IRQ is posted,
and the ring goes on to its next descriptor or stops. None while the completion queue's hold is full. -/
def ringDone (s : State) (h r code moved : Nat) (d : Desc) : Option State :=
  let x := s.ring r
  let c := ringCtrl s r
  let a := (s.q0 32 (B.dmar r)).toNat % 2 ^ 62 + x.head * 32
  let s1 := (s.emit (.hostWrite h (a + 0x18) (toLE 4 moved ++ toLE 4 code))).emit
    (.hostWrite h a (toLE 4 (d.wd 0 &&& ~~~1#32).toNat))
  let s2 := if bit (d.wd 0) 2 then
      cqPost s1 (qkey h (fld c 16 10))
        { final := true, tag := fld (d.wd 0) 16 16, status := code, sqid := 0, field := 0, ctx := 0,
          result := w64 (x.head + (0x1000 + r) * 65536) }
    else some s1
  s2.map fun t =>
    let t1 := match x.chain with | some k => decRef t k 0 | none => t
    { t1.setRing r { head := (x.head + 1) % 2 ^ fld c 1 4, run := bit c 0 } with
      dma := { (t1.setRing r { head := (x.head + 1) % 2 ^ fld c 1 4, run := bit c 0 }).dma with
        turn := remNat t1.dma.turn (16 + r) } }

/-- Take the cells that a ring's descriptor still needs in its channel's input FIFO (R517, R356). -/
def ringFill (s : State) (r h c need : Nat) : State :=
  let x := s.ring r
  let lim := match s.chan c with | some y => y.blk.fifoCells | none => 0
  let (head, n, s1) := fillRow s h lim need x.chain x.cells (fifoUsed (s.fifo (fin_ c)) + x.cells) (need + 1)
  s1.setRing r { x with chain := head, cells := n, wait := decide (n < need) }

/-- The ring's filled chain becomes one committed item, the pending marker ahead of it (R356, R365); none while the marker
finds no cell. -/
def ringCommit (s : State) (r h c : Nat) (bs : List Byte) : Option State :=
  let x := s.ring r
  match commitPending s (fin_ c) h with
  | (false, _) => none
  | (true, s1) =>
    let f := s1.fifo (fin_ c)
    let i : Item := { cell := x.chain.getD 0, cells := x.cells, len := bs.length, gap := false, reset := false,
                      time := s1.tim.dtb, items := 0, bytes := 0, data := bs }
    some ((s1.setFifo (fin_ c) { f with items := f.items ++ [i] }).setRing r { x with chain := none, cells := 0 })

/-- What a descriptor reads: the bytes, the status, and the state in which a source FIFO has released them. -/
def descRead (s : State) (h : Nat) (a : DEnd) (d : Desc) (m : MoveIn) : Option (List Byte × Nat × State) :=
  match a with
  | .at_ p => (moveRead s h p d.len m).map fun q =>
      (q.1, q.2, countDma (readFrames s h p d.len) h (hostBytes p q.1.length))
  | .fifo c =>
    let f := s.fifo (fout c)
    let (n, bs) := itemsIn d.len f.items
    some (bs, St.ok, (dropItems s (f.items.take n)).setFifo (fout c) { f with items := f.items.drop n })

/-- The data of a descriptor reaches its destination, and it ends; with a destination FIFO that has no room it waits
(R356, R365). None while nothing can be done. -/
def descRun (s : State) (h r : Nat) (d : Desc) (a b : DEnd) (m : MoveIn) : Option State :=
  match descRead s h a d m with
  | none => none
  | some (bs, code, s1) =>
    match b with
    | .at_ p =>
      let (out, s2) := match a with
        | .at_ q => if overlaps p q d.len then freeBytes s1 bs.length else (bs, s1)
        | .fifo _ => (bs, s1)
      (moveWrite s2 h p out m.rem).bind fun q =>
        let s3 := countDma q.1 h (hostBytes p out.length)
        let s4 := match p with | .host _ => if bit (d.wd 0) 1 then s3.emit (.flushRead h) else s3 | _ => s3
        ringDone s4 h r (if code = St.ok then q.2 else code) (if q.2 = St.ok then bs.length else 0) d
    | .fifo c =>
      if bs.isEmpty || code ≠ St.ok then ringDone s1 h r code bs.length d
      else
        let need := itemCells bs.length
        let s2 := ringFill s r h c need
        if (s2.ring r).wait then some s2
        else
          match descRead s2 h a d m with
          | some (bs', _, s3) =>
            match ringCommit s3 r h c bs' with
            | some s4 => ringDone s4 h r St.ok bs'.length d
            | none => some (s2.setRing r { s2.ring r with wait := true })
          | none => none

/-- The holding of a ring that has a descriptor in progress. -/
def ringBusy (s : State) (r : Nat) : Option (Nat × Desc) :=
  match ringOwner s r, (s.ring r).cur with
  | some h, some d => if s.flt.safe || !s.active h then none else some (h, d)
  | _, _ => none

/-- DMA_DESCRIPTOR_FETCH (R365, R366): the read of the descriptor at HEAD returns `d` (log 5). With OWN set it is run; the
stop descriptor is read again when the poke latch is set, and idles the ring otherwise. -/
def execDmaDescriptorFetch (r : Nat) (d : List Word) (s : State) : Res :=
  let x := s.ring r
  match ringOwner s r with
  | some h =>
    if 16 ≤ r || d.length ≠ 8 || !x.run || x.cur.isSome || s.flt.safe || !s.active h then .next s
    else if bit (d.getD 0 0) 0 then .next (s.setRing r { x with cur := some { w := d }, latch := false })
    else .next (s.setRing r { x with run := x.latch, latch := false })
  | none => .next s

/-- The outcome of the current descriptor `d`; none while it waits. -/
def descDone (s : State) (h r : Nat) (d : Desc) (m : MoveIn) : Option State :=
  match descCheck s h d with
  | .error code => ringDone s h r code 0 d
  | .ok (a, b) => descRun s h r d a b m

/-- DMA_DESCRIPTOR_DONE (R153, R365, R367): the current descriptor moves its data and ends, or waits for a cell or room
(R12, R356). -/
def execDmaDescriptorDone (r : Nat) (m : MoveIn) (s : State) : Res :=
  match ringBusy s r with
  | none => .next s
  | some (h, d) =>
    match descDone s h r d m with
    | some t => done s t
    | none => .next s

/-- A ring's descriptor that waits for cells takes those that have become free (R12, R356). -/
def ringResume (s : State) (r : Nat) : State :=
  match ringBusy s r with
  | some (h, d) =>
    (match (s.ring r).wait, descCheck s h d with
     | true, .ok (.fifo b, .fifo c) => ringFill s r h c (itemCells (itemsIn d.len (s.fifo (fout b)).items).2.length)
     | true, .ok (_, .fifo c) => ringFill s r h c (itemCells d.len)
     | _, _ => s)
  | none => s

/-- GRANARY_WAIT_RESUME (R12, R356, R517): a user that waits for a cell or for room goes on: the encode channel `n`, or with
`ring` the descriptor ring `n`. -/
def execGranaryWaitResume (ring : Bool) (n : Nat) (s : State) : Res :=
  if s.flt.safe then .next s else done s (if ring then ringResume s n else resumeRow s n)

/-- DMA_STARVATION_TURN (R361): a DMA channel that has waited takes the next turn at any priority; the turn is recorded
until the move or descriptor ends (log 3). -/
def execDmaStarvationTurn (ch : Nat) (s : State) : Res :=
  let waits := if ch < 16 then s.job.work.any fun p => movePrio p.2.kind == some (ch / 4)
    else ch < 32 && (s.ring (ch - 16)).cur.isSome
  if waits then
    .next { s with dma := { s.dma with turn := insNat s.dma.turn ch } }
  else .next s

/-! Receive rings: ring 32 h + i is set up through slot i of holding h. -/

/-- RXR_CTRL of a holding's slot. -/
def rxCtrl (s : State) (h i : Nat) : Word := s.r0 h (B.rxr i + 8)

/-- The function reaches its receive-ring registers. -/
def rxMine (s : State) (h i : Nat) : Bool := barOn s h && s.native h && i < 32

/-- ENABLE of a receive ring rises (R358): both indices are 0; it stays 0 for sizes out of range. -/
def rxEnable (s : State) (h i : Nat) : State :=
  let c := rxCtrl s h i
  let k := fld c 1 4
  let b := fld c 5 4
  if bit c 0 || k < 4 || 12 < k || b < 11 || 14 < b || !s.active h then s
  else
    let s1 := (s.put0 h (B.rxr i + 8) 0 1 1).w0 h (B.rxr i + 12) 0
    { s1 with dma := { s1.dma with rx := tset s1.dma.rx (32 * h + i) { tgetD s1.dma.rx (32 * h + i) {} with pi := 0 } } }

/-- RXR_ENABLE (R358). -/
def execRxrEnable (h r : Nat) (s : State) : Res := .next (if rxMine s h r then rxEnable s h r else s)

/-- RXR_CI_WRITE (R130, R369): accepted when the new index lies between the old one and the producer's. -/
def execRxrCiWrite (h r : Nat) (v : Word) (s : State) : Res :=
  let n := fld v 0 16
  let size := 2 ^ fld (rxCtrl s h r) 1 4
  let pi := (tgetD s.dma.rx (32 * h + r) {}).pi
  if rxMine s h r && n % 0x8000 < size && idxDist size pi n ≤ idxDist size pi (fld (s.r0 h (B.rxr r + 12)) 0 16) then
    .next (s.w0 h (B.rxr r + 12) (w32 n))
  else .next s

end Sys2Proof.Machine
end

