-- ==== Sys2Proof/Machine/Parse.lean ====
section
/-! DEFINITION. The parse graph (R319 to R321) and the fixed parser of PV16 ports (R497). -/

namespace Sys2Proof.Machine

/-! Reasons of exceptions (R330). -/
namespace Rsn
abbrev depth : Nat := 1
abbrev length : Nat := 2
abbrev unknown : Nat := 3
abbrev tsSync : Nat := 4
abbrev rtpVersion : Nat := 5
abbrev unmatched : Nat := 6
abbrev action : Nat := 7
abbrev recirc : Nat := 8
end Rsn

/-- `n` bits of a frame from bit `o`, in network order. -/
def bitsAt (d : List Byte) (o n : Nat) : Nat :=
  let b := beNat (slice d (o / 8) 5)
  (b >>> (40 - o % 8 - n)) % 2 ^ n

/-- The three words of the nodes of the fixed parser (R497); nodes 54 to 63 are 0. -/
def pvNode : Nat → Nat → Nat
  | 48, 0 => 96 + 16 * 2 ^ 9 + 2 * 2 ^ 20
  | 48, 1 => 14 * 2 ^ 16
  | 49, 0 => 16 + 16 * 2 ^ 9 + 2 * 2 ^ 20 + 1 * 2 ^ 22
  | 49, 1 => 4 * 2 ^ 16
  | 50, 0 => 72 + 8 * 2 ^ 9 + 2 * 2 ^ 20 + 3 * 2 ^ 22
  | 50, 1 => 4 + 4 * 2 ^ 9 + 2 * 2 ^ 14
  | 50, 2 => 16 + 16 * 2 ^ 9
  | 51, 0 => 64 + 8 * 2 ^ 9 + 2 * 2 ^ 20 + 5 * 2 ^ 22
  | 51, 1 => 8 * 2 ^ 16
  | 51, 2 => 32 + 16 * 2 ^ 9
  | 52, 0 => 53 * 2 ^ 14 + 6 * 2 ^ 22 + 1 * 2 ^ 26
  | 53, 0 => 1 * 2 ^ 20 + 7 * 2 ^ 22 + 2 * 2 ^ 26
  | _, _ => 0

/-- Word `j` of node `n`. -/
def nodeWord (s : State) (n j : Nat) : Nat := if 48 ≤ n then pvNode n j else (s.r2 (A.ingNode n + 4 * j)).toNat

/-- A transition: FROM, VALUE, MASK, KIND, NEXT. -/
structure Trans where
  /-- FROM. -/
  from_ : Nat
  /-- VALUE. -/
  val : Nat
  /-- MASK. -/
  mask : Nat
  /-- KIND: 0 node, 1 END, 2 EXCEPT. -/
  kind : Nat
  /-- NEXT. -/
  next : Nat
  deriving DecidableEq, Repr

/-- The transitions of the fixed parser (R497). -/
def pvTrans : List Trans :=
  [ { from_ := 48, val := 0x8100, mask := 0xFFFF, kind := 0, next := 49 },
    { from_ := 48, val := 0x0800, mask := 0xFFFF, kind := 0, next := 50 },
    { from_ := 49, val := 0x0800, mask := 0xFFFF, kind := 0, next := 50 },
    { from_ := 50, val := 17, mask := 0xFF, kind := 0, next := 51 },
    { from_ := 51, val := 0x47, mask := 0xFF, kind := 0, next := 53 },
    { from_ := 51, val := 0x80, mask := 0xC0, kind := 0, next := 52 } ]

/-- The transitions from a node in ascending index. -/
def transFrom (s : State) (n : Nat) : List Trans :=
  if 48 ≤ n then pvTrans.filter fun t => t.from_ = n
  else (List.range 256).filterMap fun i =>
    let a := s.r2 (A.ingTrans i)
    let b := s.r2 (A.ingTrans i + 4)
    if bit b 14 && fld b 0 6 = n then
      some { from_ := n, val := fld a 0 16, mask := fld a 16 16, kind := fld b 12 2, next := fld b 6 6 }
    else none

/-- A walk so far: where the last header of each layer starts and ends, and the enclosing end. -/
structure Walk where
  /-- Start by layer. -/
  start : Tab Nat := []
  /-- End by layer. -/
  stop : Tab Nat := []
  /-- Where the next header begins. -/
  pos : Nat := 0
  /-- The enclosing end (R320). -/
  enc : Nat
  deriving DecidableEq, Repr

/-- The checks of a transport stream payload (R320): the reason it fails with. -/
def tsCheck (d : List Byte) (pos : Nat) : Nat → Option Nat
  | 0 => none
  | n + 1 =>
    let b := fun i => (d.getD (pos + i) 0).toNat
    let afc := b 3 / 16 % 4
    if b 0 ≠ 0x47 then some Rsn.tsSync
    else if afc = 0 || (afc = 2 && b 4 ≠ 183) || (afc = 3 && 182 < b 4) then some Rsn.length
    else tsCheck d (pos + 188) n

/-- A field of a header lies beyond byte 512 (R320); a field of no bits never does. -/
def fieldDeep (w : Walk) (boff bits : Nat) : Bool := bits ≠ 0 && decide (4096 < w.pos * 8 + boff + bits)

/-- A field of a header lies beyond the enclosing end (R320). -/
def fieldShort (w : Walk) (boff bits : Nat) : Bool := bits ≠ 0 && decide (w.enc * 8 < w.pos * 8 + boff + bits)

/-- The advance of an RTP header (R320). -/
def rtpAdvance (d : List Byte) (w : Walk) : Nat :=
  let o := w.pos * 8
  let a := 12 + 4 * bitsAt d (o + 4) 4
  if bitsAt d (o + 3) 1 = 1 then
    a + 4 + (if fieldShort w (8 * a + 16) 16 then 0 else 4 * bitsAt d (o + 8 * a + 16) 16)
  else a

/-- The advance of a header (R319 step 2, R320) from its node's second word. -/
def advance (d : List Byte) (w : Walk) (kind b : Nat) : Nat :=
  if kind = 1 then rtpAdvance d w
  else if nfld b 9 5 = 0 then nfld b 16 8
  else if fieldShort w (nfld b 0 9) (nfld b 9 5) then 0
  else (bitsAt d (w.pos * 8 + nfld b 0 9) (nfld b 9 5) + nfld b 16 8) * 2 ^ nfld b 14 2

/-- The first reason of R320 for the fields and the end of a header: DEPTH, then LENGTH. -/
def headBad (w : Walk) (kind adv a b c : Nat) : Option Nat :=
  let any := fun (p : Nat → Nat → Bool) =>
    p (nfld a 0 9) (nfld a 9 5) || (kind ≠ 1 && p (nfld b 0 9) (nfld b 9 5)) || p (nfld c 0 9) (nfld c 9 5)
  if any (fieldDeep w) || decide (512 < w.pos + adv) then some Rsn.depth
  else if any (fieldShort w) || decide (w.enc < w.pos + adv) then some Rsn.length
  else none

/-- The enclosing end after a node's total field (R320), none for LENGTH. -/
def totalEnd (d : List Byte) (w : Walk) (adv c : Nat) : Option Nat :=
  if nfld c 9 5 = 0 then some w.enc
  else
    let total := bitsAt d (w.pos * 8 + nfld c 0 9) (nfld c 9 5) + nfld c 16 8
    if total < adv || w.enc < w.pos + total then none else some (w.pos + total)

/-- The enclosing end `e` after an RTP header: its version, then its padding (R320). -/
def rtpEnd (d : List Byte) (w : Walk) (adv e : Nat) : Except Nat Nat :=
  let n := (d.getD (e - 1) 0).toNat
  if bitsAt d (w.pos * 8) 2 ≠ 2 then .error Rsn.rtpVersion
  else if bitsAt d (w.pos * 8 + 2) 1 = 0 then .ok e
  else if n = 0 || e - (w.pos + adv) < n then .error Rsn.length
  else .ok (e - n)

/-- The next node of a walk (R319 step 4): the first transition that matches, else the default. -/
def nextNode (s : State) (d : List Byte) (pos n a : Nat) : Nat × Nat :=
  let bits := nfld a 9 5
  let v := bitsAt d (pos * 8 + nfld a 0 9) bits
  match (if bits = 0 then none else (transFrom s n).find? fun t => v &&& t.mask = t.val &&& t.mask) with
  | some t => (t.kind, t.next)
  | none => (nfld a 20 2, nfld a 14 6)

/-- One node of a walk (R319, R320), its checks in the order of R320: the walk after its header, and its next node, none at
the end. -/
def walkNode (s : State) (d : List Byte) (n : Nat) (w : Walk) : Except Nat (Walk × Option Nat) :=
  let a := nodeWord s n 0
  let b := nodeWord s n 1
  let c := nodeWord s n 2
  let kind := nfld a 26 2
  let layer := nfld a 22 4
  let adv := advance d w kind b
  match headBad w kind adv a b c, totalEnd d w adv c with
  | some r, _ => .error r
  | none, none => .error Rsn.length
  | none, some e0 =>
    match (if kind = 1 then rtpEnd d w adv e0 else .ok e0) with
    | .error r => .error r
    | .ok e =>
      let w1 : Walk := { start := tset w.start layer w.pos, stop := tset w.stop layer (w.pos + adv), pos := w.pos + adv, enc := e }
      if kind = 2 then
        let len := e - w.pos
        if len = 0 || len % 188 ≠ 0 then .error Rsn.length
        else
          match tsCheck d w.pos (len / 188) with
          | some r => .error r
          | none => .ok (w1, none)
      else
        let (k, nx) := nextNode s d w.pos n a
        if k = 0 then .ok (w1, some nx) else if k = 1 then .ok (w1, none) else .error Rsn.unknown

/-- A walk from a node; entering a 17th node is DEPTH (R320). With a reason, what was recorded before it. -/
def walkFrom (s : State) (d : List Byte) : Nat → Nat → Walk → Walk × Option Nat
  | 0, _, w => (w, some Rsn.depth)
  | k + 1, n, w =>
    match walkNode s d n w with
    | .error r => ({ w with start := tset w.start (nfld (nodeWord s n 0) 22 4) w.pos }, some r)
    | .ok (w1, none) => (w1, none)
    | .ok (w1, some nx) => walkFrom s d k nx w1

/-- The walk of a frame (R319, R321). -/
def walk (s : State) (d : List Byte) (start : Nat) : Walk × Option Nat := walkFrom s d 16 start { enc := d.length }

/-- The start of the last header of a layer, none where the walk met none. -/
def Walk.at_ (w : Walk) (l : Nat) : Option Nat := tget w.start l

end Sys2Proof.Machine
end

