-- ==== Sys2Proof/Machine/Classify.lean ====
section
/-! DEFINITION. What happens to a frame on its way in (R322 to R332, R336 to R338, R358, R359): tables T0 to T3, meters,
the reordering window, ST 2022-1 recovery, host rings and exceptions. -/

namespace Sys2Proof.Machine

/-! Frames and tables. -/

/-- The VLAN ID of a VLAN layer: the header begins at its tag control information, as node 49 of R497 has it. -/
def vidOf (d : List Byte) (w : Walk) (l : Nat) : Option Nat := (w.at_ l).map fun o => beAt d o 2 % 4096

/-- A frame's T0 key (R324): PORT, TO, TI, OVID, IVID. -/
def t0Key (port : Nat) (o i : Option Nat) : Nat :=
  port + b2n o.isSome * 8 + b2n i.isSome * 16 + (o.getD 0) * 32 + (i.getD 0) * 2 ^ 17

/-- The first valid T0 entry that matches a key (R324). -/
def t0Find (s : State) (key : Nat) : Option Nat :=
  (List.range 256).find? fun i =>
    bit (t0Word s i 2) 6 &&
      (let m := (t0Word s i 1).toNat % 2 ^ 29
       key &&& m = (t0Word s i 0).toNat % 2 ^ 29 &&& m)

/-- HOLDING, SHARED and DOMAIN of a T0 entry. -/
def t0Hold (s : State) (i : Nat) : Nat := fld (t0Word s i 2) 0 5
/-- See `t0Hold`. -/
def t0Shared (s : State) (i : Nat) : Bool := bit (t0Word s i 2) 5
/-- See `t0Hold`. -/
def t0Domain (s : State) (i : Nat) : Nat := fld (t0Word s i 2) 8 8

/-- Fields of a frame's headers that T1 and T3 read. -/
structure Heads where
  /-- EtherType. -/
  ether : Nat := 0
  /-- IP protocol. -/
  proto : Nat := 0
  /-- DSCP. -/
  dscp : Nat := 0
  /-- UDP or TCP destination and source ports. -/
  dport : Nat := 0
  /-- See `dport`. -/
  sport : Nat := 0
  /-- IP destination and source, 16 bytes. -/
  dst : List Byte := List.replicate 16 0
  /-- See `dst`. -/
  src : List Byte := List.replicate 16 0
  /-- UDP over IPv4, over IPv6. -/
  udp4 : Bool := false
  /-- See `udp4`. -/
  udp6 : Bool := false
  deriving DecidableEq, Repr

/-- Bytes padded to 16. -/
def to16 (l : List Byte) : List Byte := (l ++ List.replicate 16 0).take 16

/-- The header fields of a walked frame (R325, R327). With both IP versions recorded, the later header counts. -/
def headsOf (d : List Byte) (w : Walk) : Heads :=
  let ether := match w.at_ 2, w.at_ 1, w.at_ 0 with
    | some o, _, _ => beAt d (o + 2) 2
    | none, some o, _ => beAt d (o + 2) 2
    | none, none, some o => beAt d (o + 12) 2
    | none, none, none => 0
  let v6 := match w.at_ 3, w.at_ 4 with | none, some _ => true | some a, some b => a < b | _, _ => false
  let ip := if v6 then w.at_ 4 else w.at_ 3
  match ip with
  | none => { ether := ether }
  | some o =>
    let proto := if v6 then beAt d (o + 6) 1 else beAt d (o + 9) 1
    let dscp := if v6 then beAt d o 2 / 64 % 64 else beAt d (o + 1) 1 / 4
    let l4 := match w.at_ 5 with
      | some u => some u
      | none => if proto = 6 then tget w.stop (if v6 then 4 else 3) else none
    let ports := match l4 with | some u => (beAt d (u + 2) 2, beAt d u 2) | none => (0, 0)
    { ether := ether, proto := proto, dscp := dscp, dport := ports.1, sport := ports.2,
      dst := if v6 then slice d (o + 24) 16 else to16 (slice d (o + 16) 4),
      src := if v6 then slice d (o + 8) 16 else to16 (slice d (o + 12) 4),
      udp4 := !v6 && (w.at_ 5).isSome, udp6 := v6 && (w.at_ 5).isSome }

/-- A T1 key (R325). -/
def t1Key (domain prof : Nat) (dst src : List Byte) (dport sport : Nat) : List Byte :=
  let any := prof % 2 = 1
  toLE 1 domain ++ to16 dst ++ (if any then List.replicate 16 0 else to16 src) ++ toBE 2 dport ++
    toBE 2 (if any then 0 else sport)

/-- Two T1 entries have one key. -/
def T1E.same (a b : T1E) : Bool := a.prof = b.prof && a.key = b.key

/-- The T1 entry of a frame (R325): an entry on another port, or of another holding without SHARED, is a miss. -/
def t1Find (s : State) (port hold domain : Nat) (shared : Bool) (h : Heads) : Option T1E :=
  let look := fun (prof : Nat) =>
    let k := t1Key domain prof h.dst h.src h.dport h.sport
    s.ing.t1.find? fun e => e.prof = prof && e.key = k && e.ports.testBit port && (e.hold = hold || shared)
  if h.udp4 then (match look 0 with | some e => some e | none => look 1)
  else if h.udp6 then (match look 2 with | some e => some e | none => look 3)
  else none

/-- The metadata word (R322). -/
structure Meta where
  /-- PORT. -/
  port : Nat
  /-- HOLDING. -/
  hold : Nat
  /-- DOMAIN. -/
  domain : Nat := 0
  /-- FLOW, with FLOW_VALID. -/
  flow : Option Nat := none
  /-- PASS2. -/
  pass2 : Bool := false
  /-- PID, with PID_VALID. -/
  pid : Option Nat := none
  /-- ROLE. -/
  role : Nat := 0
  deriving DecidableEq, Repr

/-- Its 64 bits. -/
def Meta.word (m : Meta) : Nat :=
  m.port + m.hold * 8 + m.domain * 256 + (m.flow.getD 0) * 2 ^ 16 + b2n m.flow.isSome * 2 ^ 30 + b2n m.pass2 * 2 ^ 31 +
    (m.pid.getD 0) * 2 ^ 32 + b2n m.pid.isSome * 2 ^ 45 + m.role * 2 ^ 46

/-- The T3 key (R327). -/
def t3Key (m : Meta) (h : Heads) : List Byte :=
  toLE 8 m.word ++ toBE 2 h.ether ++ toLE 1 h.proto ++ toLE 1 h.dscp ++ toBE 2 h.dport ++ toBE 2 h.sport ++
    to16 h.dst ++ to16 h.src

/-- T3's action: that of its first valid entry that matches (R327). -/
def t3Find (s : State) (key : List Byte) : Option Word :=
  let k := leNat key
  ((List.range 1024).find? fun i =>
    let a := t3Addr i
    bit (s.r2 (a + 0x64)) 0 &&
      (List.range 12).all fun j =>
        let kw := w32 (k >>> (32 * j))
        kw &&& s.r2 (a + 0x30 + 4 * j) == s.r2 (a + 4 * j) &&& s.r2 (a + 0x30 + 4 * j)).map fun i => s.r2 (t3Addr i + 0x60)

/-- The resolved action of a frame or packet (R328): the last KIND other than NONE, the last meter, MIRROR of any. -/
structure Act where
  /-- The action word whose KIND counts; none for NONE. -/
  act : Option Word := none
  /-- The meter. -/
  meter : Option Nat := none
  /-- MIRROR. -/
  mirror : Bool := false
  deriving DecidableEq, Repr

/-- Resolve the actions of the tables, in order. -/
def resolve (l : List Word) : Act :=
  l.foldl
    (fun a w => { act := if actKind w = 0 then a.act else some w,
                  meter := if bit w 13 then some (fld w 14 12) else a.meter,
                  mirror := a.mirror || bit w 26 }) {}

/-! Meters (R332). -/

/-- Colours. -/
inductive Colr where
  | green | yellow | red
  deriving DecidableEq, Repr

/-- Tokens of a byte. -/
def byteTok : Nat := 8000000

/-- A bucket refilled since `t0`, up to its size: kbit/s, bytes. -/
def refill (now t0 : DWord) (rate size tok : Nat) : Nat := Nat.min (size * byteTok) (tok + rate * (now - t0).toNat)

/-- A frame of `n` bytes meets a meter (R332; RFC 2698, colour-blind). -/
def meterFrame (s : State) (m n : Nat) : Colr × State :=
  let a := A.ingMeter m
  let cir := fld (s.r2 a) 0 28
  let pir := fld (s.r2 (a + 4)) 0 28
  let cbs := fld (s.r2 (a + 8)) 0 24
  let pbs := fld (s.r2 (a + 12)) 0 24
  let b := tgetD s.ing.mbkt m { c := cbs * byteTok, p := pbs * byteTok, t := s.tim.dtb }
  let c := refill s.tim.dtb b.t cir cbs b.c
  let p := refill s.tim.dtb b.t pir pbs b.p
  let k := n * byteTok
  let put := fun (c p : Nat) => s.setIng { s.ing with mbkt := tset s.ing.mbkt m { c := c, p := p, t := s.tim.dtb } }
  if p < k then (.red, put c p) else if c < k then (.yellow, put c (p - k)) else (.green, put (c - k) (p - k))

/-- YELLOW of a meter. -/
def meterYellow (s : State) (m : Nat) : Nat := fld (s.r2 (A.ingMeter m + 8)) 24 4

/-! Host rings (R331, R358, R359). -/

/-- One more frame lost by a ring. -/
def ringDrop (s : State) (ring : Nat) : State :=
  let x := tgetD s.dma.rx ring {}
  { s with dma := { s.dma with rx := tset s.dma.rx ring { x with drops := Nat.min 65535 (x.drops + 1) } } }

/-- The 32-byte record of R331. -/
def rxRecord (len reason : Nat) (trunc mirror : Bool) (m : Meta) (drops : Nat) (f : Frame) : List Byte :=
  toLE 2 len ++ toLE 1 reason ++ toLE 1 (b2n trunc + b2n mirror * 2 + b2n m.pass2 * 4) ++ toLE 4 drops ++
    toLE 8 m.word ++ toLE 8 f.arrive.toNat ++ toLE 8 f.start.toNat

/-- Write a frame into a ring (R331, R358, R359, R517): whether it was delivered; the second Bool says that the notice waits
for its completion queue. -/
def rxPut (s : State) (ring reason : Nat) (mirror : Bool) (m : Meta) (f : Frame) : Bool × Bool × State :=
  let h := ring / 32
  let i := ring % 32
  let c := rxCtrl s h i
  let x := tgetD s.dma.rx ring {}
  let size := 2 ^ fld c 1 4
  let ci := fld (s.r0 h (B.rxr i + 12)) 0 16
  if !bit c 0 || !s.active h || !s.native h || idxDist size x.pi ci = size then (false, false, ringDrop s ring)
  else
    let room := 2 ^ fld c 5 4 - 32
    let body := f.data.take room
    match allocChain s h (itemCells body.length) with
    | (none, s1) => (false, false, ringDrop s1 ring)
    | (some k, s1) =>
      let base := (s.q0 h (B.rxr i)).toNat
      let pi := idxNext size x.pi
      let bs := rxRecord body.length reason (room < f.data.length) mirror m x.drops f ++ body
      let s2 := ((decRef s1 k 2).emit (.hostWrite h (base + x.pi % 0x8000 * 2 ^ fld c 5 4) bs)).emit
        (.hostWrite h (base + 2 ^ (fld c 1 4 + fld c 5 4)) (toLE 4 pi))
      let s3 := countDma { s2 with dma := { s2.dma with rx := tset s2.dma.rx ring { pi := pi, drops := 0 } } } h
        (bs.length + 4)
      if bit c 9 && idxDist size x.pi ci = 0 then
        match cqPost s3 (qkey h (fld c 16 10))
            { final := true, tag := 0, status := St.rxReady, sqid := 0, field := 0, ctx := 0,
              result := w64 (pi + (0x2000 + ring) * 65536) } with
        | some s4 => (true, false, s4)
        | none => (true, true, s3)
      else (true, false, s3)

/-- A frame's way so far: the state, frames to walk again with their start node, and whether it must wait. -/
structure Cls where
  /-- The state. -/
  s : State
  /-- Passes to come: frame, start node, PASS2. -/
  next : List (Frame × Nat) := []
  /-- A completion queue's hold is full. -/
  stuck : Bool := false

/-- The PV16 holding that a port serves (R496). -/
def pvPortHold (s : State) (p : Nat) : Option Nat :=
  if p < 4 then (s.hold.find? fun x => x.2.pv && x.2.pvPorts.getLsbD p).map (·.1) else none

/-- A frame of a PV16 port that the tables do not deliver is counted in its DROP (R497). -/
def pvDrop (s : State) (p : Nat) : State :=
  match pvPortHold s p with
  | some h => s.cnt0 h (0xC18 + p * 0x40)
  | none => s

/-- An exception (R330). -/
def except (c : Cls) (m : Meta) (reason : Nat) (f : Frame) : Cls :=
  let s := pvDrop c.s f.port
  let h := m.hold
  let cfg := s.r2 (A.ingExcCfg h)
  let rate := s.r2 (A.ingExcRate h)
  let burst := Nat.max 1 (fld rate 16 8)
  let taken := tgetD s.ing.taken h 0
  let drop := fun (t : State) => t.cnt2 (A.ingExcDrop h) 0 31
  if burst ≤ taken then { c with s := drop s }
  else
    let s1 := s.setIng { s.ing with taken := tset s.ing.taken h (taken + 1) }
    if !bit cfg 10 || fld rate 0 16 = 0 then { c with s := drop s1 }
    else
      let (ok, st, s2) := rxPut s1 (fld cfg 0 10) reason false m f
      { c with s := if ok then s2 else drop s2, stuck := c.stuck || st }

/-- A mirror copy (R328, R330). -/
def mirrorCopy (c : Cls) (m : Meta) (f : Frame) : Cls :=
  let cfg := c.s.r2 (A.ingExcCfg m.hold)
  if !bit cfg 26 then c
  else
    let (ok, st, s2) := rxPut c.s (fld cfg 16 10) 0 true m f
    { c with s := if ok then s2 else s2.cnt2 (A.ingExcDrop m.hold) 0 31, stuck := c.stuck || st }

/-! Flows (R336 to R338). -/

/-- Set a flow. -/
def State.setFlow (s : State) (t : Nat) (x : Flow) : State := s.setIng { s.ing with flow := tset s.ing.flow t x }

/-- CHN_ING_PATH of a flow's channel (R337). -/
def showPath (s : State) (x : Flow) : State := s.wch x.chan B.ingPath (w32 (1 + x.up * 2))

/-- A flow delivers a packet: a lost source is back (R174). -/
def sourceBack (s : State) (c : Nat) : State :=
  s.modChan c fun y => if y.st == .sourceLost then { y with st := if y.begun then .running else .opened } else y

/-- Deliver a payload to a channel's FIFO as one item (R352, R356). -/
def toChannel (s : State) (c : Nat) (pay : List Byte) (t : DWord) : Bool × State :=
  match s.chan c with
  | some y => commitWhole (sourceBack s c) (fin_ c) y.hold y.blk.fifoCells pay t
  | none => (false, s)

/-- Deliver one packet of a flow: the marker of a run of lost numbers goes before it (R336), and PKTS counts it. -/
def deliverPkt (s : State) (t : Nat) (num : Option Nat) (pay : List Byte) (arrive : DWord) : State :=
  match tget s.ing.flow t with
  | none => s
  | some x =>
    let s1 := if x.run = 0 then s
      else s.setFifo (fin_ x.chan) (addPending (s.fifo (fin_ x.chan)) x.run (x.run * pay.length) s.tim.dtb)
    let (ok, s2) := toChannel s1 x.chan pay arrive
    let s3 := if ok then s2.addqch x.chan B.ingPkts 1 else s2
    s3.setFlow t { x with run := 0, lost := false, done := match num with | some n => (n :: x.done).take 64 | none => x.done }

/-- Width of the numbers of a flow's window. -/
def Flow.mod (x : Flow) : Nat := if x.mode.testBit 4 then 2 ^ 32 else 2 ^ 16

/-- Deliver the held packets that are in order (R336). -/
def drainHeld (s : State) (t : Nat) : Nat → State
  | 0 => s
  | n + 1 =>
    match tget s.ing.flow t with
    | none => s
    | some x =>
      match x.e, x.held.find? (fun p => some p.num = x.e) with
      | some e, some p =>
        let s1 := deliverPkt (decRef s p.cell 0) t (some p.num) p.pay p.arrive
        let s2 := match tget s1.ing.flow t with
          | some y => s1.setFlow t { y with e := some ((e + 1) % x.mod), held := y.held.filter fun q => q.num ≠ p.num }
          | none => s1
        drainHeld s2 t n
      | _, _ => s

/-- The number at E is lost if no packet holds it, delivered otherwise; `k` times (R336). -/
def slide (s : State) (t : Nat) : Nat → State
  | 0 => s
  | k + 1 =>
    match tget s.ing.flow t with
    | none => s
    | some x =>
      match x.e with
      | none => s
      | some e =>
        if x.held.any fun p => p.num = e then
          let s1 := drainHeld s t 1
          slide s1 t k
        else
          let s1 := (s.setFlow t { x with e := some ((e + 1) % x.mod), run := x.run + 1 }).cntch x.chan B.ingLoss 0 16
          slide s1 t k

/-- A packet of number `n` enters its flow's window (R336). The Bool says that it is new: delivered or held. -/
def windowIn (s : State) (t : Nat) (x : Flow) (n : Nat) (pay rtp : List Byte) (arrive : DWord) : Bool × State :=
  let w := x.mod
  let e := x.e.getD n
  let d := (n + w - e) % w
  let put := fun (u : State) => match tget u.ing.flow t with
    | some y => u.setFlow t { y with e := some ((n + 1) % w) }
    | none => u
  let hold := fun (u : State) =>
    match tget u.ing.flow t with
    | none => (false, u)
    | some y =>
      match allocChain u y.hold (itemCells pay.length) with
      | (none, u1) => (false, u1)
      | (some c, u1) =>
        (true, u1.setFlow t { y with held := y.held ++ [{ num := n, arrive := arrive, pay := pay, cell := c, rtp := rtp }] })
  let s0 := s.setFlow t { x with e := some e }
  if d = 0 then (true, drainHeld (put (deliverPkt s0 t (some n) pay arrive)) t 64)
  else if d < 64 then
    if x.held.any fun p => p.num = n then (false, s0.cntch x.chan B.ingRepair 16 14) else hold s0
  else if w / 2 ≤ d then
    if w - 64 ≤ d && x.done.contains n then (false, s0.cntch x.chan B.ingRepair 16 14)
    else (false, s0.cntch x.chan B.ingLoss 16 14)
  else
    let k := d - 63
    let s1 := if k ≤ 64 then slide s0 t k
      else
        let s2 := slide s0 t 64
        match tget s2.ing.flow t with
        | some y => ((s2.setFlow t { y with e := some ((n + w - 63) % w), run := y.run + (k - 64) }).wch x.chan B.ingLoss
            (evAdd (s2.rch x.chan B.ingLoss) 0 16 (Nat.min 65536 (k - 64))))
        | none => s2
    let (ok, s3) := hold s1
    (ok, drainHeld s3 t 64)

/-- The history of media packets keeps the last 128, each in its own cells (R338, R517). -/
def keepHist (s : State) (t n : Nat) (rtp : List Byte) (arrive : DWord) : State :=
  match tget s.ing.flow t with
  | none => s
  | some x =>
    match allocChain s x.hold (itemCells rtp.length) with
    | (none, s1) => s1
    | (some c, s1) =>
      let l := { num := n, arrive := arrive, pay := [], cell := c, rtp := rtp } :: x.hist
      dropPkts (s1.setFlow t { x with hist := l.take 128 }) (l.drop 128)

/-- An ST 2022-1 packet from the RTP payload of a FEC packet; none for one that the device ignores (R338). `row` says which
port it came on. The layout of the header is PRESUMED from ST 2022-1 (log 42). -/
def fecOf (row : Bool) (p : List Byte) : Option FecPkt :=
  let b := fun i => (p.getD i 0).toNat
  let offset := b 13
  let na := b 14
  let ok := if row then offset = 1 && 1 ≤ na && na ≤ 20
    else decide (1 ≤ offset && offset ≤ 20 && 4 ≤ na && na ≤ 20 && offset * na ≤ 64)
  if p.length < 16 || b 12 / 8 % 8 ≠ 0 || (b 12 / 64 % 2 = 1) ≠ row || !ok then none
  else
    some { row := row, base := beAt p 0 2, offset := offset, na := na, lenRec := beAt p 2 2, ptRec := b 4 % 128,
           tsRec := beAt p 8 4, pay := p.drop 16 }

/-- The members of a FEC packet. -/
def FecPkt.members (f : FecPkt) : List Nat := (List.range f.na).map fun i => (f.base + i * f.offset) % 65536

/-- XOR of byte lists, the shorter padded with zeros. -/
def xorBytes : List Byte → List Byte → List Byte
  | [], l => l
  | l, [] => l
  | a :: x, b :: y => (a ^^^ b) :: xorBytes x y

/-- The packet that a FEC packet rebuilds from its other members, as an RTP packet (R338). -/
def rebuild (x : Flow) (f : FecPkt) : Option (List Byte) :=
  let find := fun n => x.hist.find? fun p => p.num = n
  let miss := f.members.filter fun n => (find n).isNone
  match miss, f.members.findSome? find with
  | [n], some q =>
    let l := f.members.filterMap find
    let xor := fun (a : Nat) (g : Pkt → Nat) => l.foldl (fun v p => v ^^^ g p) a
    let len := xor f.lenRec fun p => p.rtp.length - 12
    let pt := xor f.ptRec fun p => beAt p.rtp 1 1 % 128
    let ts := xor f.tsRec fun p => beAt p.rtp 4 4
    let pay := l.foldl (fun v p => xorBytes v (p.rtp.drop 12)) f.pay
    some ([0x80] ++ toBE 1 pt ++ toBE 2 n ++ toBE 4 ts ++ slice q.rtp 8 4 ++ to_ len pay)
  | _, _ => none
where
  /-- Exactly `n` bytes. -/
  to_ (n : Nat) (l : List Byte) : List Byte := (l ++ List.replicate n 0).take n

/-- Try every row and column of a flow: the first packet that can be rebuilt is recirculated (R329, R338). -/
def recover (c : Cls) (t : Nat) (f : Frame) : Cls :=
  match tget c.s.ing.flow t with
  | none => c
  | some x =>
    match x.fec.findSome? (rebuild x) with
    | none => c
    | some rtp =>
      let s1 := c.s.cntch x.chan B.ingRepair 0 16
      { c with s := s1, next := c.next ++ [({ f with data := x.lastHdr ++ rtp }, fld (s1.r2 A.ingGraph) 0 6)] }

/-- The path a port is of a flow: bit 0 A, bit 1 B. -/
def pathBit (x : Flow) (port : Nat) : Nat := if x.mode.testBit 2 && port = x.portB then 2 else 1

/-- A media packet of a bound flow: past the window with RTP, at once without (R336 to R338). `hdr` is all before the RTP
header. -/
def mediaIn (c : Cls) (t : Nat) (x : Flow) (f : Frame) (pass2 : Bool) (hdr rtp pay : List Byte) : Cls :=
  let x1 := { x with up := x.up ||| pathBit x f.port, lastHdr := if pass2 then x.lastHdr else hdr }
  let s0 := showPath (c.s.setFlow t x1) x1
  if !x.mode.testBit 0 then { c with s := deliverPkt s0 t none pay f.arrive }
  else
    let n := if x.mode.testBit 4 then beAt pay 0 2 * 65536 + beAt rtp 2 2 else beAt rtp 2 2
    let (fresh, s1) := windowIn s0 t x1 n pay rtp f.arrive
    if x.mode.testBit 3 && fresh then recover { c with s := keepHist s1 t n rtp f.arrive } t f else { c with s := s1 }

/-- A FEC packet of a bound flow (R338). -/
def fecIn (c : Cls) (t : Nat) (x : Flow) (row : Bool) (pay : List Byte) (f : Frame) : Cls :=
  match fecOf row pay with
  | none => { c with s := c.s.cntch x.chan B.ingDrop 20 10 }
  | some p => recover { c with s := c.s.setFlow t { x with fec := (p :: x.fec).take 128 } } t f

/-! The action stage (R328). -/

/-- What a frame is by the time its action is taken. -/
structure Pass where
  /-- The frame. -/
  f : Frame
  /-- Its walk. -/
  w : Walk
  /-- Its metadata. -/
  m : Meta
  /-- The T1 entry it matched. -/
  e : Option T1E
  /-- Holding of the frame for R328's test: under a SHARED T0 entry that of its T1 entry (log 41). -/
  owner : Nat

/-- The bound flow of a frame; none for an admin entry (R341). -/
def Pass.flow (p : Pass) : Option Nat := match p.e with | some e => if e.flow = 0x3FFF then none else some e.flow | none => none

/-- A CHANNEL target that the holding may deliver to (R328). -/
def chanOk (s : State) (h c : Nat) : Bool :=
  match s.chan c with
  | some y => y.hold = h && (y.st == .opened || y.st == .running || y.st == .sourceLost)
  | none => false

/-- A misdirected frame (R328). -/
def misdirect (c : Cls) (p : Nat) : Cls := { c with s := pvDrop (c.s.cnt2 A.ingMisdirect 0 31) p }

/-- Deliver a payload that resolved to CHANNEL. -/
def actChannel (c : Cls) (p : Pass) (ch : Nat) (pay : List Byte) : Cls :=
  if !chanOk c.s p.owner ch then misdirect c p.f.port
  else
    match p.flow.bind fun t => (tget c.s.ing.flow t).map fun x => (t, x) with
    | some (t, x) =>
      let o := (p.w.at_ 6).getD 0
      let rtp := slice p.f.data o (p.w.enc - o)
      if p.m.role < 2 then mediaIn c t x p.f p.m.pass2 (p.f.data.take o) rtp pay
      else fecIn c t x (p.m.role = 3) (slice p.f.data ((tget p.w.stop 6).getD 0) (p.w.enc - (tget p.w.stop 6).getD 0)) p.f
    | none => { c with s := (toChannel c.s ch pay p.f.arrive).2 }

/-- Recirculation (R329). -/
def actRecirc (c : Cls) (p : Pass) (a : Word) : Cls :=
  match p.m.pass2, tget p.w.stop (fld a 3 4) with
  | false, some e => { c with next := c.next ++ [({ p.f with data := p.f.data.drop e }, fld a 7 6)] }
  | _, _ => except c p.m Rsn.recirc p.f

/-- The action of a frame, or of one packet of it: `f` is what a host ring gets. -/
def actOne (c : Cls) (p : Pass) (a : Option Word) (pay : List Byte) (f : Frame) : Cls :=
  match a with
  | none => except c p.m Rsn.unmatched f
  | some w =>
    match actKind w with
    | 1 => actChannel c p (actChan w) pay
    | 2 =>
      if actRing w / 32 = p.owner then
        let (_, st, s1) := rxPut c.s (actRing w) 0 false p.m f
        { c with s := s1, stuck := c.stuck || st }
      else misdirect c p.f.port
    | 3 => { c with s := pvDrop c.s p.f.port }
    | 4 => except c p.m Rsn.action f
    | _ => actRecirc c p w

/-- A meter's YELLOW share of its channel's FIFO is reached (R332). -/
def meterFull (s : State) (k : Nat) (target : Option Nat) : Bool :=
  match target with
  | some ch => (match s.chan ch with
    | some y => decide (meterYellow s k * y.blk.fifoCells ≤ 16 * fifoUsed (s.fifo (fin_ ch)))
    | none => false)
  | none => false

/-- A frame that its meter drops counts for its flow. -/
def meterDrop (s : State) (p : Pass) : State :=
  match p.flow.bind (tget s.ing.flow) with | some x => s.cntch x.chan B.ingDrop 0 10 | none => s

/-- The meter of a frame (R332): false when the frame is dropped. A meter whose EN is 0 does not mark (log 42). -/
def meterPass (c : Cls) (p : Pass) (m : Option Nat) (target : Option Nat) : Bool × Cls :=
  match m with
  | none => (true, c)
  | some k =>
    if !bit (c.s.r2 (A.ingMeter k + 12)) 29 then (true, c)
    else
      let q := meterFrame c.s k (p.f.data.length + 4)
      if q.1 = .green || (q.1 = .yellow && !meterFull q.2 k target) then (true, { c with s := q.2 })
      else (false, { c with s := meterDrop q.2 p })

/-- The channel of an action. -/
def targetOf (a : Option Word) : Option Nat := match a with | some w => if actKind w = 1 then some (actChan w) else none | none => none

/-- A PID without a T2 entry counts for its flow (R326). -/
def pidMiss (s : State) (t : Nat) (found : Bool) : State :=
  if found then s
  else match tget s.ing.flow t with | some x => s.cntch x.chan B.ingDrop 10 10 | none => s

/-- One packet `b` of a TS frame (R326 to R328): what goes to channels is gathered, what does not is acted on at once. -/
def tsOne (p : Pass) (acts : List Word) (h : Heads) (t : Nat) (b : List Byte)
    (q : Cls × List (Nat × List Byte) × Bool) : Cls × List (Nat × List Byte) × Bool :=
  let pid := beAt b 1 2 % 8192
  if pid = 0x1FFF then q
  else
    let m := { p.m with pid := some pid }
    let t2 := q.1.s.ing.t2.find? fun e => e.flow = t && e.pid = pid
    let c2 := { q.1 with s := pidMiss q.1.s t t2.isSome }
    let a2 := match t2 with | some e => e.action | none => (3 : Word)
    let r := resolve (acts ++ [a2] ++ (t3Find c2.s (t3Key m h)).toList)
    match targetOf r.act with
    | some ch => (c2, q.2.1 ++ [(ch, b)], q.2.2 || r.mirror)
    | none => (actOne c2 { p with m := m } r.act b { p.f with data := b }, q.2.1, q.2.2 || r.mirror)

/-- The packets of a TS frame that resolve to CHANNEL, and the others one by one (R326 to R328). -/
def tsStage (c : Cls) (p : Pass) (acts : List Word) (h : Heads) (t o : Nat) : Cls :=
  let r := (List.range ((p.w.enc - o) / 188)).foldl
    (fun q i => tsOne p acts h t (slice p.f.data (o + 188 * i) 188) q) (c, [], false)
  let c2 := if r.2.2 then mirrorCopy r.1 p.m p.f else r.1
  let chans := (r.2.1.map (·.1)).foldl insNat []
  chans.foldl (fun d ch => actChannel d p ch ((r.2.1.filter fun x => x.1 = ch).flatMap (·.2))) c2

/-- One pass of a frame (R319 to R328). -/
def classifyPass (c : Cls) (f : Frame) (start : Nat) (pass2 : Bool) : Cls :=
  let s := c.s
  let (w, bad) := walk s f.data start
  let o := vidOf f.data w 1
  let i := vidOf f.data w 2
  let t0 := t0Find s (t0Key f.port o i)
  let m : Meta := match t0 with
    | some k => { port := f.port, hold := t0Hold s k, domain := t0Domain s k, pass2 := pass2 }
    | none => { port := f.port, hold := fld (s.r2 (A.ingPortCtrl f.port)) 4 5, pass2 := pass2 }
  match bad with
  | some r => except c m r f
  | none =>
    let h := headsOf f.data w
    let shared := match t0 with | some k => t0Shared s k | none => false
    let e := t1Find s f.port m.hold m.domain shared h
    let m1 := match e with | some e => { m with flow := some e.flow, role := e.role } | none => m
    let p : Pass := { f := f, w := w, m := m1, e := e, owner := match e with | some e => e.hold | none => m.hold }
    let a0 := (t0.map fun k => t0Word s k 3).toList ++ (e.map fun e => e.action).toList
    let split := match e, w.at_ 7 with | some e, some o => if e.ts && e.flow ≠ 0x3FFF then some (e.flow, o) else none | _, _ => none
    match split with
    | some (t, o) =>
      let r := resolve a0
      let (ok, c1) := meterPass c p r.meter (targetOf r.act)
      if ok then tsStage c1 p a0 h t o
      else if r.mirror then mirrorCopy c1 p.m f else c1
    | none =>
      let r := resolve (a0 ++ (t3Find s (t3Key m1 h)).toList)
      let c0 := if r.mirror then mirrorCopy c p.m f else c
      let (ok, c1) := meterPass c0 p r.meter (targetOf r.act)
      if ok then actOne c1 p r.act (slice f.data w.pos (w.enc - w.pos)) f else c1

/-- Every pass of a frame: what it recirculates is walked again with PASS2 set (R329). -/
def classifyAll : Nat → Cls → Cls
  | 0, c => c
  | k + 1, c =>
    match c.next with
    | [] => c
    | (f, n) :: rest => classifyAll k (classifyPass { c with next := rest } f n true)

/-- A frame from the parser to its end. -/
def classifyFrame (s : State) (f : Frame) : Cls :=
  let start := if bit (s.r2 (A.ingPortCtrl f.port)) 3 then 48 else fld (s.r2 A.ingGraph) 0 6
  classifyAll 256 (classifyPass { s := s } f start false)

end Sys2Proof.Machine
end

