-- ==== Sys2Proof/Machine/Bind.lean ====
section
/-! DEFINITION. INGEST.BIND (R115, R335, R340, R341) and EGRESS.BIND (R115, R370 to R372). -/

namespace Sys2Proof.Machine

/-- A path of an ingest flow: port, VLAN ID with its tag, destination and source. -/
structure PathIn where
  /-- PORT. -/
  port : Nat
  /-- VLAN ID of a tagged path. -/
  vid : Option Nat
  /-- Destination address. -/
  dst : List Byte
  /-- Source address. -/
  src : List Byte
  /-- DST_PORT. -/
  dport : Nat
  /-- SRC_PORT. -/
  sport : Nat

/-- What INGEST.BIND asks for (R340). -/
structure IngIn where
  /-- MODE. -/
  mode : Nat
  /-- IPVER is 6. -/
  v6 : Bool
  /-- SRC_ANY. -/
  any : Bool
  /-- PID. -/
  pid : Nat
  /-- REORDER_US, 1,000 for 0. -/
  reorder : Nat
  /-- METER. -/
  meter : Option Nat
  /-- Its paths: one, or two with bit 2 of MODE. -/
  paths : List PathIn

/-- A VLAN field: [11:0] VID, [15] tagged. -/
def vlanIn (w : Nat) : Option Nat := if w.testBit 15 then some (w % 4096) else none

/-- The block of INGEST.BIND (R340). -/
def ingBlk (bs : List Byte) : IngIn :=
  let mode := byteAt bs 1
  let meter := leAt bs 0x32 2
  let a : PathIn := { port := byteAt bs 2, vid := vlanIn (leAt bs 4 2), dst := slice bs 0x10 16, src := slice bs 0x20 16,
                      dport := leAt bs 0x0A 2, sport := leAt bs 0x0C 2 }
  let b : PathIn := { port := byteAt bs 3, vid := vlanIn (leAt bs 6 2), dst := slice bs 0x40 16, src := slice bs 0x50 16,
                      dport := leAt bs 0x60 2, sport := leAt bs 0x62 2 }
  { mode := mode, v6 := byteAt bs 8 = 6, any := byteAt bs 9 = 1, pid := leAt bs 0x0E 2,
    reorder := if leAt bs 0x30 2 = 0 then 1000 else leAt bs 0x30 2,
    meter := if meter = 0xFFFF then none else some meter,
    paths := if mode.testBit 2 then [a, b] else [a] }

/-- The bytes from `lo` to `hi` (not included) are 0. -/
def zeroRange (bs : List Byte) (lo hi : Nat) : Bool := (slice bs lo (hi - lo)).all (· == 0)

/-- Every field of the block is in its range and every reserved byte is 0 (R340). -/
def ingBlkOk (bs : List Byte) : Bool :=
  let mode := byteAt bs 1
  let two := mode.testBit 2
  let vlanOk := fun (w : Nat) => w / 4096 % 8 = 0
  let meter := leAt bs 0x32 2
  byteAt bs 0 = 4 && mode < 32 && byteAt bs 2 < 8 &&
    (if two then byteAt bs 3 < 8 && byteAt bs 3 ≠ byteAt bs 2 else byteAt bs 3 = 0) &&
    vlanOk (leAt bs 4 2) && vlanOk (leAt bs 6 2) && (byteAt bs 8 = 4 || byteAt bs 8 = 6) && byteAt bs 9 < 2 &&
    (byteAt bs 9 = 0 || leAt bs 0x0C 2 = 0) &&
    (if mode.testBit 1 then leAt bs 0x0E 2 ≤ 0x1FFE else leAt bs 0x0E 2 = 0) &&
    (meter < 4096 || meter = 0xFFFF) && zeroRange bs 0x34 0x40 && zeroRange bs 0x64 0x80

/-- The modes that a channel's codec and the other bits allow (R341). -/
def ingModeOk (b : Blk) (mode : Nat) : Bool :=
  b.dec && (mode.testBit 0 || (!mode.testBit 2 && !mode.testBit 3 && !mode.testBit 4)) &&
    (!mode.testBit 4 || (!mode.testBit 1 && b.codec = 6)) && (b.codec ≠ 6 || mode.testBit 4) &&
    b.codec ≠ 4 && b.codec ≠ 5

/-- The T1 entries of a flow: one media entry per path, and FEC column and row entries with bit 3 (R338, R340). -/
def ingEntries (s : State) (h c tag : Nat) (b : IngIn) : List T1E :=
  let prof := b2n b.v6 * 2 + b2n b.any
  let act := w32 (1 + c * 8 + (match b.meter with | some m => 2 ^ 13 + m * 2 ^ 14 | none => 0))
  let cut := fun (a : List Byte) => if b.v6 then a else a.take 4
  b.paths.zipIdx.flatMap fun (p, i) =>
    let dom := match t0Find s (t0Key p.port p.vid none) with | some k => t0Domain s k | none => 0
    let mk := fun (off role : Nat) (ts : Bool) =>
      ({ prof := prof, key := t1Key dom prof (cut p.dst) (cut p.src) ((p.dport + off) % 65536) p.sport, flow := tag,
         role := role, ports := 2 ^ p.port, hold := h, ts := ts, action := act } : T1E)
    [mk 0 i (b.mode.testBit 1)] ++ (if b.mode.testBit 3 then [mk 2 2 false, mk 4 3 false] else [])

/-- No two entries of a list have one key. -/
def keysDiffer : List T1E → Bool
  | [] => true
  | e :: t => !t.any e.same && keysDiffer t

/-- The T0 entry, the keys and the meter that a flow needs are there (R341). -/
def ingTablesOk (s : State) (h : Nat) (b : IngIn) (es : List T1E) : Bool :=
  (b.paths.all fun p => match t0Find s (t0Key p.port p.vid none) with
    | some k => t0Hold s k = h || t0Shared s k
    | none => false) &&
  keysDiffer es && es.all (fun e => !s.ing.t1.any e.same) &&
  (match b.meter with
   | some m => let w := s.r2 (A.ingMeter m + 12)
               bit w 29 && fld w 24 5 = h
   | none => true)

/-- The counters and the path register of a channel's flow as INGEST.BIND leaves them. -/
def ingRegs0 (s : State) (c : Nat) : State :=
  ((((s.wqch c B.ingPkts 0).wch c B.ingLoss 0).wch c B.ingRepair 0).wch c B.ingDrop 0).wch c B.ingPath 1

/-- Bind an ingest flow of good fields: the slot it takes is none for RESOURCE_POOL, with which nothing changes (R340,
R341). -/
def bindIngest (s : State) (h c : Nat) (b : IngIn) : Option (Word × State) :=
  let es := ingEntries s h c 0 b
  let t2 : Nat := b2n (b.mode.testBit 1)
  if 16384 < s.ing.t1.length + es.length || 8192 < s.ing.t2.length + t2 then none
  else
    match lowestFree s.ing.flow 0 16383 with
    | none => none
    | some tag =>
      match newHandle s 4 h tag with
      | none => none
      | some (hnd, s1) =>
        let p := b.paths.getD 0 { port := 0, vid := none, dst := [], src := [], dport := 0, sport := 0 }
        let q := b.paths.getD 1 p
        let x : Flow := { hold := h, chan := c, slot := hSlot hnd, mode := b.mode, port := p.port, portB := q.port,
                          pid := b.pid, reorder := b.reorder, meter := b.meter }
        let t2e : List T2E := if b.mode.testBit 1 then [{ flow := tag, pid := b.pid, action := w32 (1 + c * 8) }] else []
        let s2 := s1.setIng { s1.ing with
          flow := tset s1.ing.flow tag x,
          t1 := s1.ing.t1 ++ ingEntries s h c tag b,
          t2 := s1.ing.t2 ++ t2e }
        some (hnd, ingRegs0 s2 c)

/-- INGEST.BIND (R115, R335, R340, R341). -/
def execIngestBind (f c : Nat) (s : State) : Res :=
  done s (issue 0xC2 anyIns f c s fun t k x i =>
    match useHandle t x.hold [1] (x.hnd i.a) with
    | none => faultJob t k St.handle
    | some o =>
      withBlock s t k x i (x.gr i.b + sext32 i.imm) 128 fun bs =>
        match t.chan o.ref with
        | none => faultJob t k St.handle
        | some y =>
          let b := ingBlk bs
          if !ingBlkOk bs || !ingModeOk y.blk b.mode || (ingFlowOf t o.ref).isSome ||
              !ingTablesOk t x.hold b (ingEntries t x.hold o.ref 0 b) then faultJob t k St.operand
          else
            match bindIngest t x.hold o.ref b with
            | some (hnd, t1) => giveHandle t1 k i St.ok hnd
            | none => giveHandle t k i St.pool 0)

/-! EGRESS.BIND. -/

/-- A PSI template of the block (R371). -/
def psiOf (bs : List Byte) (i : Nat) : Psi :=
  { addr := w64 (leAt bs (0x80 + 16 * i) 8), pid := leAt bs (0x88 + 16 * i) 2, ms := leAt bs (0x8A + 16 * i) 2,
    en := (byteAt bs (0x8C + 16 * i)).testBit 0, crc := (byteAt bs (0x8C + 16 * i)).testBit 1 }

/-- A value, or its default for 0. -/
def orElse (v d : Nat) : Nat := if v = 0 then d else v

/-- The block of EGRESS.BIND (R371) as a flow of a holding on a channel. -/
def egrBlk (bs : List Byte) (h c : Nat) (now : DWord) : EFlow :=
  let vpid := leAt bs 4 2
  let cbs := leAt bs 0x18 4
  let pbs := leAt bs 0x1C 4
  { hold := h, chan := c, slot := 0, mode := byteAt bs 1, svc := byteAt bs 3, port := byteAt bs 2, vpid := vpid,
    ppid := orElse (leAt bs 6 2) vpid, pkts := byteAt bs 8, pcrMs := orElse (byteAt bs 9) 35,
    holdUs := orElse (leAt bs 0x0A 2) 1000, dscp := byteAt bs 0x0C, ttl := byteAt bs 0x0D,
    feed := if byteAt bs 0x0E = 255 then none else some (byteAt bs 0x0E), feedLog2 := byteAt bs 0x0F,
    feedBase := w64 (leAt bs 0x38 8), cir := leAt bs 0x10 4, pir := leAt bs 0x14 4, cbs := cbs, pbs := pbs,
    quantum := leAt bs 0x20 2, qlimit := leAt bs 0x22 2, ssrc := w32 (leAt bs 0x24 4),
    muxDelay := orElse (leAt bs 0x28 4) 100000, vlan := leAt bs 0x2C 2, mac := slice bs 0x30 6, dst := slice bs 0x40 16,
    srcA := slice bs 0x50 16, dport := leAt bs 0x60 2, sport := leAt bs 0x62 2,
    psi := (List.range 4).map (psiOf bs), rtpSeq := now.toNat % 65536, ctok := cbs * byteTok, ptok := pbs * byteTok,
    tref := now }

/-- A PID that a stream of a flow may have. -/
def pidOk (p : Nat) : Bool := 0x20 ≤ p && p ≤ 0x1FFE

/-- An address of a block in the holding's device memory, aligned to 8. -/
def devAt (s : State) (h : Nat) (a : DWord) (len : Nat) : Bool :=
  a.toNat % 8 = 0 && (match place s h a len with | some (.dev _) => true | _ => false)

/-- The fields of the block that a flow does not show are good, and every reserved byte is 0 (R371). -/
def egrBlkOk (bs : List Byte) : Bool :=
  byteAt bs 0 = 5 && byteAt bs 1 < 16 && byteAt bs 2 < 8 && byteAt bs 3 < 64 && (leAt bs 6 2 = 0 || pidOk (leAt bs 6 2)) &&
    leAt bs 0x2C 2 / 4096 % 2 = 0 && zeroRange bs 0x2E 0x30 && zeroRange bs 0x36 0x38 && zeroRange bs 0x64 0x80 &&
    (List.range 4).all fun i => byteAt bs (0x8C + 16 * i) < 4 && zeroRange bs (0x8D + 16 * i) (0x90 + 16 * i)

/-- The fields of a flow are in their ranges (R371, R372). -/
def egrRanges (s : State) (x : EFlow) : Bool :=
  pidOk x.vpid && 1 ≤ x.pkts && x.pkts ≤ 7 && 10 ≤ x.pcrMs && x.pcrMs ≤ 100 && 10 ≤ x.holdUs && x.holdUs ≤ 10000 &&
    x.dscp < 64 && 1 ≤ x.ttl && (x.pir = 0 || x.cir ≤ x.pir) && 2048 ≤ x.cbs && x.cbs ≤ 16777215 && 2048 ≤ x.pbs &&
    x.pbs ≤ 16777215 && 1600 ≤ x.quantum && 16 ≤ x.qlimit && 100 ≤ x.muxDelay && x.muxDelay ≤ 10000000 &&
    (match x.feed with
     | some f => f < 32 && 12 ≤ x.feedLog2 && x.feedLog2 ≤ 24 && devAt s x.hold x.feedBase (2 ^ x.feedLog2)
     | none => true) &&
    x.psi.all fun p => !p.en || (p.pid ≤ 0x1FFE && 1 ≤ p.ms && devAt s x.hold p.addr 8)

/-- No number of a list occurs twice. -/
def allDiffer : List Nat → Bool
  | [] => true
  | a :: t => !t.contains a && allDiffer t

/-- The PIDs of a flow are as R372 wants them. -/
def egrPids (x : EFlow) : Bool :=
  allDiffer ([0x1FFF, x.vpid] ++ (if x.ppid = x.vpid then [] else [x.ppid]) ++ (x.psi.filter (·.en)).map (·.pid))

/-- The service takes the flow (R370, R372). -/
def egrSvcOk (s : State) (x : EFlow) : Bool :=
  let w := s.r2 (A.egrSvc x.svc)
  bit w 0 && fld w 1 3 = x.port && (fld w 16 5 = x.hold || bit w 21)

/-- The channel and the feed slot take the flow (R372). -/
def egrPlace (s : State) (b : Blk) (x : EFlow) : Bool :=
  b.enc && (s.egr.flow.filter fun p => p.2.chan == x.chan).length < 4 &&
    (match x.feed with
     | some f => !s.egr.flow.any fun p => p.2.hold == x.hold && p.2.feed == some f
     | none => true)

/-- The slot of flow `e`: its INDEX has the flow number in bits [7:0] (R370). -/
def egrSlot (s : State) (e : Nat) : Option Nat :=
  ((List.range 4096).find? fun j => !thas s.job.obj (5 * 0x100000 + e + j * 256)).map fun j => 5 * 0x100000 + e + j * 256

/-- Bind an egress flow of good fields; none is RESOURCE_POOL (R372). Its feed counts and its ERR register are 0. -/
def bindEgress (s : State) (x : EFlow) : Option (Word × State) :=
  match lowestFree s.egr.flow 0 256 with
  | none => none
  | some e =>
    match egrSlot s e with
    | none => none
    | some k =>
      let s1 := s.setJob { s.job with obj := tset s.job.obj k { hold := x.hold, ref := e } }
      let s2 := s1.setEgr { s1.egr with flow := tset s1.egr.flow e { x with slot := k } }
      let s3 := s2.w2 (A.egrFlow e + 0x18) 0
      some (mkHandle s3 k, match x.feed with
        | some f => (s3.w0 x.hold (B.egfPi f) 0).w0 x.hold (B.egfCi f) 0
        | none => s3)

/-- EGRESS.BIND (R115, R370 to R372). -/
def execEgressBind (f c : Nat) (s : State) : Res :=
  done s (issue 0xC3 anyIns f c s fun t k x i =>
    match useHandle t x.hold [1] (x.hnd i.a) with
    | none => faultJob t k St.handle
    | some o =>
      withBlock s t k x i (x.gr i.b + sext32 i.imm) 192 fun bs =>
        match t.chan o.ref with
        | none => faultJob t k St.handle
        | some y =>
          let e := egrBlk bs x.hold o.ref t.tim.dtb
          if !egrBlkOk bs || !egrRanges t e || !egrPids e || !egrSvcOk t e || !egrPlace t y.blk e then
            faultJob t k St.operand
          else
            match bindEgress t e with
            | some (hnd, t1) => giveHandle t1 k i St.ok hnd
            | none => giveHandle t k i St.pool 0)

end Sys2Proof.Machine
end

