-- ==== Sys2Proof/Machine/Gatherer.lean ====
section
/-! DEFINITION. The Interrupt Gatherer's commands (R158 to R166), and CHN_BYHANDLE (R167). -/

namespace Sys2Proof.Machine

/-- The function of holding `h` reaches its native registers. -/
def fnOn (s : State) (h : Nat) : Bool := barOn s h && s.native h

/-- Source `n` has a TARGET that names holding `h`; reserved sources name none (R166). -/
def srcOwn (s : State) (h n : Nat) : Bool := !srcReserved n && (s.src n).hold == h

/-- A write that R163, R166 or the rule of IGF_COAL and IGF_ROUTE ignores and counts. -/
def igfRefuse (s : State) (h : Nat) : State := s.cnt0 h B.igfRefused

/-- IGF_CLAIM: the function of holding `h` reads IGF_CLAIM of vector `v` (R162, R159). -/
def execIgfClaim (h v : Nat) (s : State) : Res :=
  if !fnOn s h || 64 ≤ v then .next s
  else
    match claimPick s h v with
    | none => .next { s.cnt2 A.igSpurious 0 31 with readData := 2047 }
    | some (_, n, vac) =>
      let s1 := if vac then s.setVac h { s.vac h with pend := false, act := true }
        else s.setSrc n { s.src n with pend := false, act := true }
      done s { s1 with readData := w64 n }

/-- What a COMPLETE of source `n` on vector `v` clears: the VACANT route first, then the TARGET route; none when neither is
ACTIVE there (R159, R163). -/
def completeSrc (s : State) (h v n : Nat) : Option State :=
  if n = 1280 + h && (h = 0 || h = 16) && (s.vac h).act && (s.vac h).vec = v then
    some (s.setVac h { s.vac h with act := false })
  else if srcOwn s h n && (s.src n).act && (s.src n).vec = v then some (s.setSrc n { s.src n with act := false })
  else none

/-- IGF_COMPLETE of vector `v`: a COMPLETE that clears an ACTIVE source sends a further message when it leaves the vector with
a deliverable source (R161, R163, R164). -/
def execIgfComplete (h vec : Nat) (v : Word) (s : State) : Res :=
  let n := fld v 0 11
  if !fnOn s h || 64 ≤ vec || n = 2047 then .next s
  else
    match completeSrc s h vec n with
    | none => .next (igfRefuse s h)
    | some s1 =>
      let k := h * 64 + vec
      let again := (delivVecs s).contains k && (delivVecs s1).contains k
      done s (if again then sendMsg s1 h vec else s1)

/-- A write that acts on one source of the holding, else ignored and counted (R166). -/
def igfAct (s : State) (h : Nat) (v : Word) (g : Src → Src) : State :=
  let n := fld v 0 11
  if srcOwn s h n then s.setSrc n (g (s.src n)) else igfRefuse s h

/-- IGF_MASK_SET (R166). -/
def execIgfMaskSet (h : Nat) (v : Word) (s : State) : Res :=
  if fnOn s h then done s (igfAct s h v fun x => { x with mask := true }) else .next s

/-- IGF_MASK_CLR (R166). -/
def execIgfMaskClr (h : Nat) (v : Word) (s : State) : Res :=
  if fnOn s h then done s (igfAct s h v fun x => { x with mask := false }) else .next s

/-- IGF_PEND_SET: the source is PENDING at once and its counter is unchanged (R166). -/
def execIgfPendSet (h : Nat) (v : Word) (s : State) : Res :=
  if fnOn s h then done s (igfAct s h v fun x => { x with pend := true }) else .next s

/-- IGF_PEND_CLR: PENDING and the event counter clear (R166). -/
def execIgfPendClr (h : Nat) (v : Word) (s : State) : Res :=
  if fnOn s h then done s (igfAct s h v fun x => { x with pend := false, ev := 0, timer := false }) else .next s

/-- The coalescing registers of a source written; a counter that has reached its new count makes the source PENDING
(R160). -/
def setCoal (x : Src) (v : Word) : Src :=
  let y := { x with cnt := fld v 0 8, time := fld v 8 16 }
  if 0 < y.ev && Nat.max 1 y.cnt ≤ y.ev then y.becomePending else y

/-- IGF_COAL_WRITE: on the source that IGF_SEL selects. -/
def execIgfCoalWrite (h : Nat) (v : Word) (s : State) : Res :=
  if !fnOn s h then .next s
  else
    let n := fld (s.r0 h B.igfSel) 0 11
    done s (if srcOwn s h n then s.setSrc n (setCoal (s.src n) v) else igfRefuse s h)

/-- A TARGET changes: an ACTIVE source leaves ACTIVE (R165). -/
def retarget (s : State) (n : Nat) (y : Src) : State :=
  let x := s.src n
  s.setSrc n (if x.hold = y.hold && x.vec = y.vec && x.prio = y.prio && x.en = y.en then x else { y with act := false })

/-- IGF_ROUTE_WRITE: vector and priority of the source that IGF_SEL selects (R158, R165). -/
def execIgfRouteWrite (h : Nat) (v : Word) (s : State) : Res :=
  if !fnOn s h then .next s
  else
    let n := fld (s.r0 h B.igfSel) 0 11
    done s (if srcOwn s h n then retarget s n { s.src n with vec := fld v 0 6, prio := fld v 8 4 } else igfRefuse s h)

/-- IG_TARGET_WRITE: the administrative holding writes the TARGET of source `n`; HOLDING changes only for device-level and
holding sources, and only to itself (R158, R165). -/
def execIgTargetWrite (w n : Nat) (v : Word) (s : State) : Res :=
  done s (adminWrite s w fun t =>
    if 2047 ≤ n then t
    else
      let x := t.src n
      let h := fld v 0 5
      if srcReserved n || (h ≠ x.hold && (n < 1280 || h ≠ w)) then t.cnt2 A.igTargetRefused 0 31
      else retarget t n { x with hold := h, vec := fld v 8 6, prio := fld v 16 4, en := bit v 31 })

/-- COALESCE_TIMER_EXPIRY: the coalescing time of source `n` is reached (R160). -/
def execCoalesceTimerExpiry (n : Nat) (s : State) : Res :=
  if !srcReserved n && (s.src n).timer then done s (s.setSrc n (s.src n).becomePending) else .next s

/-- Send the held messages of function `h` that nothing holds any more, where the vector still has a deliverable source
(R161). A vector of a PV16 function has one while a bit of it is set and not masked (R495). -/
def releaseMsgs (s : State) (h : Nat) : State :=
  s.intr.held.foldl
    (fun t k =>
      if k / 64 = h && !msgMasked t h (k % 64) then
        let t1 := { t with intr := { t.intr with held := remNat t.intr.held k } }
        let live := if t.native h then (delivVecs t).contains k
          else (List.range 32).any fun b => bit (t.r0 h 0x10) b && !bit (t.r0 h 0x14) b && pvVecOf b = k % 64
        if live then t1.emit (.msix h (k % 64)) else t1
      else t) s

/-- The register of a vector's mask bit. -/
def maskReg (s : State) (h v : Nat) : Nat := (if (s.hd h).pv then 0x300C else 0x80C) + v * 16

/-- MSIX_MASK_RELEASE: the host of function `h` clears the mask of vector `v`, or for 64 the function mask; the held messages
go (R161). -/
def execMsixMaskRelease (h v : Nat) (s : State) : Res :=
  let n := if (s.hd h).pv then 4 else 64
  if !(s.hd h).present then .next s
  else if v < n then .next (releaseMsgs (s.put0 h (maskReg s h v) 0 1 0) h)
  else .next (releaseMsgs (s.modHd h fun x => { x with fnMask := false }) h)

/-- CHN_BYHANDLE: the channel of a valid handle of this holding is selected, else NONE sets (R167). -/
def execChnByhandle (h : Nat) (v : Word) (s : State) : Res :=
  if !fnOn s h then .next s
  else
    match useHandle s h [1] v with
    | some o => .next (s.w0 h B.chnSel (w32 o.ref))
    | none => .next (s.put0 h B.chnSel 8 1 1)

end Sys2Proof.Machine
end

