-- ==== Sys2Proof/Machine/Holdings.lean ====
section
/-! DEFINITION. Holdings (02): functions that come and go, abrupt teardowns, ENABLE, quotas, and the administrative
role. -/

namespace Sys2Proof.Machine

/-! Sums of R31 over enabled holdings. -/

/-- Granules that spill cells take: 65,536 cells of 256 bytes each (R343). -/
def spillGranules (s : State) : Nat := fld (s.r2 A.grnSpill) 0 7

/-- HLD_DRAM_AVAIL (R388). -/
def dramAvail (s : State) : Nat := s.drm.raw * 15 / 16 - s.drm.raw / 32 - spillGranules s

/-- Channels that a holding reserves: a PV16 holding 16 (R29). -/
def chanRsv (x : Holding) (pv : Bool) : Nat := if pv then 16 else x.qChan

/-- The reasons of LAST_REFUSE, in the order tested (log 31): the sums of R31 over the enabled holdings of `s`; 0 when
they all hold. -/
def sumsRefuse (s : State) : Nat :=
  let sum := fun (f : Holding → Nat) => s.hold.foldl (fun n p => if p.2.enable then n + f p.2 else n) 0
  if 256 < sum (fun x => chanRsv x x.pv) then 0x10
  else if dramAvail s < sum (·.qDram) then 0x11
  else if totalCells s < sum cellMin then 0x12
  else if ceiling s < sum (·.qYoke) + 208 then 0x13
  else 0

/-- Set LAST_REFUSE. -/
def refuse (s : State) (code : Nat) : State := { s with adm := { s.adm with refuse := code } }

/-! Functions. -/

/-- The state of a holding whose function exists (R21). -/
def liveSt (x : Holding) : HSt := if x.enable then .active else .dormant

/-- A function comes into existence (R21, R22, R41). During a teardown it waits for the end of step 6 (R38). -/
def functionAppear (s : State) (h : Nat) : State :=
  let x := s.hd h
  if x.present then s
  else if x.st == .resetting then s.setHd h { x with back := true }
  else holdEvent (s.setHd h { x with present := true, d3 := false, st := liveSt x }) h 0b00001#5

/-- BOOT_STATUS.STAGE reads RUN: the host functions are enabled (R453 step 14). -/
def running (s : State) : Bool := fld (s.r2 A.bootStatus) 0 4 = 6

/-- The function of holding `h` could exist: its port is up, and it is the PF or a VF within NumVFs. -/
def functionFits (s : State) (h : Nat) : Bool := running s && (s.hp (h / 16)).up && decide (h % 16 ≤ (s.hp (h / 16)).vfs)

/-- FUNCTION_PRESENT (R21, R41). -/
def execFunctionPresent (h : Nat) (s : State) : Res :=
  if h < 32 && functionFits s h && !(s.hd h).present then done s (functionAppear s h) else .next s

/-- A function ceases to exist with the given teardown (R35); it does not come back at the end of one under way. -/
def functionGone (s : State) (h : Nat) (td : Td) : State :=
  let x := s.hd h
  if x.present || x.back then teardownStart (s.setHd h { x with present := false, back := false }) h td else s

/-- SRIOV_NUMVFS_WRITE: the host of port `p` sets NumVFs to `n` (R35, R41, R47). -/
def execSriovNumvfsWrite (p n : Nat) (s : State) : Res :=
  if p < 2 && n ≤ 15 && (s.hp p).up && running s then
    let s1 := s.modHp p fun x => { x with vfs := n }
    done s ((List.range 15).foldl
      (fun t i => if n < i + 1 then functionGone t (p * 16 + i + 1) .vfDisable else functionAppear t (p * 16 + i + 1)) s1)
  else .next s

/-- FUNCTION_LEVEL_RESET of the function of holding `h` (R35, R36). -/
def execFunctionLevelReset (h : Nat) (s : State) : Res :=
  if (s.hd h).present then done s (teardownStart (s.modHd h fun x => { x with d3 := false }) h .flr) else .next s

/-- D3HOT_TO_D0 (R48). -/
def execD3hotToD0 (h : Nat) (s : State) : Res :=
  if (s.hd h).present && (s.hd h).d3 then
    done s (teardownStart (s.modHd h fun x => { x with d3 := false }) h .flr)
  else .next s

/-- D0_TO_D3HOT (R48). -/
def execD0ToD3hot (h : Nat) (s : State) : Res :=
  if (s.hd h).present then done s (s.modHd h fun x => { x with d3 := true }) else .next s

/-! Teardown (R36). -/

/-- Engine work of the holding whose jobs have been cancelled. -/
def orphanWork (s : State) (h : Nat) : List Nat :=
  (s.job.work.filter fun p => p.2.ctx == noCtx && p.2.hold == h).map (·.1)

/-- A picture of one of the holding's channels is being coded. -/
def coding (s : State) (h : Nat) : Bool :=
  (s.vid.chan.any fun p => p.2.hold == h && p.2.cur.isSome) || (s.vid.grp.any fun p => p.2.hold == h && p.2.coding.isSome)

/-- Stop the pictures of a holding and discard their output (R36 step 4). -/
def cutPictures (s : State) (h : Nat) : State :=
  let ids := orphanWork s h
  let bufs := ids.flatMap fun n => match tget s.job.work n with | some w => w.uses | none => []
  let s1 := s.setJob { s.job with work := s.job.work.filter fun p => !ids.contains p.1 }
  let s2 := s1.setVid { s1.vid with
    chan := tmap s1.vid.chan fun _ x => if x.hold = h then { x with cur := none, look := [] } else x,
    grp := tmap s1.vid.grp fun _ x => if x.hold = h then { x with coding := none, look := [] } else x }
  reapBufs s2 (insAll [] bufs)
where
  /-- A list without repeats. -/
  insAll (l : List Nat) : List Nat → List Nat
    | [] => l
    | n :: t => insAll (insNat l n) t

/-- TEARDOWN_PICTURE_CUTOFF: at 60 ms the pictures that still run are stopped and their engines reset (R36 step 4). -/
def execTeardownPictureCutoff (h : Nat) (s : State) : Res :=
  let x := s.hd h
  if x.st == .resetting && !x.cut then done s ((cutPictures s h).modHd h fun y => { y with cut := true }) else .next s

/-- Every object that a holding owns goes (R36 step 5): handles, channels with their pools and FIFOs, groups and muxes,
semaphores and barriers, and every buffer. -/
def dropObjects (s : State) (h : Nat) : State :=
  let s1 := (s.vid.chan.filter fun p => p.2.hold == h).foldl (fun t p => closeChannel t p.1) (cutPictures s h)
  let gone := (s1.job.obj.filter fun p => p.2.hold == h).map (·.1)
  let s2 := gone.foldl freeSlot s1
  { s2 with
    job := { s2.job with sem := tfilter s2.job.sem fun _ x => x.hold ≠ h, bar := tfilter s2.job.bar fun _ x => x.hold ≠ h },
    vid := { s2.vid with
      buf := tfilter s2.vid.buf fun _ x => x.hold ≠ h,
      grp := tfilter s2.vid.grp fun _ x => x.hold ≠ h,
      mux := tfilter s2.vid.mux fun _ x => x.hold ≠ h } }

/-- The holding's interrupt sources lose PENDING, ACTIVE and their counts (R36 step 5, R165); those that follow the role lost
them at the event (log 57). -/
def dropSources (s : State) (h : Nat) : State := clearSources s fun n x => n < 1280 && x.hold = h

/-- Unmap the granules of a holding from number `g` on that no object lies in (R33, R390). -/
def unmapFrom (s : State) (h g : Nat) : State :=
  let used := fun n => s.vid.buf.any fun p =>
    p.2.hold == h && !p.2.pic && decide (p.2.addr / granule ≤ n) && decide (granule * n < p.2.addr + p.2.size)
  { s with drm := { s.drm with map := tfilter s.drm.map fun k _ =>
      !(k / 4096 = h && g ≤ k % 4096 && !used (k % 4096)) } }

/-- TARGET of the CQ source and the channel sources of a PV16 function (R495), and its queues as reset leaves them. -/
def pvInit (s : State) (h : Nat) : State :=
  match freeNum (cqNums s) with
  | none => s
  | some n =>
    let s1 := (s.hd h).pvChans.foldl (fun t c => t.setSrc (1024 + c) { hold := h, vec := 1, prio := 8, en := true })
      (s.setSrc n { hold := h, vec := 0, prio := 8, en := true })
    { s1.setCq (qkey h 0) { num := n, base := 0, log2 := 0 } with pv := tset s1.pv h {} }

/-- The end state of a teardown (R35, R36 step 6): RESET_DONE, the log entry of R37, and a function that came back
appears (R38). -/
def endTeardown (s : State) (h : Nat) : State :=
  let x := s.hd h
  let y := { x with td := none, cut := false, back := false, d3 := false, fnMask := false, dramBytes := 0,
                    st := if x.present then liveSt x else HSt.absent, latch := [], lowHeld := [],
                    pvPend := 0, pvAct := 0 }
  let z := if x.td = some .disable then { y with pvChans := [] } else y
  let s0 := if x.td = some .disable then s else resetBar0 s h
  let s1 := unmapFrom (s0.setHd h z) h (if z.enable then z.qDram else 0)
  let s2 := if z.pv && z.enable then pvInit s1 h else s1
  let s3 := holdEvent s2 h (if x.present then 0b00100#5 else 0b00110#5)
  let s4 := s3.raise { src := 14, hold := some h, code := St.cancelHolding }
  if x.back then functionAppear s4 h else s4

/-- TEARDOWN_COMPLETE: the pictures on engines have ended, channels close, objects and sources go, and the holding enters
its end state (R36 steps 5 and 6); in the safe state stopped pictures are discarded at once (R437). -/
def execTeardownComplete (h : Nat) (s : State) : Res :=
  let quiet := (orphanWork s h).isEmpty && (!coding s h || (s.hd h).cut)
  if (s.hd h).st == .resetting && (quiet || s.flt.safe) then
    done s (endTeardown (dropSources (dropObjects s h) h) h)
  else .next s

/-! ENABLE and quotas. -/

/-- The 16 lowest channel numbers that no PV16 holding has reserved and no channel occupies (R29). -/
def pvPick (s : State) : List Nat :=
  ((List.range 256).filter fun c => !thas s.vid.chan c && s.hold.all fun p => !p.2.pvChans.contains c).take 16

/-- ENABLE rises (R28, R29, R32): PERS is taken, the sums are checked, and the holding is ACTIVE with its counters at
zero (R448). -/
def enableHolding (s : State) (h : Nat) (pers : Bool) : State :=
  let x := s.hd h
  if x.st == .absent || x.st == .resetting then refuse s 0x16
  else
    let y := { x with enable := true, pers := pers, pv := pers }
    let code := sumsRefuse (s.setHd h y)
    let picks := pvPick s
    if code ≠ 0 then refuse s code
    else if pers && x.qDram < 17 then refuse s 0x14
    else if pers && picks.length < 16 then refuse s 0x15
    else
      let z := { y with st := HSt.active, pvChans := if pers then picks else [], latch := [], lowHeld := [] }
      let s1 := { s with b0 := s.b0.filter fun p => !(p.1 / 0x10000 = h && (pers || 0x8000 ≤ p.1 % 0x10000)) }
      let s2 := s1.setHd h z
      if pers then pvInit s2 h else s2

/-- HOLDING_ENABLE: function `w` writes HLDT_CTRL of holding `h` with ENABLE 1 and PERS `pers`. While ENABLE is 1 it
changes nothing (R28). -/
def execHoldingEnable (w h : Nat) (pers : Bool) (s : State) : Res :=
  done s (adminWrite s w fun t => if h < 32 && !(t.hd h).enable then enableHolding t h pers else t)

/-- HOLDING_DISABLE: function `w` writes HLDT_CTRL of holding `h` with ENABLE 0 and PERS `pers` (R28, R32, R35). With ENABLE 0
the holding is native at once, and a PV16 function's registers are gone. -/
def execHoldingDisable (w h : Nat) (pers : Bool) (s : State) : Res :=
  done s (adminWrite s w fun t =>
    let x := t.hd h
    if 32 ≤ h then t
    else if !x.enable then t.setHd h { x with pers := pers }
    else if x.st == .resetting then refuse t 0x16
    else if x.st == .absent then
      unmapFrom ({ t.setHd h { x with enable := false, pv := false, pvChans := [] } with pv := tdel t.pv h }) h 0
    else clearEnable t h)

/-- Write a quota register: 1 HLDT_QUOTA_CD, 2 HLDT_QUOTA_CELL, 3 HLDT_QUOTA_YOKE. -/
def quotaSet (x : Holding) (reg : Nat) (v : Word) : Holding :=
  match reg with
  | 1 => { x with qChan := fld v 0 9, qDram := fld v 16 13 }
  | 2 => { x with qMax := fld v 0 15, qMin := fld v 16 15 }
  | 3 => { x with qYoke := fld v 0 11 }
  | _ => x

/-- QUOTA_WRITE: function `w` writes quota register `reg` of holding `h` (R31 to R33, R390). -/
def execQuotaWrite (w h reg : Nat) (v : Word) (s : State) : Res :=
  done s (adminWrite s w fun t =>
    if 32 ≤ h || reg = 0 || 3 < reg then t
    else
      let x := t.hd h
      let y := quotaSet x reg v
      let t1 := t.setHd h y
      if !x.enable then t1
      else
        let code := sumsRefuse t1
        if code ≠ 0 then refuse t code
        else if x.pv && y.qDram < 17 then refuse t 0x14
        else unmapFrom t1 h y.qDram)

/-! The administrative role. -/

/-- A holding takes the role (R24, R27). -/
def takeRole (s : State) (h : Nat) : State :=
  let prev := match s.adm.owner with | some o => some o | none => s.adm.prev
  let hit := fun n (x : Src) => 1280 ≤ n && n ≤ 1375 && (match prev with | some o => x.hold == o | none => true)
  let s1 := (List.range 63).foldl
    (fun t i => let n := 1280 + i; let x := t.src n; if hit n x then t.setSrc n { x with hold := h } else t) s
  { s1 with adm := { s1.adm with owner := some h, prev := some h, lease := true } }

/-- RESULT of HLD_ADM_CTRL. -/
def admResult (s : State) (h code : Nat) : State := s.modHd h fun x => { x with result := code }

/-- HEARTBEAT: with the role it starts the lease again (R24). -/
def execHeartbeat (w : Nat) (s : State) : Res :=
  if barOn s w && s.adm.owner = some w then .next { s with adm := { s.adm with lease := true } } else .next s

/-- PROMOTE (R25, R27). -/
def execPromote (w : Nat) (s : State) : Res :=
  if !barOn s w then .next s
  else if w ≠ 0 && w ≠ 16 then done s (admResult s w 3)
  else if !s.native w || !s.active w then done s (admResult s w 2)
  else if s.adm.owner.isSome then done s (admResult s w 1)
  else done s (takeRole (admResult s w 0) w)

/-- HANDOVER (R26, R27). -/
def execHandover (w : Nat) (s : State) : Res :=
  if !barOn s w then .next s
  else if w ≠ 0 && w ≠ 16 then done s (admResult s w 3)
  else if s.adm.owner ≠ some w then done s (admResult s w 4)
  else if !s.native (16 - w) || !s.active (16 - w) then done s (admResult s w 2)
  else done s (takeRole (admResult s w 0) (16 - w))

/-- ADM_LEASE_EXPIRY: no heartbeat for ADM_LEASE_MS (R24); 0 disables expiry. -/
def execAdmLeaseExpiry (s : State) : Res :=
  if s.adm.owner.isSome && s.adm.lease && fld (s.r2 A.admLeaseMs) 0 16 ≠ 0 then done s (roleVacant s) else .next s

end Sys2Proof.Machine
end

