-- ==== Sys2Proof/Machine/HostPort.lean ====
section
/-! DEFINITION. The USB4 host ports and what goes wrong on them (03). -/

namespace Sys2Proof.Machine

/-- The highest generation a port trains to (HOSTP_CTRL.MAX_GEN). -/
def maxGen (s : State) (p : Nat) : Nat :=
  let g := fld (s.r2 (A.hostpCtrl p)) 0 3
  if g = 2 || g = 3 then g else 4

/-- HOST_LINK_TRAIN: port `p` trains with a partner whose best is generation `gen`, on a single lane or two (R42, R44). A
single lane goes no higher than Gen 3. -/
def execHostLinkTrain (p gen : Nat) (single : Bool) (s : State) : Res :=
  let x := s.hp p
  if 2 ≤ p || gen < 2 || (x.up && !x.outage) || !s.sys.powerGood || s.sys.porst then .next s
  else
    let g := Nat.min (Nat.min (Nat.min gen 4) (maxGen s p)) (if single then 3 else 4)
    let was := if x.gen = 0 then none else some (x.gen, x.single)
    let down := match was with | some (a, b) => decide (g < a) || (single && !b) | none => false
    let s1 := claimPll (s.modHp p fun y =>
      { y with up := true, gen := g, single := single, prev := was, clx := .cl0, outage := false }) (13 + p)
    done s (if down then devEvent s1 (A.hostpStatus p) 5 (1312 + p) else s1)

/-- HOST_LINK_LOSS: every function of port `p` goes with the port link loss teardown; LOST sets and
raises the port's source (R24, R35, R45, R157). -/
def execHostLinkLoss (p : Nat) (s : State) : Res :=
  if p < 2 && (s.hp p).up then
    let s1 := devEvent (s.modHp p fun y => { y with up := false, vfs := 0, clx := .cl0, outage := false })
      (A.hostpStatus p) 6 (1312 + p)
    done s ((List.range 16).foldl (fun t i => functionGone t (p * 16 + i) .linkLoss) s1)
  else .next s

/-- HOST_LINK_RECOVER: the link is back within 10 ms, and what waited for it goes on (R45). -/
def execHostLinkRecover (p : Nat) (s : State) : Res :=
  if p < 2 && (s.hp p).outage then .next (s.modHp p fun y => { y with outage := false }) else .next s

/-- RETRAIN of port `p`: the link is out until it is back or lost (R44, R45). -/
def retrain (s : State) (p : Nat) : State :=
  if p < 2 && (s.hp p).up then s.modHp p fun y => { y with outage := true, clx := .cl0 } else s

/-- HOST_PORT_RETRAIN: function `w` writes RETRAIN of port `p` (R44, R45). -/
def execHostPortRetrain (w p : Nat) (s : State) : Res := done s (adminWrite s w fun t => retrain t p)

/-- The link power state of a CLX number (FN_PORT.CLX). -/
def clxOf (n : Nat) : Clx := match n with | 1 => .cl0s | 2 => .cl1 | 3 => .cl2 | _ => .cl0

/-- CLX_ENTRY_REQUEST: the connection manager, which has enabled `en` (bit 0 CL0s, 1 CL1, 2 CL2), asks for CL0s (1), CL1
(2) or CL2 (3) while the link is idle or not (R46). -/
def execClxEntryRequest (p dest : Nat) (en : BitVec 3) (idle : Bool) (s : State) : Res :=
  if p < 2 && (s.hp p).up && !(s.hp p).outage then
    .next (s.modHp p fun y =>
      { y with clxEn := en, clx := if 1 ≤ dest && dest ≤ 3 && idle && bit en (dest - 1) then clxOf dest else y.clx })
  else .next s

/-- CLX_EXIT: the port leaves its CLx state (R46); its PLL is used again after CL2 (R408). -/
def execClxExit (p : Nat) (s : State) : Res :=
  if p < 2 && (s.hp p).up && (s.hp p).clx != .cl0 then
    let s1 := s.modHp p fun y => { y with clx := .cl0 }
    .next (if (s.hp p).clx == .cl2 then claimPll s1 (13 + p) else s1)
  else .next s

/-- PCIE_UNSUPPORTED_REQUEST (R48, R49). -/
def execPcieUnsupportedRequest (h : Nat) (s : State) : Res :=
  if (s.hd h).present then .next (s.emit (.unsupported h)) else .next s

/-! Failed DMA reads (R50). -/

/-- HOST_ABORT: counted and logged with the function and the host address (R50, R431). -/
def hostAborted (s : State) (h addr : Nat) : State :=
  (s.cnt0 h B.hcAbort).raise { src := 13, hold := some h, info0 := addr, code := St.hostAbort }

/-- The host address that a move reads, none where it reads none. -/
def moveSource (k : WorkKind) : Option (DWord × Nat) :=
  match k with
  | .xfer _ b len _ _ => some (b, len)
  | .pack _ a _ true _ _ => some (a, 1)
  | _ => none

/-- The outstanding instruction fails with MEMORY_HOST_ABORT (R50): a load ends its job, a move writes its status. -/
def workReadFail (s : State) (n : Nat) : State :=
  match tget s.job.work n with
  | none => s
  | some w =>
    match w.kind with
    | .ld a sm =>
      (match place s w.hold a (if sm then 4 else 8) with
       | some (.host x) =>
         let s1 := s.setJob { s.job with work := tdel s.job.work n }
         let s2 := match s1.ctx w.ctx with
           | some y => if y.ended.isNone then faultJob s1 w.ctx St.hostAbort else s1
           | none => s1
         hostAborted s2 w.hold x
       | _ => s)
    | k =>
      match moveSource k with
      | some (b, len) =>
        (match place s w.hold b len with
         | some (.host x) => hostAborted (endTurn (endWork s n (statusWord St.hostAbort 0)) k) w.hold x
         | _ => s)
      | none => s

/-- The read of a program line fails: its job ends with MEMORY_HOST_ABORT (R50, R63). -/
def lineReadFail (s : State) (k : Nat) : State :=
  match s.ctx k with
  | none => s
  | some x =>
    match wantWord x, x.ptr with
    | some w, some p =>
      if x.ended.isSome || x.wait != .none || fld p 62 2 ≠ 2 then s
      else hostAborted (faultJob s k St.hostAbort) x.hold ((p.toNat % 2 ^ 62 + 8 * w) / 256 * 256)
    | _, _ => s

/-- A read of a descriptor ring fails (R50, R518): of the descriptor, and the ring goes idle at its HEAD; of a
descriptor's data, and it ends with MEMORY_HOST_ABORT. -/
def ringReadFail (s : State) (r : Nat) : State :=
  let x := s.ring r
  match ringOwner s r with
  | none => s
  | some h =>
    match x.cur with
    | none =>
      if x.run && s.active h then
        hostAborted (s.setRing r { x with run := false, latch := false }) h
          ((s.q0 32 (B.dmar r)).toNat % 2 ^ 62 + x.head * 32)
      else s
    | some d =>
      match d.sk, place s h d.src d.len with
      | 0, some (.host a) =>
        (match ringDone s h r St.hostAbort 0 d with | some t => hostAborted t h a | none => s)
      | _, _ => s

/-- The read of a BS_IN's host buffer fails: its completion reports HOST_ERROR (R50, R494). -/
def pvReadFail (s : State) (k : Nat) : State :=
  match s.ctx k with
  | none => s
  | some x =>
    match x.pv with
    | some j =>
      if j.op = 0x10 && x.ended.isNone && x.wait == .none then hostAborted (endJob s k St.hostAbort 0) x.hold j.addr else s
    | none => s

/-- A DMA read of the device fails (R50). -/
def readFail (s : State) (r : ReadBy) : State :=
  match r with
  | .work n => workReadFail s n
  | .line f c => lineReadFail s (ckey f c)
  | .sq h q => sqReadFail s h q
  | .ring n => ringReadFail s n
  | .pv f c => pvReadFail s (ckey f c)

/-- DMA_READ_TIMEOUT (R50). -/
def execDmaReadTimeout (r : ReadBy) (s : State) : Res := done s (readFail s r)

/-- DMA_READ_ERROR_COMPLETION (R50). -/
def execDmaReadErrorCompletion (r : ReadBy) (s : State) : Res := done s (readFail s r)

/-! Refused accesses. -/

/-- BAR2_DENIED_ACCESS: a PF without the role reads 0 from BAR2, and its writes are ignored; each is counted (R52). -/
def execBar2DeniedAccess (h : Nat) (wr : Bool) (s : State) : Res :=
  if barOn s h && h % 16 = 0 && s.adm.owner ≠ some h then
    let s1 := s.cnt2 (A.hostpDenied (h / 16)) 0 31
    .next (if wr then s1 else { s1 with readData := 0 })
  else .next s

/-- PARTIAL_DWORD_WRITE: a dword whose byte enables are not all set is ignored and counted (R53). -/
def execPartialDwordWrite (h : Nat) (s : State) : Res :=
  if barOn s h then .next (s.cnt2 (A.hostpPartial (h / 16)) 0 31) else .next s

end Sys2Proof.Machine
end

