-- ==== Sys2Proof/Machine/NetPorts.lean ====
section
/-! DEFINITION. Network ports (R314 to R318, R342), the port buffers, pauses (R334), and the timers of ingest (R330, R336,
R337). -/

namespace Sys2Proof.Machine

/-- MODE of a port's quad. -/
def quadMode (s : State) (p : Nat) : Nat := fld (s.r2 (A.ingQuad (p / 4))) 0 2

/-- The port exists in its quad's mode (R314). -/
def portExists (s : State) (p : Nat) : Bool := decide (p < 8) && quadMode s p ≠ 0 && (quadMode s p ≠ 3 || p % 4 = 0)

/-- ENABLE of a port. -/
def portOn (s : State) (p : Nat) : Bool := bit (s.r2 (A.ingPortCtrl p)) 0

/-- A port. -/
def State.nport (s : State) (p : Nat) : NPort := tgetD s.ing.port p {}

/-- Set a port. -/
def State.setNport (s : State) (p : Nat) (x : NPort) : State := s.setIng { s.ing with port := tset s.ing.port p x }

/-- Its link is up (R318). -/
def linkUp (s : State) (p : Nat) : Bool := (s.nport p).link

/-- An event bit of ING_PORT_STATUS (R342). -/
def portEvent (s : State) (p b : Nat) : State := devEvent s (A.ingPortStatus p) b (1320 + p)

/-- The link of a PV16 port changed: CHANGE sets, and with it the PORT source of its holding (R495, R496). -/
def pvChange (s : State) (p : Nat) : State :=
  match pvPortHold s p with
  | some h =>
    if bit (s.r0 h (0xC04 + p * 0x40)) 8 then s
    else pvFire (s.w0 h (0xC04 + p * 0x40) (s.r0 h (0xC04 + p * 0x40) ||| 0x100)) h 0
  | none => s

/-- A port is enabled (R314): its quad's PLL is claimed (R409). -/
def enablePort (s : State) (p : Nat) : State :=
  if portExists s p && !portOn s p then claimPll (s.put2 (A.ingPortCtrl p) 0 1 1) (10 + p / 4) else s

/-- NET_PORT_ENABLE: function `w` sets ING_PORT_CTRL.ENABLE of port `p`; a port that does not exist ignores it (R314). -/
def execNetPortEnable (w p : Nat) (s : State) : Res := done s (adminWrite s w fun t => enablePort t p)

/-- A flow enters the source-lost state (R318): its channel enters SOURCE_LOST, and its FIFO receives a gap marker that
counts what its window held and discarded. -/
def loseFlow (s : State) (t : Nat) : State :=
  match tget s.ing.flow t with
  | none => s
  | some x =>
    if x.lost then s
    else
      let n := x.held.length
      let bytes := x.held.foldl (fun a p => a + p.pay.length) 0
      let at_ := match x.held.head? with | some p => p.arrive | none => s.tim.dtb
      let s1 := (dropPkts s x.held).setFlow t { x with held := [], lost := true }
      let s2 := s1.modChan x.chan fun y => if y.st == .opened || y.st == .running then { y with st := .sourceLost } else y
      (commitPending (s2.setFifo (fin_ x.chan) (addPending (s2.fifo (fin_ x.chan)) n bytes at_)) (fin_ x.chan) x.hold).2

/-- Every flow bound through a port is source-lost; one of two paths only when both its links are down (R318). -/
def loseFlows (s : State) (p : Nat) : State :=
  s.ing.flow.foldl
    (fun t q =>
      let x := q.2
      if x.mode.testBit 2 then
        if (x.port = p || x.portB = p) && !linkUp t x.port && !linkUp t x.portB then loseFlow t q.1 else t
      else if x.port = p then loseFlow t q.1 else t) s

/-- A port's link goes down: LINK_DOWN if it was up, and its flows are source-lost (R39, R318). -/
def linkDown (s : State) (p : Nat) : State :=
  let up := linkUp s p
  let s1 := s.setNport p { s.nport p with link := false }
  let s2 := loseFlows s1 p
  if up then pvChange (portEvent s2 p 8) p else s2

/-- A port is disabled (R39, R318). -/
def disablePort (s : State) (p : Nat) : State :=
  if portOn s p then linkDown (s.put2 (A.ingPortCtrl p) 0 1 0) p else s

/-- NET_PORT_DISABLE: function `w` clears ING_PORT_CTRL.ENABLE of port `p` (R39, R318). -/
def execNetPortDisable (w p : Nat) (s : State) : Res := done s (adminWrite s w fun t => disablePort t p)

/-- The write of ING_QUAD_CTRL (R314): MODE only while every port of the quad is disabled, LT always. -/
def quadWrite (s : State) (q : Nat) (v : Word) : State :=
  let s1 := s.put2 (A.ingQuad q) 2 1 (fld v 2 1)
  if (List.range 4).any fun i => portOn s (4 * q + i) then s1 else s1.put2 (A.ingQuad q) 0 2 (fld v 0 2)

/-- ING_QUAD_MODE_WRITE (R314). -/
def execIngQuadModeWrite (w q : Nat) (v : Word) (s : State) : Res :=
  done s (adminWrite s w fun t => if q < 2 then quadWrite t q v else t)

/-- NET_LINK_LOSS: the lock of an up port has been lost for 1 ms (R318). -/
def execNetLinkLoss (p : Nat) (s : State) : Res := if p < 8 && linkUp s p then done s (linkDown s p) else .next s

/-- NET_LINK_UP: after 10 ms of lock the link returns, on an enabled port whose quad's PLL runs (R318, R409). -/
def execNetLinkUp (p : Nat) (s : State) : Res :=
  if portExists s p && portOn s p && !linkUp s p && s.yoke.plls.contains (10 + p / 4) &&
      !s.yoke.unlocked.contains (10 + p / 4) then
    done s (pvChange (portEvent (s.setNport p { s.nport p with link := true }) p 9) p)
  else .next s

/-! Frames. -/

/-- Bytes that a port's buffer holds, FCS included (R317). -/
def bufUsed (s : State) (p : Nat) : Nat := (s.nport p).buf.foldl (fun n f => n + f.data.length + 4) 0

/-- A good frame is counted by its port, and by a PV16 port's RX_FRAMES. -/
def countRx (s : State) (p n : Nat) : State :=
  let s1 := (s.addq2 (A.ingPortFrames p) 1).addq2 (A.ingPortBytes p) n
  match pvPortHold s p with
  | some h => s1.addq0 h (0xC08 + p * 0x40) 1
  | none => s1

/-- A PAUSE or priority flow control frame: MAC control, EtherType 0x8808 (R315). -/
def isPause (d : List Byte) : Bool := beAt d 12 2 = 0x8808

/-- INGEST_FRAME_RECEIVE: a port receives a frame without its FCS, which came with a good FCS or not, and whose first bit
crossed the pins at `start` (R315 to R317, R437). -/
def execIngestFrameReceive (p : Nat) (bad : Bool) (data : List Byte) (start : DWord) (s : State) : Res :=
  if p < 8 && linkUp s p && portOn s p then
    let n := data.length + 4
    if bad || n < 64 || 9216 < n then done s (s.cnt2 (A.ingPortErr p) 0 16)
    else
      let s1 := countRx s p n
      if isPause data then done s s1
      else if s.flt.safe then done s (s1.addq2 A.fcSafeFrames 1)
      else if 1048576 < bufUsed s p + n then done s (portEvent (s1.cnt2 (A.ingPortErr p) 16 14) p 11)
      else
        let x := s1.nport p
        done s (s1.setNport p { x with buf := x.buf ++ [{ port := p, data := data, start := start, arrive := s.tim.dtb }] })
  else .next s

/-- PAUSED of a port (R334). -/
def paused (s : State) (p : Nat) : Bool := bit (s.r2 A.ingPause) (16 + p)

/-- The port whose oldest frame ingest takes next: smallest ARRIVE, then lowest port, among ports that are not paused
(R317, R333). -/
def nextPort (s : State) : Option Nat :=
  ((List.range 8).foldl
    (fun (best : Option (Nat × DWord)) p =>
      if paused s p then best
      else
        match (s.nport p).buf.head?, best with
        | some f, some b => if f.arrive < b.2 then some (p, f.arrive) else best
        | some f, none => some (p, f.arrive)
        | none, _ => best) none).map (·.1)

/-- INGEST_FRAME_CLASSIFY: ingest takes the oldest frame of port `p` when it is the next (R317, R319 to R332). It waits
while a completion it has to write finds no room. -/
def execIngestFrameClassify (p : Nat) (s : State) : Res :=
  if s.flt.safe || nextPort s ≠ some p then .next s
  else
    let x := s.nport p
    match x.buf with
    | [] => .next s
    | f :: rest =>
      let c := classifyFrame (s.setNport p { x with buf := rest }) f
      if c.stuck then .next s else done s c.s

/-! Pauses (R334). -/

/-- ING_PAUSE_SET: function `w` pauses port `p`. -/
def execIngPauseSet (w p : Nat) (s : State) : Res :=
  done s (adminWrite s w fun t => if p < 8 then t.put2 A.ingPause p 1 1 else t)

/-- ING_PAUSE_IN_FORCE: the pause of a port is in force, within 1 µs of its write (R334). -/
def execIngPauseInForce (p : Nat) (s : State) : Res :=
  if p < 8 && bit (s.r2 A.ingPause) p && !paused s p then .next (s.put2 A.ingPause (16 + p) 1 1) else .next s

/-- The end of a port's pause. -/
def endPause (s : State) (p : Nat) : State := (s.put2 A.ingPause p 1 0).put2 A.ingPause (16 + p) 1 0

/-- ING_PAUSE_CLEAR: function `w` ends the pause of port `p` (R334). -/
def execIngPauseClear (w p : Nat) (s : State) : Res :=
  done s (adminWrite s w fun t => if p < 8 then endPause t p else t)

/-- ING_PAUSE_EXPIRY: a pause has been in force for 100 µs; it ends and PAUSE_EXPIRED sets (R334, R342). -/
def execIngPauseExpiry (p : Nat) (s : State) : Res :=
  if p < 8 && paused s p then done s (portEvent (endPause s p) p 10) else .next s

/-! Timers. -/

/-- EXC_TOKEN_REFILL: a holding's exception bucket gains one token, up to BURST (R330). -/
def execExcTokenRefill (h : Nat) (s : State) : Res :=
  let n := tgetD s.ing.taken h 0
  if n = 0 || fld (s.r2 (A.ingExcRate h)) 0 16 = 0 then .next s
  else .next (s.setIng { s.ing with taken := bankSet s.ing.taken (fun _ => 0) h (Nat.min n (Nat.max 1 (fld (s.r2 (A.ingExcRate h)) 16 8)) - 1) })

/-- The distance of a flow's first held number from E. -/
def firstHeld (x : Flow) (e : Nat) : Option Nat :=
  x.held.foldl
    (fun best p => let d := (p.num + x.mod - e) % x.mod
                   match best with | some b => some (Nat.min b d) | none => some d) none

/-- REORDER_HOLE_TIMEOUT: the oldest held packet of a flow has waited REORDER_US, so the hole at E is lost (R336). -/
def execReorderHoleTimeout (t : Nat) (s : State) : Res :=
  match tget s.ing.flow t with
  | none => .next s
  | some x =>
    match x.e with
    | none => .next s
    | some e =>
      match firstHeld x e with
      | none => .next s
      | some d => done s (drainHeld (slide s t d) t 64)

/-- PATH_DOWN_TIMEOUT: a path of a flow has delivered nothing for 20 ms and shows as down (R337). -/
def execPathDownTimeout (t pth : Nat) (s : State) : Res :=
  match tget s.ing.flow t with
  | none => .next s
  | some x =>
    if pth < 2 && x.up.testBit pth then
      let y := { x with up := x.up - 2 ^ pth }
      .next (showPath (s.setFlow t y) y)
    else .next s

end Sys2Proof.Machine
end

