-- ==== Sys2Proof/Machine/EgressOps.lean ====
section
/-! DEFINITION. What egress builds: TS packets, PES headers, sections, datagrams (R373 to R379), and the queues of a flow
(R376, R380, R383). -/

namespace Sys2Proof.Machine

/-! TS packets. -/

/-- The 188 bytes of a TS packet with its continuity counter 0: PID, payload_unit_start_indicator, the flags byte of its
adaptation field if it has one, room for a PCR, and a payload that fits; adaptation-field stuffing fills the rest. -/
def tsPacket (pid : Nat) (pusi rap pcr : Bool) (pay : List Byte) : List Byte :=
  let flags := b2n rap * 0x40 + b2n pcr * 0x10
  let room := 184 - pay.length
  let af : List Byte :=
    if room = 0 then []
    else if room = 1 then [0]
    else
      let body := toBE 1 flags ++ (if pcr then List.replicate 6 0 else [])
      toBE 1 (room - 1) ++ body ++ List.replicate (room - 1 - body.length) 0xFF
  let afc := b2n (!af.isEmpty) * 2 + b2n (!pay.isEmpty)
  [0x47] ++ toBE 2 (pid + b2n pusi * 0x4000) ++ toBE 1 (afc * 16) ++ af ++ pay

/-- PID of a packet. -/
def tsPid (d : List Byte) : Nat := beAt d 1 2 % 8192
/-- payload_unit_start_indicator. -/
def tsPusi (d : List Byte) : Bool := (beAt d 1 1).testBit 6
/-- Bytes of its adaptation field with its length byte. -/
def tsAf (d : List Byte) : Nat := if (beAt d 3 1).testBit 5 then beAt d 4 1 + 1 else 0
/-- random_access_indicator. -/
def tsRap (d : List Byte) : Bool := 2 ≤ tsAf d && (beAt d 5 1).testBit 6
/-- Its payload. -/
def tsPay (d : List Byte) : List Byte := if (beAt d 3 1).testBit 4 then d.drop (4 + tsAf d) else []

/-- Cut a payload into packets of a PID: the first may have payload_unit_start_indicator and random_access_indicator; `last`
makes a stuffed packet of what is left, which otherwise comes back. -/
def cutTs (pid : Nat) (pusi rap last : Bool) (bs : List Byte) : Nat → List (List Byte) × List Byte
  | 0 => ([], bs)
  | n + 1 =>
    let room := if rap then 182 else 184
    if bs.length < room then
      if last && !bs.isEmpty then ([tsPacket pid pusi rap false bs], []) else ([], bs)
    else
      let r := cutTs pid false false last (bs.drop room) n
      (tsPacket pid pusi rap false (bs.take room) :: r.1, r.2)

/-- A 33-bit timestamp of a PES header. -/
def pesTime (pre v : Nat) : List Byte :=
  let t := v % 2 ^ 33
  toBE 1 (pre * 16 + t / 2 ^ 30 * 2 + 1) ++ toBE 2 (t / 2 ^ 15 % 2 ^ 15 * 2 + 1) ++ toBE 2 (t % 2 ^ 15 * 2 + 1)

/-- The PES header of a picture (R373). -/
def pesHeader (pts dts : DWord) : List Byte :=
  [0, 0, 1, 0xE0, 0, 0, 0x84] ++
    (if pts.toNat % 2 ^ 33 = dts.toNat % 2 ^ 33 then [0x80, 5] ++ pesTime 2 pts.toNat
     else [0xC0, 10] ++ pesTime 3 pts.toNat ++ pesTime 1 dts.toNat)

/-! The programme clock (R377). -/

/-- The modulus of the 27 MHz clock. -/
def clkMod : Nat := 2 ^ 33 * 300

/-- OFFSET for a first row committed at DTB `t` of a picture of this DTS. -/
def clkOffset (x : EFlow) (t dts : DWord) : Nat :=
  (300 * dts.toNat % clkMod + clkMod - (t.toNat + x.muxDelay * 1000) * 27 / 1000 % clkMod) % clkMod

/-- PC(t). -/
def progClk (off : Nat) (t : Nat) : Nat := (t * 27 / 1000 + off) % clkMod

/-- The six bytes of a PCR. -/
def pcrBytes (pc : Nat) : List Byte := toBE 6 (pc / 300 * 2 ^ 15 + 63 * 2 ^ 9 + pc % 300)

/-! The queues of a flow. -/

/-- A packet's continuity counter at the moment it enters its datagram (R376): it counts the packets that carry payload,
from 0; a packet without payload repeats the value of the last one. -/
def withCc (x : EFlow) (d : List Byte) : EFlow × List Byte :=
  let pid := tsPid d
  let n := tgetD x.cc pid 0
  let pay := (beAt d 3 1).testBit 4
  let v := if pay then n else (n + 15) % 16
  let d' := d.set 3 (BitVec.ofNat 8 (beAt d 3 1 / 16 * 16 + v))
  (if pay then { x with cc := tset x.cc pid ((n + 1) % 16) } else x, d')

/-- The packet that goes next (R376): a PSI packet first, then video and feed packets in turn. -/
def nextTs (x : EFlow) : Option (TsPkt × EFlow) :=
  match x.psiQ, x.video, x.feedQ with
  | p :: r, _, _ => some (p, { x with psiQ := r })
  | [], v :: r, f :: q =>
    if x.lastVideo then some (f, { x with feedQ := q, lastVideo := false })
    else some (v, { x with video := r, lastVideo := true })
  | [], v :: r, [] => some (v, { x with video := r, lastVideo := true })
  | [], [], f :: q => some (f, { x with feedQ := q, lastVideo := false })
  | [], [], [] => none

/-- The open datagram closes. -/
def closeDgram (x : EFlow) : EFlow := { x with dgram := [], ready := x.dgram }

/-- Move packets into the open datagram until it closes or none is left (R379). -/
def fillDgram : Nat → EFlow → EFlow
  | 0, x => x
  | n + 1, x =>
    if !x.ready.isEmpty then x
    else
      match nextTs x with
      | none => if x.closing && !x.dgram.isEmpty then closeDgram x else x
      | some (p, y) =>
        let (z, d) := withCc y p.data
        let w := { z with dgram := z.dgram ++ [{ p with data := d }] }
        fillDgram n (if w.pkts ≤ w.dgram.length || p.close then closeDgram w else w)

/-- Fill the datagram of a flow: at most 7 packets enter it. -/
def fill (x : EFlow) : EFlow := fillDgram 8 x

/-- Bytes queued (DEPTH, R383). -/
def depthOf (x : EFlow) : Nat := x.packets.length * 188

/-- Set an egress flow. -/
def State.setEflow (s : State) (e : Nat) (x : EFlow) : State := s.setEgr { s.egr with flow := tset s.egr.flow e x }

/-- Set a flow whose queues have grown: its datagram fills, and its depth mark keeps the largest depth. -/
def putEflow (s : State) (e : Nat) (x : EFlow) : State :=
  let y := fill x
  let a := A.egrFlow e + 0x10
  (s.setEflow e y).w2 a (w32 (sat32 (Nat.max (s.r2 a).toNat (depthOf y))))

/-- A bit of EGR_EVENT (R384). -/
def egrEvent (s : State) (b : Nat) : State := devEvent s A.egrEvent b 1328

/-- A cell for each of `n` packets, all or none. -/
def cellsFor (s : State) (h : Nat) : Nat → Option (List Nat) × State
  | 0 => (some [], s)
  | n + 1 =>
    match allocChain s h 1 with
    | (none, s1) => (none, s1)
    | (some c, s1) =>
      match cellsFor s1 h n with
      | (some l, s2) => (some (c :: l), s2)
      | (none, s2) => (none, decRef s2 c 1)

/-! PCRs (R377). -/

/-- A packet with a PCR in it: what no longer fits goes into a second packet behind it (log 43). -/
def addPcr (p : TsPkt) : List TsPkt :=
  let d := p.data
  let pay := tsPay d
  let one := { p with data := tsPacket (tsPid d) (tsPusi d) (tsRap d) true (pay.take 176), pcr := true }
  if pay.length ≤ 176 then [one]
  else
    [{ one with refs := [], since := [], close := false, cell := none },
     { p with data := tsPacket (tsPid d) false false false (pay.drop 176) }]

/-- Give a PCR to the first packet of a PID. -/
def pcrInto (pid : Nat) : List TsPkt → Option (List TsPkt)
  | [] => none
  | p :: r => if tsPid p.data = pid then some (addPcr p ++ r) else (pcrInto pid r).map fun l => p :: l

/-- A PCR falls due (R377): a PCR_PID packet that is ready carries it; with none, an adaptation-only packet does. Before
OFFSET is set the PCR waits for the first picture. -/
def pcrNow (x : EFlow) : EFlow :=
  if x.offset.isNone then { x with pcrDue := true }
  else if x.packets.any (·.pcr) then { x with pcrDue := false }
  else
    let y := { x with pcrDue := false }
    match pcrInto x.ppid x.psiQ, pcrInto x.ppid x.video, pcrInto x.ppid x.feedQ with
    | some l, _, _ => { y with psiQ := l }
    | none, some l, _ => { y with video := l }
    | none, none, some l => { y with feedQ := l }
    | none, none, none =>
      { y with psiQ := { data := tsPacket x.ppid false false true [], pcr := true } :: y.psiQ }

/-! PSI (R375). -/

/-- One step of CRC_32: a byte enters. -/
def crcByte (c : Nat) (b : Byte) : Nat :=
  (List.range 8).foldl
    (fun r _ => if r < 2 ^ 31 then r * 2 else (r * 2 % 2 ^ 32) ^^^ 0x04C11DB7) (c ^^^ (b.toNat * 2 ^ 24))

/-- CRC_32 of a section's bytes before it (ISO/IEC 13818-1). -/
def crc32 (bs : List Byte) : Nat := bs.foldl crcByte (2 ^ 32 - 1)

/-- The sections with each one's CRC_32 written. -/
def withCrcs : Nat → List Byte → List Byte
  | 0, bs => bs
  | n + 1, bs =>
    let len := 3 + beAt bs 1 2 % 4096
    if bs.length < 3 || bs.length < len || len < 7 then bs
    else
      let body := bs.take (len - 4)
      body ++ toBE 4 (crc32 body) ++ withCrcs n (bs.drop len)

/-- The packets of one repetition: pointer_field 0, the sections back to back, filled with 0xFF. -/
def psiPackets (pid : Nat) (sections : List Byte) : List (List Byte) :=
  let bs := (0 : Byte) :: sections
  let n := cdiv bs.length 184
  (cutTs pid true false false (bs ++ List.replicate (n * 184 - bs.length) 0xFF) n).1

/-! Datagrams (R379). -/

/-- Sum of the 16-bit words of bytes, in network order. -/
def sum16 : List Byte → Nat
  | a :: b :: t => a.toNat * 256 + b.toNat + sum16 t
  | [a] => a.toNat * 256
  | [] => 0

/-- The Internet checksum of bytes. -/
def inetSum (bs : List Byte) : Nat :=
  let a := sum16 bs
  let b := a % 65536 + a / 65536
  let c := b % 65536 + b / 65536
  65535 - c

/-- EGR_PORT_MAC as six bytes: the 48-bit number HI:LO, most significant first (log 43). -/
def portMac (s : State) (p : Nat) : List Byte := toBE 2 (fld (s.r2 (A.egrPort p + 12)) 0 16) ++ toBE 4 (s.r2 (A.egrPort p + 8)).toNat

/-- Bytes of a flow's frame before its TS packets. -/
def headLen (x : EFlow) : Nat :=
  14 + (if x.mode.testBit 2 then 4 else 0) + (if x.mode.testBit 1 then 40 else 20) + 8 + (if x.mode.testBit 0 then 12 else 0)

/-- Wire bytes of a datagram of `n` packets: the frame with its FCS, and 20 (R381). -/
def wireBytes (x : EFlow) (n : Nat) : Nat := headLen x + 188 * n + 24

/-- A flow's frame on port `p` with a payload of TS packets and its RTP timestamp (R379), without its FCS. -/
def frameOf (s : State) (x : EFlow) (p rtpTs : Nat) (ts : List Byte) : List Byte :=
  let v6 := x.mode.testBit 1
  let rtp := if x.mode.testBit 0 then
      [0x80, 33] ++ toBE 2 x.rtpSeq ++ toBE 4 rtpTs ++ toBE 4 x.ssrc.toNat else []
  let body := rtp ++ ts
  let len := body.length + 8
  let src := if v6 then x.srcA else x.srcA.take 4
  let dst := if v6 then x.dst else x.dst.take 4
  let ports := toBE 2 x.sport ++ toBE 2 x.dport ++ toBE 2 len
  let sum := inetSum (src ++ dst ++ toBE 4 len ++ toBE 4 17 ++ ports ++ [0, 0] ++ body)
  let udp := ports ++ toBE 2 (if sum = 0 then 65535 else sum) ++ body
  let v4 := fun (c : Nat) =>
    [0x45] ++ toBE 1 (x.dscp * 4) ++ toBE 2 (20 + len) ++ [0, 0, 0x40, 0] ++ toBE 1 x.ttl ++ [17] ++ toBE 2 c ++ src ++ dst
  let ip := if v6 then toBE 4 (6 * 2 ^ 28 + x.dscp * 4 * 2 ^ 20) ++ toBE 2 len ++ [17] ++ toBE 1 x.ttl ++ src ++ dst
    else v4 (inetSum (v4 0))
  let tag := if x.mode.testBit 2 then [0x81, 0] ++ toBE 2 (x.vlan / 8192 * 8192 + x.vlan % 4096) else []
  x.mac ++ portMac s p ++ tag ++ toBE 2 (if v6 then 0x86DD else 0x0800) ++ ip ++ udp

/-- Nanoseconds that `n` bytes take on a port (R314). -/
def wireNs (s : State) (p n : Nat) : Nat := n * 8 / (match quadMode s p with | 1 => 10 | 2 => 25 | _ => 100)

/-- Write the PCRs of a datagram that starts to leave port `p` at DTB `t` (R377): the last byte of a PCR field leaves after
the preamble and all before it. The Bool is discontinuity_indicator for the first PCR (R378). -/
def stampPcrs (s : State) (x : EFlow) (p off : Nat) : Bool → Nat → List TsPkt → List TsPkt
  | _, _, [] => []
  | disc, i, k :: r =>
    if k.pcr then
      let pc := progClk off (s.tim.dtb.toNat + wireNs s p (8 + headLen x + 188 * i + 12))
      let f := beAt k.data 5 1 ||| (if disc then 0x80 else 0)
      { k with data := k.data.take 5 ++ toBE 1 f ++ pcrBytes pc ++ k.data.drop 12 } :: stampPcrs s x p off false (i + 1) r
    else k :: stampPcrs s x p off disc (i + 1) r

end Sys2Proof.Machine
end

