-- ==== Sys2Proof/Machine/Egress.lean ====
section
/-! DEFINITION. Egress (16): taking items and feed records, PSI and PCR timers, and the shaper. -/

namespace Sys2Proof.Machine

/-! Taking a FIFO item (R373, R378, R380). -/

/-- The packets that an item makes in a flow, and the flow behind them; the cells come later (R373). -/
def takeItem (live : Bool) (x : EFlow) (i : Item) : List TsPkt × EFlow :=
  match i.pic with
  | none => ([], x)
  | some (n, pts, dts, rap) =>
    let new := x.curPic ≠ some n
    let old := if new && !x.rest.isEmpty then cutTs x.vpid x.start.isSome (x.start.getD false) true x.rest 1 else ([], [])
    let oldP : List TsPkt := old.1.map fun d =>
      { data := d, dts := some x.curDts, refs := x.tail.map (·.1), since := x.tail.map (·.2) }
    let start := if new then some rap else x.start
    let bs := (if new then pesHeader pts dts else x.rest) ++ i.data
    let r := cutTs x.vpid start.isSome (start.getD false) i.last bs (bs.length / 182 + 1)
    let tail := (if new then [] else x.tail) ++ [(i.cell, i.time)]
    let done := r.2.isEmpty
    let ps : List TsPkt := r.1.map fun d => { data := d, dts := some dts }
    let mark := fun (p : TsPkt) =>
      { p with refs := if done then tail.map (·.1) else (tail.dropLast).map (·.1),
               since := if done then tail.map (·.2) else (tail.dropLast).map (·.2), close := live }
    let ps' := match ps.reverse with | [] => [] | p :: q => (mark p :: q).reverse
    let left := if ps.isEmpty then tail else if done then [] else [(i.cell, i.time)]
    (oldP ++ ps',
     { x with curPic := some n, curDts := dts, rest := r.2, start := if ps.isEmpty then start else none, tail := left,
              offset := match x.offset with | some o => some o | none => some (clkOffset x i.time dts) })

/-- Give cells to packets. -/
def withCells (ps : List TsPkt) (cs : List Nat) : List TsPkt := ps.zipWith (fun p c => { p with cell := some c }) cs

/-- Put a taken item's packets in the queue of flow `e`; a PCR that waited for the first picture comes now. -/
def queueItem (s : State) (e : Nat) (live : Bool) (i : Item) : State :=
  match tget s.egr.flow e with
  | none => s
  | some x =>
    let (ps, y) := takeItem live x i
    match cellsFor s x.hold ps.length with
    | (none, s1) => s1
    | (some cs, s1) =>
      let z := { y with video := y.video ++ withCells ps cs }
      putEflow s1 e (if z.pcrDue then pcrNow z else z)

/-- Cells that a holding can still be given for `n` packets, and room for them in the queue of a flow (R347, R380). -/
def queueRoom (x : EFlow) (n : Nat) : Bool := decide (x.packets.length + n ≤ x.qlimit)

/-- A reference on the item for each flow after the first, which takes over that of the FIFO (R350, R380). -/
def itemRefs (s : State) (cell : Nat) : Nat → State
  | 0 => s
  | n + 1 => itemRefs (incRef s cell 1).2 cell n

/-- EGRESS_ITEM_TAKE: egress takes the next item of a channel's output FIFO when every flow that reads it has room for the
item's packets, and releases it from the FIFO (R373, R380). A gap marker is read past. -/
def execEgressItemTake (c : Nat) (s : State) : Res :=
  let es := egrFlowsOf s c
  if s.flt.safe || es.isEmpty then .next s
  else
    let f := s.fifo (fout c)
    match f.items with
    | [] => .next s
    | i :: rest =>
      let s1 := s.setFifo (fout c) { f with items := rest }
      if i.gap then done s (decRef s1 i.cell 1)
      else
        let live := match s.chan c with | some y => y.blk.live | none => false
        let need := es.map fun e => match tget s.egr.flow e with
          | some x => ((takeItem live x i).1.length, queueRoom x (takeItem live x i).1.length)
          | none => (0, true)
        if !need.all (·.2) then .next s
        else
          match tget s.egr.flow (es.headD 0) with
          | none => .next s
          | some x =>
            match cellsFor s x.hold (need.foldl (fun n q => n + q.1) 0) with
            | (none, _) => done s (cellFail s)
            | (some _, _) =>
              done s (es.foldl (fun t e => queueItem t e live i) (itemRefs s1 i.cell (es.length - 1)))

/-! Host feeds (R374). -/

/-- Bytes of a feed ring from byte count `n`, or none while a granule is still being made. -/
def feedBytes (s : State) (x : EFlow) (n len : Nat) : Option (List Byte) :=
  match place s x.hold x.feedBase (2 ^ x.feedLog2) with
  | some (.dev off) =>
    if devMapped s x.hold off (2 ^ x.feedLog2) then
      some ((List.range len).flatMap fun i => readDev s x.hold (off + (n + i) % 2 ^ x.feedLog2) 1)
    else none
  | _ => none

/-- A poisoned burst in the range of a ring (R403). -/
def feedPoison (s : State) (x : EFlow) (n len : Nat) : Bool :=
  match place s x.hold x.feedBase (2 ^ x.feedLog2) with
  | some (.dev off) => (List.range len).any fun i => devPoison s x.hold (off + (n + i) % 2 ^ x.feedLog2) 1
  | _ => false

/-- The header of a record is in error (R374). -/
def feedBad (x : EFlow) (len pid total : Nat) (hdr : List Byte) : Bool :=
  len = 0 || 1048576 < len || leAt hdr 4 2 ≥ 8192 || leAt hdr 6 2 ≠ 0 || pid = x.vpid || pid = 0x1FFF ||
    (x.psi.any fun p => p.en && p.pid = pid) || decide (2 ^ x.feedLog2 < total)

/-- Take the next record of a flow's feed: none when there is nothing to take or no room for it (R374). -/
def feedOne (s : State) (e : Nat) : Option State :=
  match tget s.egr.flow e with
  | none => none
  | some x =>
    match x.feed with
    | none => none
    | some slot =>
      let pi := (s.r0 x.hold (B.egfPi slot)).toNat
      let ci := (s.r0 x.hold (B.egfCi slot)).toNat
      let avail := (pi + 2 ^ 32 - ci) % 2 ^ 32
      if avail < 8 || x.closing then none
      else
        match feedBytes s x ci 8 with
        | none => none
        | some hdr =>
          let len := leAt hdr 0 4
          let pid := leAt hdr 4 2 % 8192
          let total := (8 + len + 7) / 8 * 8
          let err := some (egrEvent (s.w0 x.hold (B.egfCi slot) (w32 pi)) 1)
          if feedPoison s x ci 8 || feedBad x len pid total hdr then err
          else if avail < total then none
          else
            match feedBytes s x (ci + 8) len with
            | none => none
            | some pes =>
              if feedPoison s x (ci + 8) len then err
              else
                let ps := (cutTs pid true false true pes (len / 184 + 1)).1
                if !queueRoom x ps.length then none
                else
                  match cellsFor s x.hold ps.length with
                  | (none, _) => none
                  | (some cs, s1) =>
                    let l : List TsPkt := withCells (ps.map fun d => { data := d }) cs
                    let l' := match l.reverse with | [] => [] | p :: q => ({ p with since := [x.feedTime] } :: q).reverse
                    some (putEflow (s1.w0 x.hold (B.egfCi slot) (w32 (ci + total))) e { x with feedQ := x.feedQ ++ l' })

/-- Take records while there are some. -/
def feedPump (s : State) (e : Nat) : Nat → State
  | 0 => s
  | n + 1 => match feedOne s e with | some s1 => feedPump s1 e n | none => s

/-- As many records as a ring of 2^24 bytes can hold. -/
def feedFuel (s : State) (e : Nat) : Nat :=
  match tget s.egr.flow e with | some x => 2 ^ x.feedLog2 / 16 + 1 | none => 0

/-- The flow that a feed slot of a holding feeds. -/
def feedFlow (s : State) (h slot : Nat) : Option Nat :=
  (s.egr.flow.find? fun p => p.2.hold == h && p.2.feed == some slot).map (·.1)

/-- EGF_PI_WRITE: the host of holding `h` writes EGF_PI of a feed slot; accepted up to the ring size and never back (R374). -/
def execEgfPiWrite (h slot : Nat) (v : Word) (s : State) : Res :=
  if !barOn s h || !s.native h then .next s
  else
    match feedFlow s h slot with
    | none => .next s
    | some e =>
      match tget s.egr.flow e with
      | none => .next s
      | some x =>
        let ci := (s.r0 h (B.egfCi slot)).toNat
        let dist := fun (n : Nat) => (n + 2 ^ 32 - ci) % 2 ^ 32
        if dist v.toNat ≤ 2 ^ x.feedLog2 && dist (s.r0 h (B.egfPi slot)).toNat ≤ dist v.toNat then
          let s1 := (s.w0 h (B.egfPi slot) v).setEflow e { x with feedTime := s.tim.dtb }
          done s (if s.flt.safe then s1 else feedPump s1 e (feedFuel s1 e))
        else .next s

/-! Timers. -/

/-- DATAGRAM_HOLD_EXPIRY: HOLD_US has passed since the first packet of a flow's open datagram (R379). -/
def execDatagramHoldExpiry (e : Nat) (s : State) : Res :=
  match tget s.egr.flow e with
  | none => .next s
  | some x => if x.dgram.isEmpty || !x.ready.isEmpty then .next s else .next (s.setEflow e (closeDgram x))

/-- PCR_INTERVAL_EXPIRY: a PCR of a flow falls due (R377). -/
def execPcrIntervalExpiry (e : Nat) (s : State) : Res :=
  match tget s.egr.flow e with
  | none => .next s
  | some x => if x.closing then .next s else done s (putEflow s e (pcrNow x))

/-- A template as it stands in device memory, when its SEQ is even and its LEN is good; the two reads of SEQ are equal, as
nothing comes between them in a step (R375). -/
def psiRead (s : State) (h : Nat) (p : Psi) : Option (List Byte) :=
  match place s h p.addr 8 with
  | some (.dev off) =>
    let hdr := readDev s h off 8
    let len := leAt hdr 0 2
    if leAt hdr 4 4 % 2 = 0 && 1 ≤ len && len ≤ 4096 then
      (match place s h (p.addr + 8) len with
       | some (.dev o) => if devPoison s h off 8 || devPoison s h o len then none else some (readDev s h o len)
       | _ => none)
    else none
  | _ => none

/-- The template's granules are mapped. -/
def psiMapped (s : State) (h : Nat) (p : Psi) : Bool :=
  match place s h p.addr 8 with
  | some (.dev off) => devMapped s h off 8 && (match place s h p.addr (8 + leAt (readDev s h off 2) 0 2) with
    | some (.dev o) => devMapped s h o (8 + leAt (readDev s h off 2) 0 2)
    | _ => true)
  | _ => true

/-- PSI_REPEAT_DUE: a repetition of template `t` of a flow falls due (R375). A repetition that finds no room in the queue or
no cells is not sent. -/
def execPsiRepeatDue (e t : Nat) (s : State) : Res :=
  match tget s.egr.flow e with
  | none => .next s
  | some x =>
    match x.psi[t]? with
    | none => .next s
    | some p =>
      if !p.en || x.closing || s.flt.safe || !psiMapped s x.hold p then .next s
      else
        let copy := match psiRead s x.hold p with | some b => some b | none => p.copy
        let y := { x with psi := x.psi.set t { p with copy := copy } }
        match copy with
        | none => .next (s.setEflow e y)
        | some b =>
          let ps := psiPackets p.pid (if p.crc then withCrcs b.length b else b)
          if !queueRoom x ps.length then .next (s.setEflow e y)
          else
            match cellsFor s x.hold ps.length with
            | (none, s1) => done s (s1.setEflow e y)
            | (some cs, s1) =>
              done s (putEflow s1 e { y with psiQ := y.psiQ ++ withCells (ps.map fun d => { data := d }) cs })

/-! The shaper (R381, R382). -/

/-- A bucket pair as it is now; one that is not listed is full. -/
def tokNow (s : State) (b : Option Tok) (cir pir cbs pbs : Nat) : Tok :=
  match b with
  | some t => { c := refill s.tim.dtb t.t cir cbs t.c, p := refill s.tim.dtb t.t pir pbs t.p, t := s.tim.dtb }
  | none => { c := cbs * byteTok, p := pbs * byteTok, t := s.tim.dtb }

/-- CIR and PIR of a service. -/
def svcCir (s : State) (v : Nat) : Nat := (s.r2 (A.egrSvc v + 4)).toNat
/-- See `svcCir`. -/
def svcPir (s : State) (v : Nat) : Nat := (s.r2 (A.egrSvc v + 8)).toNat
/-- A service's buckets now. -/
def svcTok (s : State) (v : Nat) : Tok :=
  tokNow s (tget s.egr.svc v) (svcCir s v) (svcPir s v) (Nat.max 2048 (s.r2 (A.egrSvc v + 12)).toNat)
    (Nat.max 2048 (s.r2 (A.egrSvc v + 16)).toNat)
/-- CIR and PIR of a port. -/
def portCir (s : State) (p : Nat) : Nat := (s.r2 (A.egrPort p + 0x10)).toNat
/-- See `portCir`. -/
def portPir (s : State) (p : Nat) : Nat := (s.r2 (A.egrPort p + 0x14)).toNat
/-- A port's buckets now. -/
def portTok (s : State) (p : Nat) : Tok :=
  let w := s.r2 (A.egrPort p + 0x18)
  tokNow s (tget s.egr.port p) (portCir s p) (portPir s p) (Nat.max 2 (fld w 0 12) * 1024) (Nat.max 2 (fld w 16 12) * 1024)

/-- The buckets of a service or a port are brought up to now, so that a rate or size written after it counts from now on
(R382). -/
def settleSvc (s : State) (v : Nat) : State := s.setEgr { s.egr with svc := tset s.egr.svc v (svcTok s v) }
/-- See `settleSvc`. -/
def settlePort (s : State) (p : Nat) : State := s.setEgr { s.egr with port := tset s.egr.port p (portTok s p) }

/-- A flow with its buckets refilled. -/
def EFlow.now (x : EFlow) (t : DWord) : EFlow :=
  { x with ctok := refill t x.tref x.cir x.cbs x.ctok, ptok := refill t x.tref x.pir x.pbs x.ptok, tref := t }

/-- A datagram of null packets (R376). -/
def nullDgram (x : EFlow) : List TsPkt := List.replicate x.pkts { data := tsPacket 0x1FFF false false false (List.replicate 184 0xFF) }

/-- A flow's next datagram (R376, R379). -/
def nextDgram (x : EFlow) : List TsPkt :=
  if !x.ready.isEmpty then x.ready
  else if x.mode.testBit 3 && x.packets.isEmpty && !x.closing && x.cir ≠ 0 &&
      decide (wireBytes x x.pkts * byteTok ≤ x.ctok) then nullDgram x
  else []

/-- A flow that has a datagram to send. -/
structure Cand where
  /-- Number. -/
  e : Nat
  /-- The flow, its buckets refilled. -/
  x : EFlow
  /-- Its next datagram. -/
  d : List TsPkt
  /-- Tokens that it takes. -/
  tok : Nat

/-- The flow's committed bucket holds the datagram. -/
def Cand.committed (c : Cand) : Bool := c.x.cir ≠ 0 && decide (c.tok ≤ c.x.ctok)

/-- A peak bucket of this rate holds the datagram. -/
def Cand.peak (c : Cand) (rate tok : Nat) : Bool := rate = 0 || decide (c.tok ≤ tok)

/-- The flows of a port with a datagram that every peak bucket holds (R382 step 1). -/
def cands (s : State) (p : Nat) : List Cand :=
  (s.egr.flow.filterMap fun q =>
    let x := q.2.now s.tim.dtb
    let d := nextDgram x
    if x.port = p && !d.isEmpty then some { e := q.1, x := x, d := d, tok := wireBytes x d.length * byteTok : Cand } else none).filter
  fun c => c.peak c.x.pir c.x.ptok && c.peak (svcPir s c.x.svc) (svcTok s c.x.svc).p && c.peak (portPir s p) (portTok s p).p

/-- The first element after `last` in cyclic order of a rising list. -/
def cyclic (l : List Nat) (last : Option Nat) : Option Nat :=
  match last with
  | none => l.head?
  | some k => match l.find? fun n => k < n with | some n => some n | none => l.head?

/-- CLASS of a service. -/
def svcClass (s : State) (v : Nat) : Nat := fld (s.r2 (A.egrSvc v)) 4 2

/-- The service chosen among those of the candidates, and the round-robin state behind it (R382 step 2). -/
def pickSvc (s : State) (p : Nat) (l : List Cand) : Option (Nat × Tab (Nat × Nat)) :=
  let svcs := (l.map (·.x.svc)).foldl insNat []
  match (List.range 4).find? fun k => svcs.any fun v => svcClass s v = k with
  | none => none
  | some k =>
    let here := svcs.filter fun v => svcClass s v = k
    let key := p * 4 + k
    match tget s.egr.rr key with
    | some (v, n + 1) =>
      if here.contains v then some (v, tset s.egr.rr key (v, n)) else next key here (some v)
    | some (v, 0) => next key here (some v)
    | none => next key here none
where
  /-- The next service takes its turn of WEIGHT datagrams. -/
  next (key : Nat) (here : List Nat) (last : Option Nat) : Option (Nat × Tab (Nat × Nat)) :=
    (cyclic here last).map fun v => (v, tset s.egr.rr key (v, Nat.max 1 (fld (s.r2 (A.egrSvc v)) 8 8) - 1))

/-- The flow chosen in a service, with its deficit before the datagram is taken off it (R382 step 4). -/
def pickFlow (s : State) (v : Nat) (l : List Cand) : Option (Cand × Nat) :=
  let g := if l.any (·.committed) then l.filter (·.committed) else l
  let last := tget s.egr.last v
  match g.find? fun c => some c.e = last && c.tok ≤ c.x.deficit * byteTok with
  | some c => some (c, c.x.deficit)
  | none =>
    match cyclic (g.map (·.e)) last with
    | none => none
    | some e => (g.find? fun c => c.e = e).map fun c => (c, c.x.deficit + c.x.quantum)

/-- What the shaper chose. -/
structure Choice where
  /-- The flow. -/
  c : Cand
  /-- Its deficit with this turn's quantum. -/
  deficit : Nat
  /-- It was chosen in the committed pass of its service. -/
  pass1 : Bool
  /-- The round-robin state. -/
  rr : Tab (Nat × Nat)

/-- The choice among the candidates of a pass. -/
def pickPass (s : State) (p : Nat) (l : List Cand) (pass1 : Bool) : Option Choice :=
  match pickSvc s p l with
  | none => none
  | some (v, rr) =>
    (pickFlow s v (l.filter fun c => c.x.svc = v)).map fun q => { c := q.1, deficit := q.2, pass1 := pass1, rr := rr }

/-- The shaper's choice on a port (R382). -/
def choose (s : State) (p : Nat) : Option Choice :=
  let l := cands s p
  let com := l.filter fun c => svcCir s c.x.svc ≠ 0 && decide (c.tok ≤ (svcTok s c.x.svc).c)
  if !com.isEmpty then pickPass s p com true
  else pickPass s p (l.filter fun c => portCir s p = 0 || decide (c.tok ≤ (portTok s p).c)) false

/-- The charge of the chosen datagram (R381), and the round-robin state. -/
def charge (s : State) (p : Nat) (k : Choice) : EFlow × State :=
  let c := k.c
  let v := c.x.svc
  let off := fun (rate tok : Nat) => if rate = 0 then tok else tok - c.tok
  let st := svcTok s v
  let pt := portTok s p
  let st' : Tok := { st with c := if k.pass1 then st.c - c.tok else st.c, p := off (svcPir s v) st.p }
  let pt' : Tok := { pt with c := if portCir s p ≠ 0 && decide (c.tok ≤ pt.c) then pt.c - c.tok else pt.c,
                             p := off (portPir s p) pt.p }
  let x := { c.x with ctok := if c.committed then c.x.ctok - c.tok else c.x.ctok, ptok := off c.x.pir c.x.ptok,
                      deficit := k.deficit - c.tok / byteTok }
  let clear := fun (t : Tab EFlow) => match tget s.egr.last v with
    | some e => if e = c.e then t else tmod t e fun y => if y.packets.isEmpty then { y with deficit := 0 } else y
    | none => t
  (x, s.setEgr { s.egr with svc := tset s.egr.svc v st', port := tset s.egr.port p pt', rr := k.rr,
                            last := tset s.egr.last v c.e, flow := clear s.egr.flow })

/-- DELAY and its mark for items whose last packet has departed (R383). -/
def putDelay (s : State) (e : Nat) (since : List DWord) : State :=
  since.foldl
    (fun t d =>
      let us := w32 (sat32 ((s.tim.dtb - d).toNat / 1000))
      let t1 := if t.egr.flow.length ≤ 64 then t.w2 (A.egrFlow e + 0x0C) us else t
      t1.w2 (A.egrFlow e + 0x14) (w32 (Nat.max (t1.r2 (A.egrFlow e + 0x14)).toNat us.toNat))) s

/-- A video packet whose picture's DTS has passed (R378). -/
def tsLate (pc : Nat) (k : TsPkt) : Bool :=
  match k.dts with
  | none => false
  | some d => let n := (pc + clkMod - 300 * d.toNat % clkMod) % clkMod
              decide (0 < n) && decide (n < clkMod / 2)

/-- A datagram of flow `e` leaves on port `p` (R376 to R379, R383). -/
def sendDgram (s : State) (e p : Nat) (x : EFlow) (d : List TsPkt) : EFlow × State :=
  let (off, s1) := match x.offset with
    | some o => (o, s)
    | none => if x.mode.testBit 0 then let (v, t) := s.takeFree; (v.toNat % clkMod, t) else (0, s)
  let pc := progClk off s.tim.dtb.toNat
  let d' := stampPcrs s x p off x.discDue 0 d
  let n := (d.filter (tsLate pc)).length
  let fr := frameOf s x p (pc / 300 % 2 ^ 32) (d'.flatMap (·.data))
  let s2 := (s1.emit (.frame p fr)).addq2 (A.egrFlow e) d.length
  let s3 := match pvPortHold s p with | some h => s2.addq0 h (0xC10 + p * 0x40) 1 | none => s2
  let s4 := if x.offset.isSome && n ≠ 0 then
      egrEvent (s3.w2 (A.egrFlow e + 0x18) (evAdd (s3.r2 (A.egrFlow e + 0x18)) 0 16 n)) 0 else s3
  ({ x with rtpSeq := if x.mode.testBit 0 then (x.rtpSeq + 1) % 65536 else x.rtpSeq,
            discDue := x.discDue && !d.any (·.pcr) },
   putDelay s4 e (d.flatMap (·.since)))

/-- Packets discarded on a port that does not transmit (R380). -/
def discard (s : State) (e n : Nat) : State :=
  egrEvent (s.w2 (A.egrFlow e + 0x18) (evAdd (s.r2 (A.egrFlow e + 0x18)) 16 14 n)) 2

/-- Null packets made by NULL_FILL take their continuity counters as they leave (R376). -/
def ccAll (x : EFlow) : List TsPkt → EFlow × List TsPkt
  | [] => (x, [])
  | k :: r =>
    let (y, d) := withCc x k.data
    let (z, l) := ccAll y r
    (z, { k with data := d } :: l)

/-- EGRESS_FRAME_START: port `p` can start a frame; the shaper chooses a datagram, which leaves or, on a port that does not
transmit, is discarded (R376 to R383). -/
def execEgressFrameStart (p : Nat) (s : State) : Res :=
  if 8 ≤ p || s.flt.safe then .next s
  else
    match choose s p with
    | none => .next s
    | some k =>
      let (x, s1) := charge s p k
      let e := k.c.e
      let on := bit (s.r2 (A.egrPort p)) 0 && linkUp s p
      let (x1, d) := if x.ready.isEmpty then ccAll x k.c.d else (x, k.c.d)
      let (y, s2) := if on then sendDgram s1 e p x1 d else (x1, discard s1 e d.length)
      let z := fill { y with ready := [] }
      let s3 := dropTs (s2.setEflow e z) d
      done s (if z.closing && z.packets.isEmpty then endEgrFlow s3 e else feedPump s3 e (feedFuel s3 e))

/-! Observing (R383). -/

/-- EGRESS_DEPTH_SAMPLE: every 100 µs egress samples the depth of every flow, while at most 64 are bound. -/
def execEgressDepthSample (s : State) : Res :=
  if s.egr.flow.length ≤ 64 then
    .next (s.egr.flow.foldl (fun t q => t.w2 (A.egrFlow q.1 + 8) (w32 (sat32 (depthOf q.2)))) s)
  else .next s

/-- EGR_OBS_CLR: function `w` clears a flow's marks. -/
def execEgrObsClr (w : Nat) (v : Word) (s : State) : Res :=
  done s (adminWrite s w fun t =>
    let e := fld v 0 8
    (t.w2 (A.egrFlow e + 0x10) 0).w2 (A.egrFlow e + 0x14) 0)

end Sys2Proof.Machine
end

