-- ==== Sys2Proof/Machine/IngTables.lean ====
section
/-! DEFINITION. Changing the tables of ingest under traffic (R323, R325, R332, R333): direct writes, the commit of a meter,
and the commands of ING_TBL_CMD. -/

namespace Sys2Proof.Machine

/-- Every enabled port that a test picks is paused (R333). -/
def pausedAll (s : State) (pick : Nat → Bool) : Bool := (List.range 8).all fun p => !portOn s p || !pick p || paused s p

/-- A write refused under R333. -/
def wrRefused (s : State) : State := s.cnt2 A.ingWrRefused 0 31

/-- KIND 6 and 7 of an action word are reserved (R323). -/
def kindReserved (v : Word) : Bool := 6 ≤ actKind v

/-- The ports a T0 key can match under its mask (R324). -/
def t0Ports (key mask : Word) (p : Nat) : Bool :=
  let m := fld mask 0 3
  p &&& m = fld key 0 3 &&& m

/-- What a write of the entry tables does: the mask of the word's fields, whether the ports it needs are paused, whether it
carries a reserved value; none for an address that is no table word. -/
def tableWord (s : State) (a : Nat) (v : Word) : Option (Nat × Bool × Bool) :=
  let all := pausedAll s fun _ => true
  if a = A.ingGraph then some (0x3F, all, false)
  else if 0x801000 ≤ a && a < 0x801400 then
    let o := a % 16
    let res := 0x801300 ≤ a || (o = 0 && (fld v 20 2 = 3 || fld v 26 2 = 3))
    some (if o = 0 then 0xFFFFFFF else if o = 4 then 0xFFFFFF else if o = 8 then 0xFF3FFF else 0, all, res)
  else if 0x801400 ≤ a && a < 0x801C00 then
    if a % 8 = 0 then some (0xFFFFFFFF, all, false) else some (0x7FFF, all, fld v 12 2 = 3)
  else if 0x802000 ≤ a && a < 0x803000 then
    let i := (a - 0x802000) / 16
    let o := a % 16
    let key := t0Word s i 0
    let mask := t0Word s i 1
    let new := fun p => t0Ports (if o = 0 then v else key) (if o = 4 then v else mask) p
    some (if o = 0 || o = 4 then 0x1FFFFFFF else if o = 8 then 0xFFFF else 0x7FFFFFF,
      pausedAll s fun p => t0Ports key mask p || new p, o = 12 && kindReserved v)
  else if 0x814000 ≤ a && a < 0x834000 then
    let o := a % 0x80
    some (if o < 0x60 then 0xFFFFFFFF else if o = 0x60 then 0x7FFFFFF else if o = 0x64 then 1 else 0, all,
      o = 0x60 && kindReserved v)
  else none

/-- A meter word other than +0xC waits for the commit (R332). -/
def meterWord (a : Nat) : Bool := 0x804000 ≤ a && a < 0x814000 && a % 16 ≠ 12

/-- A write of a table word (R321, R323, R333). -/
def tableWrite (s : State) (a : Nat) (v : Word) : State :=
  if meterWord a then s.setIng { s.ing with munc := tset s.ing.munc a (v &&& 0xFFFFFFF) }
  else
    match tableWord s a v with
    | none => s
    | some (m, ok, res) => if res then s else if ok then s.w2 a (v &&& w32 m) else wrRefused s

/-- ING_TABLE_WRITE: function `w` writes the word at BAR2 offset `off` of the parse graph, the transitions, T0, T3 or the
meters, or ING_GRAPH_CTRL. -/
def execIngTableWrite (w off : Nat) (v : Word) (s : State) : Res :=
  done s (adminWrite s w fun t => if off % 4 = 0 then tableWrite t off v else t)

/-- The meter word at an address as last written: the one that waits, else the one in force. -/
def meterNow (s : State) (a : Nat) : Word := (tget s.ing.munc a).getD (s.r2 a)

/-- The commit of meter `m` with its fourth word (R332): refused when PIR is below CIR, which leaves the meter as it was. The
buckets of a meter that was enabled keep what they hold, up to their new sizes; others start full (log 42). -/
def meterCommit (s : State) (m : Nat) (v : Word) : State :=
  let a := A.ingMeter m
  let cir := meterNow s a
  let pir := meterNow s (a + 4)
  let cbs := meterNow s (a + 8)
  let drop := fun (t : State) => t.setIng { t.ing with munc := tdel (tdel (tdel t.ing.munc a) (a + 4)) (a + 8) }
  if fld pir 0 28 < fld cir 0 28 then drop s
  else
    let full : MBkt := { c := fld (s.r2 (a + 8)) 0 24 * byteTok, p := fld (s.r2 (a + 12)) 0 24 * byteTok, t := s.tim.dtb }
    let b := tgetD s.ing.mbkt m full
    let c := refill s.tim.dtb b.t (fld (s.r2 a) 0 28) (fld (s.r2 (a + 8)) 0 24) b.c
    let p := refill s.tim.dtb b.t (fld (s.r2 (a + 4)) 0 28) (fld (s.r2 (a + 12)) 0 24) b.p
    let nb : MBkt := { c := Nat.min c (fld cbs 0 24 * byteTok), p := Nat.min p (fld v 0 24 * byteTok), t := s.tim.dtb }
    let mb := if bit (s.r2 (a + 12)) 29 then tset s.ing.mbkt m nb else tdel s.ing.mbkt m
    let s1 := drop (s.setIng { s.ing with mbkt := mb })
    (((s1.w2 a cir).w2 (a + 4) pir).w2 (a + 8) cbs).w2 (a + 12) (v &&& 0x3FFFFFFF)

/-- METER_COMMIT: function `w` writes the word at +0xC of meter `m` (R332). -/
def execMeterCommit (w m : Nat) (v : Word) (s : State) : Res :=
  done s (adminWrite s w fun t => if m < 4096 then meterCommit t m v else t)

/-! ING_TBL_CMD. -/

/-- Word `j` of the command's data. -/
def tblData (s : State) (j : Nat) : Word := s.r2 (A.ingTblData + 4 * j)

/-- The T1 key that the data hold. -/
def tblKey (s : State) : List Byte := ((List.range 10).flatMap fun j => toLE 4 (tblData s j).toNat).take 37

/-- The T1 entry that the data hold; an entry of the administrative holding carries flow tag 0x3FFF (R341). -/
def tblT1 (s : State) (prof : Nat) : T1E :=
  let w := tblData s 12
  { prof := prof, key := tblKey s, flow := 0x3FFF, role := fld w 14 2, ports := fld w 16 8, hold := fld w 24 5,
    ts := bit w 29, action := tblData s 13 &&& 0x7FFFFFF }

/-- Every port of a mask is paused (R333). -/
def maskPaused (s : State) (ports : Nat) : Bool := pausedAll s fun p => ports.testBit p

/-- The ports of a flow's T1 entries (R333). -/
def flowPorts (s : State) (flow : Nat) : Nat := s.ing.t1.foldl (fun n e => if e.flow = flow then n ||| e.ports else n) 0

/-- A command starts: the register takes OP, TABLE and PROFILE, BUSY sets, and the RESULT to come is kept. -/
def tblStart (s : State) (op : Nat) (v : Word) (result : Nat) : State :=
  let old := s.r2 A.ingTblCmd
  (s.w2 A.ingTblCmd ((old &&& 0x0F000000) ||| w32 (op + fld v 2 3 * 4) ||| 0x80000000)).setIng
    { s.ing with cmd := some { result := result } }

/-- The write of ING_TBL_CMD by function `w`, unless a command is in progress. -/
def tblCmd (s : State) (w : Nat) (body : State → State) : State :=
  adminWrite s w fun t => if t.ing.cmd.isSome then t else body t

/-- Put an entry's words into the data registers. -/
def tblPut (s : State) (ws : List Word) : State := ws.zipIdx.foldl (fun t p => t.w2 (A.ingTblData + 4 * p.2) p.1) s

/-- The data words of a T1 entry. -/
def t1Words (e : T1E) : List Word :=
  ((List.range 12).map fun j => w32 (leAt e.key (4 * j) 4)) ++
    [w32 (e.flow + e.role * 2 ^ 14 + e.ports * 2 ^ 16 + e.hold * 2 ^ 24 + b2n e.ts * 2 ^ 29), e.action]

/-- The data words of a T2 entry. -/
def t2Words (e : T2E) : List Word :=
  [w32 (e.flow + e.pid * 65536)] ++ List.replicate 12 0 ++ [e.action]

/-- A READ (R325). -/
def tblRead (s : State) (v : Word) : State :=
  let k := tblData s 0
  if bit v 2 then
    match s.ing.t2.find? fun e => e.flow = fld k 0 14 && e.pid = fld k 16 13 with
    | some e => tblStart (tblPut s (t2Words e)) 0 v 0
    | none => tblStart s 0 v 3
  else
    match s.ing.t1.find? fun e => e.prof = fld v 3 2 && e.key = tblKey s with
    | some e => tblStart (tblPut s (t1Words e)) 0 v 0
    | none => tblStart s 0 v 3

/-- An INSERT (R323, R325, R333). The spec gives no RESULT for a reserved KIND: a free value (log 42). -/
def tblInsert (s : State) (v : Word) : State :=
  let k := tblData s 0
  let e := tblT1 s (fld v 3 2)
  let ports := if bit v 2 then flowPorts s (fld k 0 14) else e.ports
  let there := if bit v 2 then s.ing.t2.any fun x => x.flow = fld k 0 14 && x.pid = fld k 16 13
    else s.ing.t1.any e.same
  let full := if bit v 2 then decide (8192 ≤ s.ing.t2.length) else decide (16384 ≤ s.ing.t1.length)
  if kindReserved (tblData s 13) then
    let (x, s1) := s.takeFree
    tblStart s1 1 v (fld x 0 4)
  else if !maskPaused s ports then tblStart (wrRefused s) 1 v 4
  else if there then tblStart s 1 v 1
  else if full then tblStart s 1 v 2
  else if bit v 2 then
    let n : T2E := { flow := fld k 0 14, pid := fld k 16 13, action := tblData s 13 &&& 0x7FFFFFF }
    tblStart (s.setIng { s.ing with t2 := s.ing.t2 ++ [n] }) 1 v 0
  else tblStart (s.setIng { s.ing with t1 := s.ing.t1 ++ [e] }) 1 v 0

/-- A DELETE (R325, R333). -/
def tblDelete (s : State) (v : Word) : State :=
  let k := tblData s 0
  if bit v 2 then
    let hit := fun (x : T2E) => x.flow = fld k 0 14 && x.pid = fld k 16 13
    if !s.ing.t2.any hit then tblStart s 2 v 3
    else if !maskPaused s (flowPorts s (fld k 0 14)) then tblStart (wrRefused s) 2 v 4
    else tblStart (s.setIng { s.ing with t2 := s.ing.t2.filter fun x => !hit x }) 2 v 0
  else
    let hit := fun (x : T1E) => x.prof = fld v 3 2 && x.key = tblKey s
    match s.ing.t1.find? hit with
    | none => tblStart s 2 v 3
    | some e =>
      if !maskPaused s e.ports then tblStart (wrRefused s) 2 v 4
      else tblStart (s.setIng { s.ing with t1 := s.ing.t1.filter fun x => !hit x }) 2 v 0

/-- ING_TBL_READ: function `w` writes ING_TBL_CMD with OP READ. -/
def execIngTblRead (w : Nat) (v : Word) (s : State) : Res := done s (tblCmd s w fun t => tblRead t v)

/-- ING_TBL_INSERT: OP INSERT. -/
def execIngTblInsert (w : Nat) (v : Word) (s : State) : Res := done s (tblCmd s w fun t => tblInsert t v)

/-- ING_TBL_DELETE: OP DELETE. -/
def execIngTblDelete (w : Nat) (v : Word) (s : State) : Res := done s (tblCmd s w fun t => tblDelete t v)

/-- ING_TBL_CMD_COMPLETE: BUSY clears and RESULT is set, within 2 µs. -/
def execIngTblCmdComplete (s : State) : Res :=
  match s.ing.cmd with
  | none => .next s
  | some c =>
    .next ((s.w2 A.ingTblCmd ((s.r2 A.ingTblCmd &&& 0x1F) ||| w32 (c.result * 2 ^ 24))).setIng { s.ing with cmd := none })

end Sys2Proof.Machine
end

