-- ==== Sys2Proof/Machine/PvOps.lean ====
section
/-! DEFINITION. PV16 ports (R496): what their assignment installs. -/

namespace Sys2Proof.Machine

/-- T0 entry 252 + k of PV16 port `k` (R496): any outer VLAN, inner VLAN absent, DOMAIN 0xF0 + k; with no holding the entry
is not valid. -/
def pvT0 (s : State) (k : Nat) (h : Option Nat) : State :=
  let a := A.ingT0 (252 + k)
  match h with
  | some h => (((s.w2 a (w32 k)).w2 (a + 4) 0x17).w2 (a + 8) (w32 (h + 0x40 + (0xF0 + k) * 256))).w2 (a + 12) 0
  | none => s.put2 (a + 8) 6 1 0

/-- Service 60 + k of PV16 port `k`: that port and holding, and enabled (R370, R496; EN: log 44). -/
def pvSvc (s : State) (k h : Nat) : State :=
  let a := A.egrSvc (60 + k)
  ((settleSvc s (60 + k)).put2 a 0 4 (1 + 2 * k)).put2 a 16 5 h

/-- Holding `h` takes the PV16 ports of a mask and gives up the others (R496). -/
def pvAssign (s : State) (h : Nat) (ports : BitVec 4) : State :=
  let old := (s.hd h).pvPorts
  (List.range 4).foldl
    (fun t k =>
      if ports.getLsbD k && !old.getLsbD k then pvSvc (pvT0 t k (some h)) k h
      else if old.getLsbD k && !ports.getLsbD k then pvT0 t k none
      else t) (s.modHd h fun x => { x with pvPorts := ports })

/-- PV16_PORTS_WRITE: function `w` writes HLDT_PV16_PORTS of holding `h`, or is refused with LAST_REFUSE 0x17 (R496). -/
def execPv16PortsWrite (w h : Nat) (v : Word) (s : State) : Res :=
  done s (adminWrite s w fun t =>
    if 32 ≤ h then t
    else
      let ports : BitVec 4 := BitVec.ofNat 4 (fld v 0 4)
      let taken := t.hold.any fun p => p.1 ≠ h && (p.2.pvPorts &&& ports) ≠ 0#4
      if !(t.hd h).pv || taken || fld (t.r2 (A.ingQuad 0)) 0 2 ≠ 1 then refuse t 0x17 else pvAssign t h ports)

end Sys2Proof.Machine
end

