-- ==== Sys2Proof/Machine/Boot.lean ====
section
/-! DEFINITION. Resets, the boot sequence, the boot window and the management processor's watchdog (20, 23). -/

namespace Sys2Proof.Machine

/-! BOOT_STATUS. -/

/-- Set STAGE. -/
def setStage (s : State) (n : Nat) : State := s.put2 A.bootStatus 0 4 n

/-- Set CODE. -/
def setCode (s : State) (n : Nat) : State := s.put2 A.bootStatus 8 8 n

/-- Set READY and WANT, and open the boot window (R459). -/
def openWindow (s : State) (want : Nat) : State :=
  let s1 := (s.put2 A.bootStatus 16 1 1).put2 A.bootStatus 17 2 want
  { s1 with sys := { s1.sys with bwOpen := true } }

/-- The boot halts with a code (R454): the window opens, and a halt of stage DRAM or SELFTEST is a fault. -/
def bootHalt (s : State) (code : Nat) : State :=
  let s1 := openWindow (setStage (setCode s code) 7) 0
  if code = 7 || code = 8 then s1.raise { src := 22 } else s1

/-- A bit of BOOT_EVENT (R473). -/
def bootEvent (s : State) (b : Nat) : State := devEvent s A.bootEvent b 1334

/-! Images (R456, R457, R464, R465). -/

/-- The checks of R457 but the anti-rollback count, and the limits of R456. -/
def imgSound (i : Image) (magic max : Nat) : Bool :=
  i.magic = magic && i.device = 0x9600 && i.stepping = 0xA2 && i.svn ≤ 255 && i.length ≤ max && i.flags < 2 && i.rsvOk &&
    i.keyOk && i.sigOk

/-- A firmware image is accepted. -/
def fwOk (s : State) (i : Image) : Bool := imgSound i 0x5746515A 1048576 && decide (s.sys.fuseN ≤ i.svn)

/-- A firmware image fails on SVN alone. -/
def fwOnlySvn (s : State) (i : Option Image) : Bool :=
  match i with
  | some i => imgSound i 0x5746515A 1048576 && decide (i.svn < s.sys.fuseN)
  | none => false

/-- What a bundle puts into the dispatch RAM parts and the patch RAMs, as `Sys.dispatch` and `Sys.patchRam` hold it. -/
structure Patch where
  /-- Dispatch entries with OVERRIDE. -/
  disp : Tab Nat := []
  /-- Patch RAM words. -/
  ram : Tab Nat := []
  deriving DecidableEq, Repr

/-- Patch RAM words of a record. -/
def recWords (p : Patch) (cls start : Nat) (d : List Byte) (n : Nat) : Patch :=
  { p with ram := (List.range n).foldl (fun t i => tset t (cls * 2048 + start + i) (leNat (slice d (24 * i) 24))) p.ram }

/-- Dispatch entries of a record: MICROADDR in bits [14:0], OVERRIDE in bit 15 (R461); none where the layout of R465
refuses one. -/
def recEntries (p : Patch) (cls start : Nat) (d : List Byte) (n : Nat) : Option Patch :=
  (List.range n).foldl
    (fun o i => o.bind fun q =>
      let e := leNat (slice d (2 * i) 2)
      let a := e % 0x8000
      let k := cls * 256 + start + i
      if (cls = 0 && 0xF0 ≤ start + i) || a < 0x4000 || 0x47FF < a then none
      else some { q with disp := if 0x8000 ≤ e then tset q.disp k a else tdel q.disp k }) (some p)

/-- The records of a bundle's plaintext (R465), at most `n`; none rejects the bundle. -/
def parseBundle (p : Patch) (d : List Byte) : Nat → Option Patch
  | 0 => if d.isEmpty then some p else none
  | n + 1 =>
    if d.isEmpty then some p
    else
      let kind := leNat (slice d 0 1)
      let cls := leNat (slice d 1 1)
      let cnt := leNat (slice d 2 2)
      let start := leNat (slice d 4 2)
      let body := d.drop 8
      let len := if kind = 1 then 24 * cnt else 2 * cnt
      if d.length < 8 || leNat (slice d 6 2) ≠ 0 || 3 < cls || body.length < len then none
      else if kind = 1 then
        (if 2048 < start + cnt then none else parseBundle (recWords p cls start body cnt) (body.drop len) n)
      else if kind = 2 then
        (if 256 < start + cnt then none
         else (recEntries p cls start body cnt).bind fun q => parseBundle q (body.drop len) n)
      else none

/-- What an accepted bundle installs (R457, R464, R465); none where it is rejected. -/
def bundleOk (s : State) (i : Image) : Option Patch :=
  if imgSound i 0x424D515A 262144 && decide (s.sys.fuseN ≤ i.svn) && i.tagOk && i.plain.length = i.length then
    parseBundle {} i.plain i.length
  else none

/-! The steps of R453. -/

/-- Raw granules of a configuration of R385, none where it is not supported. -/
def rawGranules (density ranks : Nat) : Option Nat :=
  match density, ranks with
  | 0, 1 => some 1024 | 1, 1 => some 2048 | 0, 2 => some 2048 | 2, 1 => some 4096 | 1, 2 => some 4096 | _, _ => none

/-- A board configuration record is good (R458); one that names no configuration of R385 counts as bad (log 45). -/
def boardOk (b : Board) : Bool :=
  b.magic = 0x4342515A && b.restZero && b.crcOk && b.rate ≤ 3 && b.flags < 2 && b.pmbus < 128 && 320 ≤ b.ceiling &&
    b.ceiling ≤ 1200 && (rawGranules b.density b.ranks).isSome

/-- A self-test ends (R467, R470 to R473): its result and ST_EVENT, then the fault of its result. -/
def testEnd (s : State) (t : TestRes) : State :=
  let w := w32 (t.res % 8 + t.detail % 256 * 256 + Nat.min t.dur 65535 * 65536)
  let s1 := devEvent (s.w2 (A.stResult t.unit) w) A.stEvent 0 1333
  match t.res with
  | 2 => s1.raise { src := 21, info1 := t.unit }
  | 3 => (devEvent s1 A.stEvent 1 1333).raise { src := 19, info1 := t.unit }
  | 4 => (devEvent s1 A.stEvent 2 1333).raise { src := 20, info1 := t.unit }
  | _ => s1

/-- The host links that come up with the boot: port, generation, single lane. -/
def linksUp (s : State) (l : List (Nat × Nat × Bool)) : State :=
  l.foldl
    (fun t x =>
      if x.1 < 2 && !(t.hp x.1).up then
        claimPll (t.modHp x.1 fun y => { y with up := true, gen := Nat.min (if x.2.2 then 3 else 4) x.2.1, single := x.2.2 })
          (13 + x.1)
      else t) s

/-- PV16_DEFAULT: holdings 0 and 16 are PV16 and native as the strap says (R41). -/
def pvDefault (s : State) : State :=
  let a := (s.put2 (A.ingQuad 0) 0 2 1).setHd 0
    { enable := true, pers := true, pv := true, qDram := 17, qMax := 64, qYoke := 416, pvChans := List.range 16 }
  let c := pvInit (pvAssign (a.setHd 16 { enable := true }) 0 0xF#4) 0
  { c with adm := {} }

/-- Step 14 (R30, R41, R453): the holdings take their reset states, the functions of ports that are up appear, and the
lease of R24 starts. -/
def bootRun (s : State) (b : BootIn) : State :=
  let s1 := linksUp s b.links
  let s2 := if s.sys.pv16Default then pvDefault s1
    else { s1.setHd 0 { enable := true } with adm := { owner := some 0, lease := true } }
  let s3 := setStage (s2.put2 A.bootStatus 16 1 0) 6
  let s4 := { s3 with sys := { s3.sys with bwOpen := false } }
  [0, 1].foldl (fun t p => if (t.hp p).up then functionAppear t (p * 16) else t) s4

/-- Step 11: the uncore PLL locks and the memory leaves self-refresh (R453). -/
def leaveSlow (s : State) : State :=
  { s with yoke := { s.yoke with pl := 0, gpioOff := false, plls := insNat s.yoke.plls 9 }, drm := { s.drm with self := false } }

/-- The bundle `x` is installed, and with COMMIT_SVN the anti-rollback count follows it (R464, R466). -/
def install (s : State) (x : Image) (p : Patch) : State :=
  { s with sys := { s.sys with
      dispatch := p.disp, patchRam := p.ram,
      fuseN := if x.flags % 2 = 1 then Nat.max s.sys.fuseN (Nat.min x.svn 64) else s.sys.fuseN } }

/-- What an installed bundle reports: its copy, its version, the use of copy B, and a saturated anti-rollback count. -/
def installed (s : State) (from_ : Nat) (x : Image) (p : Patch) : State :=
  let s1 := install ((s.put2 A.bootStatus 20 2 from_).w2 A.bootPatchVersion x.version) x p
  let s2 := if from_ = 2 then bootEvent s1 0 else s1
  if x.flags % 2 = 1 && 64 < x.svn then (bootEvent s2 2).raise { src := 18 } else s2

/-- Steps 11 to 14 with a bundle from copy A (1), copy B (2) or the window (3), or with none (0) (R454, R464, R466). -/
def bootPatched (s : State) (b : BootIn) (from_ : Nat) (i : Option (Image × Patch)) : State :=
  match i with
  | none => bootRun ((bootEvent (leaveSlow s) 1).raise { src := 17 }) b
  | some (x, p) => bootRun (installed (leaveSlow s) from_ x p) b

/-- Step 10 from flash (R454, R464): copy A, then copy B; without either the boot halts or goes on without patches. -/
def bootBundle (s : State) (b : BootIn) (required : Bool) : State :=
  let try_ := fun (o : Option Image) => o.bind fun i => (bundleOk s i).map fun p => (i, p)
  match try_ b.bunA with
  | some x => bootPatched s b 1 (some x)
  | none =>
    let s1 := if b.bunA.isSome then s.raise { src := 16 } else s
    match try_ b.bunB with
    | some x => bootPatched s1 b 2 (some x)
    | none => if required then bootHalt s1 9 else bootPatched s1 b 0 none

/-- The memory has trained: after a warm reset its periodic training is due, else the temperatures are taken (R398,
R399). -/
def trainedAt (s : State) (b : BootIn) : State :=
  if s.sys.trained then { s with drm := { s.drm with due := List.range 16 } }
  else (List.range 16).foldl (fun t ch => t.put2 (A.drcChTrain ch) 0 8 (b.dramTemps.getD ch 0 % 256)) s

/-- The repairs of the start are soft ones (R470). -/
def softRepaired (s : State) (n : Nat) : State := { s with sys := { s.sys with trained := true, softRepairs := n } }

/-- A Field that fails at start stays disabled (R469). -/
def dropFields (s : State) (l : List TestRes) : State :=
  l.foldl (fun t r => if r.unit < 8 && r.res = 3 then t.put2 (A.fld r.unit) 0 1 0 else t) s

/-- Steps 8 to 10 (R398, R399, R454, R468, R470): the memory trains, the start-up tests run, and the bundle is looked for.
`win` says that the bundle comes from the window. -/
def bootTrain (s : State) (b : BootIn) (c : Board) (win : Bool) : State :=
  let s0 := setStage s 3
  if !b.dramOk then bootHalt s0 7
  else
    let s3 := b.tests.foldl testEnd (setStage (softRepaired (trainedAt s0 b) b.repairs) 4)
    if b.tests.any fun t => 28 ≤ t.unit && t.res = 3 then bootHalt s3 8
    else
      let s5 := setStage (dropFields s3 b.tests) 5
      if win && (s.sys.bootMode = 1 || (b.bunA.isNone && b.bunB.isNone)) then openWindow s5 2
      else bootBundle s5 b (c.flags % 2 = 1)

/-- What the board record sets: the ceiling, the PMBus address, the core voltage, the memory (R385, R414, R419). -/
def boardSet (s : State) (c : Board) : State :=
  let s1 := ((s.put2 A.yokeCeiling 0 11 c.ceiling).put2 A.pwrPmbus 0 7 c.pmbus).w2 A.drcCfg
    (w32 (c.rate + c.density * 4 + (c.ranks - 1) * 16 + b2n (c.rate = 0) * 32))
  { s1.emit (.vout 720) with
    sys := { s1.sys with board := some c },
    drm := { s1.drm with raw := (rawGranules c.density c.ranks).getD 0, ranks := c.ranks } }

/-- Step 7 with a board record (R414, R419, R454). -/
def bootBoard (s : State) (b : BootIn) (c : Board) (win : Bool) : State :=
  if !b.vrOk then bootHalt s 6 else bootTrain (boardSet s c) b c win

/-- The firmware starts (R453 step 6) and takes the board record from flash, or waits for it in the window. -/
def bootFirmware (s : State) (b : BootIn) (v : Word) (copyB win : Bool) : State :=
  let s1 := (setStage (s.w2 A.bootVersion v) 2).put2 A.bootStatus 19 1 (b2n copyB)
  if win && (s.sys.bootMode = 1 || b.board.isNone) then openWindow s1 1
  else
    match b.board with
    | some c => if boardOk c then bootBoard s1 b c win else bootHalt s1 5
    | none => bootHalt s1 5

/-- Steps 5 and 6 from flash (R454 to R457). -/
def bootFlash (s : State) (b : BootIn) : State :=
  if !b.dirOk then bootHalt s 2
  else
    let ok := fun (o : Option Image) => match o with | some i => fwOk s i | none => false
    let ver := fun (o : Option Image) => match o with | some i => i.version | none => 0
    if ok b.fwA then bootFirmware s b (ver b.fwA) false false
    else
      let s1 := s.raise { src := 16 }
      if ok b.fwB then bootFirmware (bootEvent s1 0) b (ver b.fwB) true false
      else bootHalt s1 (if fwOnlySvn s b.fwA && fwOnlySvn s b.fwB then 4 else 3)

/-- The boot sequence from step 1, its straps sampled (R451, R453, R454). Factory test is not described. -/
def boot (s0 s : State) (b : BootIn) : Res :=
  let m := s.sys.bootMode
  let s1 := { s with yoke := { s.yoke with plls := insNat s.yoke.plls 8 } }
  let s2 := setStage (s1.put2 A.bootStatus 22 2 m) 1
  if m = 3 && !s.sys.testN then .refused .factoryTest
  else if 2 ≤ m then done s0 (bootHalt s2 1)
  else if m = 1 then done s0 (openWindow s2 0)
  else done s0 (bootFlash s2 b)

/-! Resets. -/

/-- PORST_N low: everything at reset but what lies outside the core (R451, R452): fuses, the serial number, the levels of
pins, and the model's own fields. -/
def porstState (s : State) : State :=
  { State.reset with
    sys := { porst := true, sysrst := s.sys.sysrst, powerGood := s.sys.powerGood, fuseN := s.sys.fuseN,
             repairUsed := s.sys.repairUsed, serial := s.sys.serial, gpioIn := s.sys.gpioIn },
    flt := { lineLow := s.flt.lineLow },
    out := s.out, readData := s.readData, free := s.free, pending := s.pending }

/-- POWER_ON_RESET: PORST_N is low for 1 µs; with `up` the rails have first risen again as R507 says (R452, R508, R509). -/
def execPowerOnReset (up : Bool) (s : State) : Res :=
  let t := porstState s
  .next (if up then { t with sys := { t.sys with powerGood := true } } else t)

/-- POWER_LOSS: a rail leaves its limits (R508): nothing of the device's state is left, and it stays down until its power-up
is repeated. -/
def execPowerLoss (s : State) : Res :=
  let t := porstState s
  .next { t with sys := { t.sys with powerGood := false } }

/-- BOOT_START: PORST_N rises, the straps are sampled, and the boot runs, unless SYSRST_N holds it at step 1 (R451, R453,
R509). -/
def execBootStart (b : BootIn) (s : State) : Res :=
  if !s.sys.porst || !s.sys.powerGood then .next s
  else
    let t := { s with sys := { s.sys with
      porst := false, bootMode := b.mode % 4, baulkId := b.baulkId % 4, pv16Default := b.pv16, testN := b.testN } }
    if s.sys.sysrst then .next t else boot s t b

/-- The warm reset of SYSRST_N (R405, R442, R452). -/
def warmState (s : State) : State :=
  let keep := s.b2.filterMap fun p =>
    if 0x600200 ≤ p.1 && p.1 < 0x600240 then some (p.1, w32 (fld p.2 0 8)) else none
  { State.reset with
    sys := { porst := false, sysrst := true, powerGood := s.sys.powerGood, bootMode := s.sys.bootMode,
             baulkId := s.sys.baulkId, pv16Default := s.sys.pv16Default, testN := s.sys.testN, fuseN := s.sys.fuseN,
             repairUsed := s.sys.repairUsed, serial := s.sys.serial, gpioIn := s.sys.gpioIn, trained := s.sys.trained },
    tim := { aon := s.tim.aon, phase := s.tim.phase },
    b2 := keep.foldl (fun t p => bankSet t dflt2 p.1 p.2) [],
    flt := { lineLow := s.flt.lineLow, log := s.flt.log, seq := s.flt.seq, ff := s.flt.ff, roll := s.flt.roll,
             ffLost := s.flt.ffLost },
    drm := { mem := s.drm.mem, poison := s.drm.poison },
    out := s.out, readData := s.readData, free := s.free, pending := s.pending }

/-- SYSRST_N: it is low for 25 REFCLK cycles (R452, R509). While PORST_N is low only its level counts. -/
def execSysrstN (s : State) : Res :=
  if s.sys.porst || !s.sys.powerGood then .next { s with sys := { s.sys with sysrst := true } }
  else .next (warmState s)

/-- SYSRST_N_RELEASE: SYSRST_N rises, and a boot held at step 1 proceeds (R453, R509). -/
def execSysrstNRelease (b : BootIn) (s : State) : Res :=
  if !s.sys.sysrst then .next s
  else
    let t := { s with sys := { s.sys with sysrst := false } }
    if s.sys.porst || !s.sys.powerGood then .next t else boot s t b

/-! The boot window and the watchdog. -/

/-- The boot takes the item it wants (R459): its LEN in bytes and the item; none where the checks fail. -/
def takeWindow (s : State) (want len : Nat) (i : BootItem) (b : BootIn) : Option State :=
  let s1 := setCode (s.put2 A.bootStatus 16 1 0) 0
  match want, i with
  | 0, .image x =>
    if fwOk s x && 304 + x.length ≤ len && len ≤ 1048880 then some (bootFirmware s1 b x.version false true) else none
  | 1, .board c => if boardOk c && len = 64 then some (bootBoard s1 b c true) else none
  | 2, .image x =>
    if 304 + x.length ≤ len && len ≤ 262448 then (bundleOk s x).map fun p => bootPatched s1 b 3 (some (x, p)) else none
  | _, _ => none

/-- BOOT_WINDOW_GO: the host on U0 writes `v` with GO to BW_CTRL, and the load buffer holds `i`; `b` is what the boot then
finds outside (R459). A GO while READY is 0 is ignored. -/
def execBootWindowGo (w : Nat) (v : Word) (item : BootItem) (b : BootIn) (s : State) : Res :=
  let st := s.r2 A.bootStatus
  if w ≠ 0 || !s.sys.bwOpen || !(s.hp 0).up then .next s
  else
    let s1 := s.w0 0 B.bwCtrl (v &&& 0xFFFFFF)
    let want := fld st 17 2
    if !bit st 16 then .next s1
    else
      match if fld v 22 2 = want then takeWindow s1 want (fld v 0 22) item b else none with
      | some t => done s t
      | none => .next (setCode s1 0x0A)

/-- MP_WATCHDOG: the management processor has missed its watchdog and restarts its firmware (R472, R473). -/
def execMpWatchdog (s : State) : Res :=
  let st := fld (s.r2 A.bootStatus) 0 4
  if 2 ≤ st && st ≤ 6 then done s ((bootEvent s 3).raise { src := 23 }) else .next s

end Sys2Proof.Machine
end

