-- ==== Sys2Proof/Machine/Complete.lean ====
section
/-! DEFINITION. How a job ends (R62, R77, R83 to R87): JOB_FINAL_COMPLETION. -/

namespace Sys2Proof.Machine

/-- The end a job has reached: status, result and whether it is a fault of R84; none while it goes on. The spec names no
result for the end of a program and for a cancelled job: `v`, a free value (log 12). -/
def ctxEnd (x : Ctx) (v : DWord) : Option (Nat × DWord × Bool) :=
  match x.ended with
  | some (st, r) => some (st, r, x.fault)
  | none =>
    if x.wait != .none then none
    else if atBad x then some (St.illegal, w64 ((x.bad.getD 0) % 65536), true)
    else if atEnd x then
      (if x.plen = some x.pc then some (St.ok, v, false) else some (St.illegal, w64 (x.from_ % 65536), true))
    else if x.cut && (nextIns x).isNone && x.ptr.isNone then some (St.cancelQueue, v, false)
    else none

/-- Count a fault of a job and fire JOB_FAULT (R84, R86, R448). -/
def jobFaulted (s : State) (k : Nat) (x : Ctx) (status : Nat) (result : DWord) : State :=
  let f := k / 32
  let s1 := s.cnt2 (A.drl f + 0x10) 0 31
  let s2 := s1.w2 (A.drl f + 0x14) (w32 (status % 65536 + x.hold % 32 * 2 ^ 16 + k % 32 * 2 ^ 21))
  let s3 := s2.w2 (A.drl f + 0x18) (w32 (result.toNat % 65536 + x.tag % 65536 * 2 ^ 16))
  if status / 256 = 1 then
    (s3.cnt0 x.hold B.hcJobfault).raise { src := 12, hold := some x.hold, code := status, info1 := f }
  else if status = St.yoke then s3.cnt0 x.hold B.hcYoke
  else s3

/-- The context of a finished job goes: its grants and its requests end (R86, R90). -/
def freeCtx (s : State) (k : Nat) : State :=
  let s1 := s.setJob { s.job with
    ctx := tdel s.job.ctx k,
    sq := tmap s.job.sq fun _ q => if q.sheaf = some k then { q with sheaf := none, discard := true } else q,
    starved := if tget s.job.starved (k / 32) = some (k % 32) then tdel s.job.starved (k / 32) else s.job.starved }
  releaseCtx (unwait s1 k) k

/-- Every instruction of the job has ended and every channel it closed has drained (R87). -/
def jobQuiet (s : State) (k : Nat) (x : Ctx) : Bool := !(s.job.work.any fun p => p.2.ctx == k) && x.drains.isEmpty

/-- The final completion of a job; for an internal job the completion of its descriptor (R490, R494). None while the
completion queue's hold is full. -/
def postFinal (s : State) (f c : Nat) (x : Ctx) (st : Nat) (r : DWord) : Option State :=
  match x.pv with
  | none =>
    cqPost s (cqOf s x.hold x.sqid)
      { final := true, tag := x.tag, status := st, sqid := x.sqid, field := f, ctx := c, result := r }
  | some j =>
    pvPost s x.hold
      { code := pvCode st, queue := x.sqid, tag := x.tag, result := if x.fault then 0 else r.toNat % 2 ^ 32, pic := j.pic,
        flags := j.flags }

/-- The picture that an internal PV16 job holds under K0 is let go. -/
def pvRelease (s : State) (x : Ctx) : State :=
  match x.pv, useHandle s x.hold [2] (x.kr 0) with
  | some _, some o => reapBuf ((freeSlot s (hSlot (x.kr 0))).modBuf o.ref fun b => { b with handles := b.handles - 1 }) o.ref
  | _, _ => s

/-- JOB_FINAL_COMPLETION (R83 to R87, R135 to R140, R490, R491, R519): the job has ended and is quiet; its effects are fenced
to host scope, its FINAL completion is posted, and its context is free. While the completion queue's hold is full it
waits. -/
def execJobFinalCompletion (f c : Nat) (s : State) : Res :=
  let k := ckey f c
  match s.ctx k with
  | none => .next s
  | some x =>
    let (v, s1) := s.takeFree
    match ctxEnd x v with
    | none => .next s
    | some (st, r, fault) =>
      if s.flt.safe || !jobQuiet s k x then .next s
      else if x.bports ≠ 0 && !x.fenced then
        (match x.wait with
         | .fence _ _ => .next s
         | _ => .next (s1.setCtx k { x with wait := .fence 15 2, ended := some (st, r), fault := fault }))
      else
        let s2 := if x.ports ≠ 0 then s1.emit (.flushRead x.hold) else s1
        match postFinal s2 f c { x with fault := fault } st r with
        | none => .next s
        | some s3 =>
          let s4 := s3.addq0 x.hold B.hcJobs 1
          let s5 := if fault then jobFaulted s4 k x st r else s4
          done s (pvRelease (freeCtx s5 k) x)

end Sys2Proof.Machine
end

