-- ==== Sys2Proof/Machine/Control.lean ====
section
/-! DEFINITION. Control flow (R96, R97): NOP, BR, CALL, RET, END, SLEEP and its wake. -/

namespace Sys2Proof.Machine

/-- A target greater than the length of a finished program (R77). -/
def beyond (x : Ctx) (t : Nat) : Bool := match x.plen with | some n => decide (n < t) | none => false

/-- A jump to a word offset; one beyond a finished program faults at the jump (R77). -/
def jumpTo (s : State) (k : Nat) (x : Ctx) (t : Nat) : State :=
  if beyond x t then faultJob s k St.illegal else s.setCtx k { x with pc := t, from_ := x.pc }

/-- NOP: no effect. -/
def execNop (f c : Nat) (s : State) : Res := .next (issueCtx 0x00 anyIns f c s fun x _ => x)

/-- BR: branches if the condition holds (R97). -/
def execBr (f c : Nat) (s : State) : Res :=
  .next (issue 0x01 anyIns f c s fun s k x i =>
    match x.cond (i.mod % 16) with
    | none => faultJob s k St.illegal
    | some true => jumpTo s k x i.imm.toNat
    | some false => s.setCtx k (step1 x i))

/-- CALL: pushes the offset of the next instruction, then branches; a full stack faults (R84). -/
def execCall (f c : Nat) (s : State) : Res :=
  .next (issue 0x02 anyIns f c s fun s k x i =>
    if 4 ≤ x.stack.length then faultJob s k St.stack
    else if beyond x i.imm.toNat then faultJob s k St.illegal
    else s.setCtx k { x with pc := i.imm.toNat, from_ := x.pc, stack := (x.pc + 1) :: x.stack })

/-- RET: pops an offset and branches to it; an empty stack faults (R84). -/
def execRet (f c : Nat) (s : State) : Res :=
  .next (issue 0x03 anyIns f c s fun s k x _ =>
    match x.stack with
    | [] => faultJob s k St.stack
    | t :: rest => if beyond x t then faultJob s k St.illegal else s.setCtx k { x with pc := t, from_ := x.pc, stack := rest })

/-- END: ends the job with Ga[15:0] and Ga when S is set; OK without, and the spec names no RESULT then (a free value,
log 12). -/
def execEnd (f c : Nat) (s : State) : Res :=
  .next (issue 0x04 anyIns f c s fun s k x i =>
    if i.mod.testBit 0 then endJob s k (fld (x.gr i.a) 0 16) (x.gr i.a)
    else let (v, s1) := s.takeFree; endJob s1 k St.ok v)

/-- SLEEP: waits until the DTB reaches Ga, or until Ga ns have passed with REL; a time already past ends it at once. -/
def execSleep (f c : Nat) (s : State) : Res :=
  .next (issue 0x05 anyIns f c s fun s k x i =>
    let t := if i.mod.testBit 0 then s.tim.dtb.toNat + (x.gr i.a).toNat else (x.gr i.a).toNat
    if t ≤ s.tim.dtb.toNat then s.setCtx k (step1 x i) else s.setCtx k { x with wait := .sleep t })

/-- SLEEP_WAKE: the DTB has reached the time (R96). -/
def execSleepWake (f c : Nat) (s : State) : Res :=
  let k := ckey f c
  match s.ctx k with
  | some x =>
    match x.wait with
    | .sleep t => if t ≤ s.tim.dtb.toNat then .next (s.setCtx k { x.advance 0 with wait := .none }) else .next s
    | _ => .next s
  | none => .next s

end Sys2Proof.Machine
end

