-- ==== Sys2Proof/Machine/Dram.lean ====
section
/-! DEFINITION. The external memory controller's events (17), and GRN_SPILL (R343, R344). -/

namespace Sys2Proof.Machine

/-- Set the DRAM controller. -/
def State.setDrm (s : State) (d : Drm) : State := { s with drm := d }

/-- A location of the memory (R389). -/
structure Loc where
  /-- Channel. -/
  ch : Nat
  /-- Rank. -/
  rank : Nat
  /-- Bank. -/
  bank : Nat
  /-- Row. -/
  row : Nat
  /-- First burst of the block. -/
  burst : Nat
  deriving DecidableEq, Repr

/-- The address mapping (R389). -/
def dramLoc (ranks a : Nat) : Loc :=
  let b := a / 128
  let j := b / 16
  let n := j % 15
  let k := j / 15
  let rank := if ranks = 2 then k / 16 % 2 else 0
  let row := if ranks = 2 then k / 32 else k / 16
  { ch := (b % 16) ^^^ (row % 16), rank := rank, bank := (k % 16) ^^^ (row / 16 % 16), row := row, burst := 4 * n }

/-- Device granules: 15/16 of the raw capacity (R388). -/
def devGranules (s : State) : Nat := s.drm.raw * 15 / 16

/-- The device address lies in a CRITICAL granule (R388, R401). -/
def critical (s : State) (a : Nat) : Bool :=
  let base := (devGranules s - s.drm.raw / 32) * granule
  if base ≤ a then decide (a < base + s.drm.raw / 32 * granule / 4)
  else s.drm.map.any fun p => p.2 == a / granule && decide (p.1 % 4096 < critGranules s (p.1 / 4096))

/-- The controller serves requests: memory trained and awake, no freeze (R405). -/
def dramServes (s : State) : Bool := s.drm.raw ≠ 0 && !s.drm.self && !s.drm.frozen

/-- A bit of DRC_EVENT (R406). -/
def drcEvent (s : State) (b : Nat) : State := devEvent s A.drcEvent b 1318

/-- The DRC_DIAG registers capture an error at device address `a` (R405, R407): the first after VALID was cleared, or a
CRITICAL one over a DATA record. -/
def diag (s : State) (crit : Bool) (a : Nat) (l : Loc) (r : DramIn) : State :=
  let w := s.r2 A.drcDiagInfo
  if !bit w 0 || (crit && !bit w 1) then
    (s.wq2 A.drcDiagAddr (w64 a)).w2 A.drcDiagInfo
      (w32 (1 + b2n crit * 2 + l.ch % 16 * 4 + l.rank % 2 * 64 + l.bank % 16 * 128 + r.port % 16 * 2 ^ 11 +
        r.cmd % 32 * 2 ^ 15 + r.syn % 4096 * 2 ^ 20))
  else s

/-- A freeze (R405): command issue stops, the registers capture the error, DRAM_FREEZE is raised. -/
def freeze (s : State) (a : Nat) (l : Loc) (r : DramIn) : State :=
  let s1 := (diag s true a l r).setDrm { s.drm with frozen := true, retrain := none }
  (setCause (drcEvent s1 2) 1 true).raise { src := 1, info0 := a, info1 := r.port }

/-- A burst becomes poisoned (R403): its record, its count, its event and its fault. -/
def poisonBurst (s : State) (a : Nat) (l : Loc) (r : DramIn) : State :=
  let s1 := (diag s false a l r).setDrm { s.drm with poison := insNat s.drm.poison (a / 32) }
  let hold := r.chan.bind fun c => (s.chan c).map (·.hold)
  (drcEvent (s1.cnt2 A.drcErr 16 14) 1).raise
    { src := 6, hold := hold, chan := if hold.isSome then r.chan else none, info0 := a, code := St.poison, info1 := r.port }

/-- An access to a row (R394, R395, R397): the rank leaves power-down, another row of the bank is opened by an activate,
and the rotating pointer passes the bank. -/
def openRow (s : State) (l : Loc) : State :=
  let key := (l.ch * 2 + l.rank) * 16 + l.bank
  let d := { s.drm with pd := remNat s.drm.pd (l.ch * 2 + l.rank) }
  if tget d.row key = some l.row then s.setDrm d
  else s.setDrm { d with row := tset d.row key l.row, ptr := tset d.ptr l.ch ((l.bank + 1) % 16) }

/-- A read of the burst at device address `a` returns (R402 to R404): corrected, poisoned, or with a freeze. A burst that is
poisoned already returns poison again. -/
def dramRead (s : State) (a : Nat) (r : DramIn) : State :=
  let l := dramLoc s.drm.ranks a
  let s1 := openRow s l
  if s.drm.poison.contains (a / 32) then s1
  else if r.err = 1 then
    (drcEvent (s1.cnt2 A.drcErr 0 16) 0).raise { src := 5, info0 := a, info1 := r.port }
  else if r.err = 2 then (if critical s a then freeze s1 a l r else poisonBurst s1 a l r)
  else s1

/-- A command about the burst at `a`: nothing while the controller serves nothing, a fault for an address that no memory
has (R388). -/
def atBurst (s : State) (a : Nat) (g : State) : Res :=
  if !dramServes s then .next s
  else if devGranules s * granule ≤ a then .fault (.noSuchBurst a)
  else done s g

/-- DRAM_READ_RETURN. -/
def execDramReadReturn (a : Nat) (r : DramIn) (s : State) : Res := atBurst s a (dramRead s a r)

/-- SCRUB_BURST: a read with no requester; port 15 (R400, R403). -/
def execScrubBurst (a : Nat) (r : DramIn) (s : State) : Res := atBurst s a (dramRead s a { r with port := 15, chan := none })

/-- COMMAND_CHECK_ERROR on channel `ch` (R404): in a DATA granule the burst is poisoned, otherwise the controller freezes. -/
def execCommandCheckError (a : Option Nat) (ch : Nat) (r : DramIn) (s : State) : Res :=
  match a with
  | some a =>
    let l := dramLoc s.drm.ranks a
    atBurst s a (if critical s a then freeze s a l r else if s.drm.poison.contains (a / 32) then s else poisonBurst s a l r)
  | none =>
    if dramServes s then done s (freeze s 0 { ch := ch, rank := 0, bank := 0, row := 0, burst := 0 } r) else .next s

/-- A burst whose write failed holds 32 free bytes: the spec states none (log 47). -/
def lostBurst (s : State) (a : Nat) : State :=
  let (bs, s1) := freeBytes s 32
  s1.setDrm { s1.drm with mem := writeBytes s1.drm.mem (a / 32 * 32) bs }

/-- WRITE_LINK_ECC_ERROR (R404): with an address in a CRITICAL granule, or with none, the controller freezes. -/
def execWriteLinkEccError (a : Option Nat) (ch : Nat) (r : DramIn) (s : State) : Res :=
  match a with
  | some a =>
    atBurst s a (if critical s a then freeze s a (dramLoc s.drm.ranks a) r else lostBurst s a)
  | none =>
    if dramServes s then done s (freeze s 0 { ch := ch, rank := 0, bank := 0, row := 0, burst := 0 } r) else .next s

/-! Refresh and power-down. -/

/-- Refreshes that a bank owes. -/
def owedOf (d : Drm) (key : Nat) : Nat := tgetD d.owed key 0

/-- Set what a bank owes. -/
def setOwed (d : Drm) (key n : Nat) : Drm := { d with owed := bankSet d.owed (fun _ => 0) key n }

/-- A bank is refreshed: it owes one less, and its row closes (R395). -/
def refreshBank (d : Drm) (key : Nat) : Drm := { setOwed d key (owedOf d key - 1) with row := tdel d.row key }

/-- REFRESH_DUE: the interval of the banks `banks` of a rank passes, `busy` being banks with a request or a command (R396).
-/
def execRefreshDue (ch rk : Nat) (banks busy : List Nat) (s : State) : Res :=
  if 16 ≤ ch || s.drm.ranks ≤ rk || s.drm.raw = 0 || s.drm.self then .next s
  else
    let key := fun b => (ch * 2 + rk) * 16 + b
    let d1 := (List.range 16).foldl
      (fun d b => if banks.contains b then setOwed d (key b) (Nat.min 8 (owedOf d (key b) + 1)) else d) s.drm
    let high := (List.range 16).filter fun b => 6 ≤ owedOf d1 (key b)
    if 8 ≤ high.length then
      done s (drcEvent ((s.setDrm ((List.range 16).foldl (fun d b => refreshBank d (key b)) d1)).cnt2 A.drcRef 16 14) 4)
    else
      done s ((List.range 16).foldl
        (fun t b =>
          let n := owedOf d1 (key b)
          if 6 ≤ n then (t.setDrm (refreshBank t.drm (key b))).cnt2 A.drcRef 0 16
          else if 1 ≤ n && !busy.contains b then t.setDrm (refreshBank t.drm (key b))
          else t) (s.setDrm d1))

/-- MR4_POLL: mode register 4 of a rank reports `v` (R396). -/
def execMr4Poll (ch rk v : Nat) (s : State) : Res :=
  if 16 ≤ ch || s.drm.ranks ≤ rk || s.drm.raw = 0 || s.drm.self then .next s
  else .next (s.setDrm { s.drm with mr4 := tset s.drm.mr4 (ch * 2 + rk) (v % 256) })

/-- RANK_POWER_DOWN: a rank has been idle for PD_TIMER and owes no refresh above 5; its rows close (R395, R397). -/
def execRankPowerDown (ch rk : Nat) (s : State) : Res :=
  let d := s.drm
  let base := (ch * 2 + rk) * 16
  if 16 ≤ ch || d.ranks ≤ rk || d.raw = 0 || d.self || fld (s.r2 A.drcCtrl) 0 8 = 0 ||
      (List.range 16).any (fun b => 5 < owedOf d (base + b)) then .next s
  else .next (s.setDrm { d with pd := insNat d.pd (ch * 2 + rk), row := tfilter d.row fun k _ => k / 16 ≠ ch * 2 + rk })

/-! Retraining (R399). -/

/-- TEMP_C of a channel, signed. -/
def trainTemp (s : State) (ch : Nat) : Int := (BitVec.ofNat 8 (fld (s.r2 (A.drcChTrain ch)) 0 8)).toInt

/-- DRAM_RETRAIN_START: a channel whose junction is at `temp` °C, and whose retraining is due, begins it. -/
def execDramRetrainStart (ch : Nat) (temp : Int) (s : State) : Res :=
  let d := temp - trainTemp s ch
  let due := s.drm.due.contains ch || decide (10 < d) || decide (d < -10)
  if ch < 16 && due && s.drm.retrain.isNone && dramServes s then
    .next (s.setDrm { s.drm with retrain := some ch, lastCh := ch, due := insNat s.drm.due ch })
  else .next s

/-- DRAM_RETRAIN_DONE: the retraining ends at `temp` °C with new values, or fails, keeps the old ones and raises
DRAM_TRAIN_FAIL. -/
def execDramRetrainDone (ok : Bool) (temp : Int) (s : State) : Res :=
  match s.drm.retrain with
  | none => .next s
  | some ch =>
    let s1 := s.setYoke { s.yoke with fallow := remNat s.yoke.fallow (32 + ch) }
    if ok then
      .next ((s1.put2 (A.drcChTrain ch) 0 8 (temp % 256).toNat).setDrm
        { s.drm with retrain := none, due := remNat s.drm.due ch })
    else
      let n := fld (s.r2 (A.drcChTrain ch)) 8 8
      done s ((drcEvent ((s1.put2 (A.drcChTrain ch) 8 8 (Nat.min 255 (n + 1))).setDrm { s.drm with retrain := none }) 3).raise
        { src := 7, info1 := ch })

/-! Granules. -/

/-- Zero the bytes of a device granule; its poison goes. -/
def zeroGranule (d : Drm) (g : Nat) : Drm :=
  { d with mem := d.mem.filter fun p => p.1 / granule ≠ g, poison := d.poison.filter fun b => b * 32 / granule ≠ g }

/-- GRANULE_ZERO_DONE: device granule `d`, which no holding has, is zeroed and mapped as granule `g` of holding `h`
(R390). -/
def execGranuleZeroDone (h g d : Nat) (s : State) : Res :=
  if h < 32 && (s.hd h).enable && g < (s.hd h).qDram && !thas s.drm.map (4096 * h + g) && d < dramAvail s &&
      !(s.drm.map.any fun p => p.2 == d) && dramServes s then
    .next (s.setDrm { zeroGranule s.drm d with map := tset s.drm.map (4096 * h + g) d })
  else .next s

/-- DRC_DIAG_RELEASE: function `w` writes 1 to VALID (R407). -/
def execDrcDiagRelease (w : Nat) (s : State) : Res :=
  done s (adminWrite s w fun t => if t.drm.frozen then t else t.put2 A.drcDiagInfo 0 1 0)

/-! Spill cells. -/

/-- GRN_SPILL_WRITE: function `w` writes GRN_SPILL (R343, R344, R368). A granule that a holding has mapped above the new
limit keeps the write out (log 13). -/
def execGrnSpillWrite (w : Nat) (v : Word) (s : State) : Res :=
  done s (adminWrite s w fun t =>
    let n := fld v 0 7
    let t1 := t.put2 A.grnSpill 0 7 n
    let spillUsed := t.grn.cells.any fun p => 65536 ≤ p.1
    if 64 < n || spillUsed || sumsRefuse t1 = 0x11 || sumsRefuse t1 = 0x12 || t1.drm.map.any (fun p => dramAvail t1 ≤ p.2)
    then devEvent t A.grnEvent 5 1319
    else t1)

end Sys2Proof.Machine
end

