-- ==== Sys2Proof/Machine/Faults.lean ====
section
/-! DEFINITION. The commands of the Fault Collector (19), and CHN_LAT_CLR (R449). -/

namespace Sys2Proof.Machine

/-- FC_SEV_WRITE: function `w` writes the severity of source `n` (R432). -/
def execFcSevWrite (w n : Nat) (v : Word) (s : State) : Res :=
  done s (adminWrite s w fun t =>
    let k := fld v 0 3
    if 64 ≤ n || sevFixed n || fltReserved n || 4 < k then t
    else t.setFlt { t.flt with sev := bankSet t.flt.sev sevDflt n k })

/-- A clear of one status bit: refused and counted while the cause of a LEVEL source persists (R436). -/
def clearStatus (s : State) (n : Nat) : State :=
  if !thas s.flt.status n then s
  else if levelSrc n && s.flt.cause.contains n then s.cnt2 A.fcClrRefused 0 31
  else s.setFlt { s.flt with status := tdel s.flt.status n }

/-- FC_STATUS_CLEAR: function `w` writes `v` to FC_STATUS0 or FC_STATUS1 (`i`). -/
def execFcStatusClear (w k : Nat) (v : Word) (s : State) : Res :=
  done s (adminWrite s w fun t =>
    if 2 ≤ k then t
    else (List.range 32).foldl (fun u b => if bit v b then clearStatus u (32 * k + b) else u) t)

/-- FC_THRESHOLD_WRITE: function `w` writes THRESHOLD (R435). -/
def execFcThresholdWrite (w : Nat) (v : Word) (s : State) : Res :=
  done s (adminWrite s w fun t => t.put2 A.fcCtrl 0 3 (fld v 0 3))

/-- A RESUME is accepted (R438): in the safe state, with no status bit of SEV4 and SELF 0. -/
def resumeOk (s : State) : Bool := s.flt.safe && !s.flt.self && s.flt.status.all fun p => decide (p.2 < 4)

/-- The end of the safe state (R438): Fields restart from FS4, and every ACTIVE holding is torn down as by a Function Level
Reset; the pictures that stood still are discarded. -/
def leaveSafe (s : State) : State :=
  let s1 := (List.range 8).foldl
    (fun t f => t.modFs f fun x => { x with fs := 4, waking := false, clk := 0, pllStop := false }) s
  let s2 := s1.setFlt { s1.flt with safe := false }
  let s3 := s2.hold.foldl (fun t p => if p.2.st == .active then teardownStart t p.1 .flr else t) s2
  s3.hold.foldl (fun t p => if p.2.st == .resetting then cutPictures t p.1 else t) s3

/-- RESUME written (R438). -/
def resume (s : State) : State := if resumeOk s then leaveSafe s else s.cnt2 A.fcClrRefused 0 31

/-- FC_RESUME: function `w` writes RESUME. -/
def execFcResume (w : Nat) (s : State) : Res := done s (adminWrite s w resume)

/-- The first-fault area is emptied (R440). -/
def ffClear (s : State) : State := s.setFlt { s.flt with ff := 0, log := tfilter s.flt.log fun k _ => 32 ≤ k }

/-- FC_FF_CLEAR: function `w` writes FF_CLEAR. -/
def execFcFfClear (w : Nat) (s : State) : Res := done s (adminWrite s w ffClear)

/-- FC_SELF_MISMATCH: the Collector's two copies differ (R439). -/
def execFcSelfMismatch (s : State) : Res :=
  done s ((setCause (enterSafe (s.setFlt { s.flt with self := true })) 0 true).raise { src := 0 })

/-- The channel that CHN_SEL of a function selects, when it belongs to the holding (OWN). -/
def ownChan (s : State) (h : Nat) : Option Nat :=
  let c := fld (s.r0 h B.chnSel) 0 8
  match s.chan c with
  | some x => if x.hold = h then some c else none
  | none => none

/-- CHN_LAT_CLR: any write clears CHN_LAT_MAX of the selected channel (R449). -/
def execChnLatClr (h : Nat) (s : State) : Res :=
  .next (if fnOn s h then
    (match ownChan s h with | some c => s.wch c B.latMax 0 | none => s) else s)

end Sys2Proof.Machine
end

