-- ==== Sys2Proof/Machine/Fields.lean ====
section
/-! DEFINITION. Enabling, disabling and draining a Field (R39, R217, R218). -/

namespace Sys2Proof.Machine

/-- A Field still has pictures: engine work of its contexts, or a picture being coded on it as a home. -/
def fieldPictures (s : State) (f : Nat) : Bool :=
  (s.job.work.any fun p => p.2.engine && p.2.ctx / 32 == f) || s.vid.chan.any fun p => p.2.home == f && p.2.cur.isSome

/-- ENABLE of a Field becomes 0 (R39, R217): ignored when it would leave no Field enabled. -/
def fieldDisable (s : State) (f : Nat) : State :=
  let others := (List.range 8).any fun g => g ≠ f && fieldOn s g
  if fieldOn s f && others then (s.put2 (A.fld f) 0 1 0).modFs f fun x => { x with draining := true } else s

/-- ENABLE of a Field becomes 1, which ends a drain (R217). -/
def fieldEnable (s : State) (f : Nat) : State := (s.put2 (A.fld f) 0 1 1).modFs f fun x => { x with draining := false }

/-- FIELD_ENABLE: function `w` writes FLD_CTRL.ENABLE = 1 of Field `f`. -/
def execFieldEnable (w f : Nat) (s : State) : Res := done s (adminWrite s w fun t => if f < 8 then fieldEnable t f else t)

/-- FIELD_DISABLE: function `w` writes FLD_CTRL.ENABLE = 0 of Field `f`. -/
def execFieldDisable (w f : Nat) (s : State) : Res := done s (adminWrite s w fun t => if f < 8 then fieldDisable t f else t)

/-- FIELD_DRAIN_DONE: a draining Field has finished its pictures and its jobs have moved; it enters FS4, and DRAIN_DONE sets
(R39, R218). -/
def execFieldDrainDone (f : Nat) (s : State) : Res :=
  if f < 8 && (s.fs f).draining && !fieldPictures s f && !drillBusy s f && !fieldGranted s f then
    done s (devEvent (s.modFs f fun x => { x with draining := false, fs := 4, waking := false, pllStop := x.clk ≠ 0 })
      (A.fldEvent f) 0 (1335 + f))
  else .next s

end Sys2Proof.Machine
end

