-- ==== Sys2Proof/Machine/Pv16.lean ====
section
/-! DEFINITION. The PV16 personality (22): its control, queues, operations, interrupts and port enables. -/

namespace Sys2Proof.Machine

/-- The function of holding `h` presents the PV16 map and answers its BARs. -/
def pvOn (s : State) (h : Nat) : Bool := barOn s h && (s.hd h).pv

/-- PV_RUN (R489): PV_CTRL.RUN. -/
def execPvRun (h : Nat) (run : Bool) (s : State) : Res := .next (if pvOn s h then s.put0 h 4 0 1 (b2n run) else s)

/-- PV_RESET (R489): PV_CTRL.RESET starts the Function Level Reset teardown of R36. -/
def execPvReset (h : Nat) (s : State) : Res := if pvOn s h then done s (teardownStart s h .flr) else .next s

/-- PV_SQ_TAIL_WRITE (R491): an index below the ring size is accepted, and lets a stopped queue read again; any other is
ignored. -/
def execPvSqTailWrite (h q : Nat) (v : Word) (s : State) : Res :=
  let n := fld v 0 10
  if pvOn s h && s.active h && q < 16 && n < pvSqSize s h q then
    let x := s.pvq h
    .next (s.setPvq h { x with sqTail := tset x.sqTail q n, halt := remNat x.halt q })
  else .next s

/-- PV_CQ_HEAD_WRITE (R491, R492): an index below the ring size is accepted, and the hold moves into the ring. -/
def execPvCqHeadWrite (h : Nat) (v : Word) (s : State) : Res :=
  let n := fld v 0 12
  if pvOn s h && s.active h && n < pvCqSize s h then
    let s1 := s.setPvq h { s.pvq h with head := n }
    done s (if s.flt.safe then s1 else pvDrain s1 h 65)
  else .next s

/-! Taking a descriptor. -/

/-- The class of an internal job (R494). -/
def pvClass (op : Nat) : Nat := if op = 0x20 then 2 else if op = 0x21 || op = 0x22 then 4 else 0

/-- The operations of R493. -/
def pvOps : List Nat := [0x00, 0x01, 0x02, 0x10, 0x11, 0x20, 0x21, 0x22]

/-- The fields of a descriptor (R490). -/
def pvJobOf (d : List Word) : PvJob :=
  let w := fun i => d.getD i 0
  { op := fld (w 0) 0 8, idr := bit (w 0) 8, len := (w 1).toNat, addr := (joinW (w 3) (w 2)).toNat, ap := (w 4).toNat,
    stride := fld (w 5) 0 16 }

/-- The descriptor at the head of queue `q` becomes an internal job on a Field (R65, R494). An operation that R493 does not
list ends at once. -/
def pvPlace (s : State) (h q f : Nat) (d : List Word) : State :=
  match lowestFree s.job.ctx (f * 32) 32 with
  | none => s
  | some k =>
    let j := pvJobOf d
    let y : Ctx :=
      { hold := h, sqid := q, pv := some j, tag := fld (d.getD 0 0) 16 15, cls := pvClass j.op, aff := 1,
        affArg := (s.hd h).pvChans.getD q 0, tmo := 50, prio := 1, wait := .base }
    if pvOps.contains j.op then askBase (stopIdleTest (s.setCtx k y) f) k h
    else s.setCtx k { y with wait := .none, ended := some (St.illegal, 0) }

/-- The PHASE that the next descriptor of a queue must have. -/
def pvPhase (x : Pv) (q : Nat) : Bool := tgetD x.sqPhase q true

/-- A queue's head moves past a descriptor. -/
def pvPass (s : State) (h q : Nat) (x : Pv) : Pv :=
  let n := tgetD x.sqHead q 0 + 1
  let last := decide (pvSqSize s h q ≤ n)
  { x with sqHead := tset x.sqHead q (if last then 0 else n), sqPhase := tset x.sqPhase q (pvPhase x q != last),
           fetched := tdel x.fetched q }

/-- PV_DESCRIPTOR_TAKE (R65, R132, R134, R490 to R492, R494): the arbiter reads the descriptor `d` (log 5: eight words) of the
queue it has come to, and takes it when its PHASE is right and a Field has room. -/
def execPvDescriptorTake (h : Nat) (d : List Word) (s : State) : Res :=
  match pvNext s h with
  | none => .next s
  | some v =>
    let x := s.pvq h
    let q := v.2.1
    let w := (tget x.fetched q).getD d
    match chooseField s h 1 ((s.hd h).pvChans.getD q 0) with
    | none => .next s
    | some f =>
      if w.length ≠ 8 || !firstInLine s 1 then .next s
      else if bit (w.getD 0 0) 31 = pvPhase x q then
        done s (pvPlace (s.setPvq h (pvPass s h q (pvMove x v))) h q f w)
      else .next (s.setPvq h { x with retry := insNat x.retry q })

/-! Internal jobs. -/

/-- One step of the internal job in context `c` of Field `f`, of the operation `op`: while the Drill runs, its grant has come
and what it issued before has ended. -/
def pvStep (op f c : Nat) (s : State) (body : State → Nat → Ctx → PvJob → State) : Res :=
  let k := ckey f c
  match s.ctx k with
  | none => .next s
  | some x =>
    match x.pv with
    | none => .next s
    | some j =>
      if j.op = op && x.ended.isNone && x.wait == .none && drillRuns s f && s.active x.hold &&
          !(s.job.work.any fun p => p.2.ctx == k) then done s (body s k x j)
      else .next s

/-- The job ends: a native status, RESULT, PICTURE and flags of its completion (R490). -/
def pvFinish (s : State) (k : Nat) (j : PvJob) (st result : Nat) (pic : Word) (flags : Nat) : State :=
  (endJob s k st (w64 result)).modCtx k fun x => { x with pv := some { j with pic := pic, flags := flags } }

/-- The job ends with a status and nothing moved. -/
def pvStop (s : State) (k : Nat) (j : PvJob) (st : Nat) : State := pvFinish s k j st 0 0xFFFFFFFF 0

/-- An instruction of the job faults (R84). -/
def pvFault (s : State) (k st : Nat) : State := faultAt s k st 0

/-- The device channel of PV16 channel `q` of a holding (R29). -/
def pvDevChan (s : State) (h q : Nat) : Nat := (s.hd h).pvChans.getD q 0

/-- The open channel of a job's queue; none when it is closed or drains. -/
def pvChan (s : State) (x : Ctx) : Option (Nat × Chan) :=
  match s.chan (pvDevChan s x.hold x.sqid) with
  | some y => if y.st == .draining then none else some (pvDevChan s x.hold x.sqid, y)
  | none => none

/-- A step on the open channel of the job's queue; BAD_STATE without one (R494). -/
def onChan (s : State) (k : Nat) (x : Ctx) (j : PvJob) (body : Nat → Chan → State) : State :=
  match pvChan s x with
  | some (c, y) => body c y
  | none => pvStop s k j St.state

/-- PV_NOP (R493). -/
def execPvNop (f c : Nat) (s : State) : Res := pvStep 0x00 f c s fun t k _ j => pvStop t k j St.ok

/-! OPEN. -/

/-- A register of PV16 channel `q`. -/
def pvReg (s : State) (h q o : Nat) : Word := s.r0 h (0x400 + q * 0x80 + o)

/-- The picture rate of an MPEG-2 frame_rate_code (R493; the table of ISO/IEC 13818-2: PRESUMED, log 18). -/
def frameRate (code : Nat) : Nat × Nat :=
  match code with
  | 1 => (24000, 1001) | 2 => (24, 1) | 3 => (25, 1) | 4 => (30000, 1001) | 5 => (30, 1) | 6 => (50, 1) | 7 => (60000, 1001)
  | _ => (60, 1)

/-- The levels of a codec's profile, the lowest first (R493). -/
def pvLevels (codec : Nat) (c422 : Bool) : List Nat :=
  if codec = 0 then (if c422 then [8, 4] else [10, 8, 6, 4])
  else [10, 11, 12, 13, 20, 21, 22, 30, 31, 32, 40, 41, 42, 50, 51, 52, 60, 61, 62]

/-- The channel block that the registers of PV16 channel `q` ask for, with POOL 0 (R493). -/
def pvBlk (s : State) (h q : Nat) : Blk :=
  let a := pvReg s h q 0
  let codec := fld a 0 2
  let c422 := bit a 4
  let live := bit a 8
  let preset := [0, 1, 2, 1].getD (fld a 5 2) 1
  let bitrate := (pvReg s h q 0x0C).toNat
  let r := frameRate (fld (pvReg s h q 0x08) 0 4)
  let b : Blk :=
    { dir := fld a 2 2, codec := codec, live := live,
      profile := if codec = 0 then (if c422 then 0x80 else 4) else if c422 then 122 else 100,
      level := 0, chroma := if c422 then 2 else 1, depth := 8, width := fld (pvReg s h q 4) 0 13,
      height := fld (pvReg s h q 4) 16 13, num := r.1, den := r.2, preset := preset, rcMode := if bit a 7 then 3 else 4,
      look := if live then 0 else [1, 3, 7].getD preset 3, pool := 0, bitrate := bitrate,
      maxrate := if bit a 7 then (pvReg s h q 0x10).toNat else bitrate, bufsize := (pvReg s h q 0x14).toNat,
      gop := fld (pvReg s h q 0x18) 0 16, fifoCells := 4096, home := 255, span := 1, tier := 0 }
  { b with level := ((pvLevels codec c422).find? fun l =>
      match lvlOf { b with level := l } with | some v => inLevel b v | none => false).getD 0 }

/-- Fields for which R493 names no channel: UNSUPPORTED. -/
def pvUnsupported (s : State) (h q : Nat) (b : Blk) : Bool :=
  let code := fld (pvReg s h q 0x08) 0 4
  1 < b.codec || 2 < b.dir || 1920 < b.width || 1088 < b.height || code < 1 || 8 < code || b.level = 0

/-- FS_BASE and FS_LEN in bytes. -/
def pvStore (s : State) (h q : Nat) : Nat × Nat :=
  (fld (pvReg s h q 0x1C) 0 8 * 0x100000, fld (pvReg s h q 0x1C) 8 8 * 0x100000)

/-- Bytes of the picture-memory aperture (R489). -/
def pvAperture : Nat := 0x10000000

/-- The buffers that fit in the frame store after the lookahead slots, at most 32; none when the store is outside the
aperture or too small (R493). -/
def pvPool (s : State) (h q : Nat) (b : Blk) : Option Nat :=
  let fs := pvStore s h q
  let n := Nat.min 32 ((fs.2 - b.lookSize) / b.bufSize)
  if fs.1 + fs.2 ≤ pvAperture && b.lookSize ≤ fs.2 && minPool b ≤ n then some n else none

/-- The ingest flow that OPEN binds with RX_EN (R493); an IPv4 register is in network order, its top byte first (log 53). -/
def pvIngIn (s : State) (h q : Nat) : IngIn :=
  let r := pvReg s h q 0x20
  { mode := 2 + b2n (bit (pvReg s h q 0) 9), v6 := false, any := true, pid := fld r 16 13, reorder := 1000, meter := none,
    paths := [{ port := fld r 0 2, vid := none, dst := toBE 4 (pvReg s h q 0x24).toNat ++ List.replicate 12 0,
                src := List.replicate 16 0, dport := fld (pvReg s h q 0x28) 0 16, sport := 0 }] }

/-- Bind the ingest flow of RX_EN, or the status that refuses it. -/
def pvRx (s : State) (h q c : Nat) (b : Blk) : Except Nat State :=
  if !bit (pvReg s h q 0x20) 2 then .ok s
  else
    let i := pvIngIn s h q
    if 0x1FFE < i.pid || !ingModeOk b i.mode || !ingTablesOk s h i (ingEntries s h c 0 i) then .error St.operand
    else match bindIngest s h c i with | some r => .ok r.2 | none => .error St.pool

/-- A free number below `n` (log 12). -/
def freeBelow (s : State) (n : Nat) : Nat × State := let r := s.takeFree; (r.1.toNat % n, r.2)

/-- Where the templates of a channel stand, in granule 16 (R493; the place in it: log 53). -/
def pvPsiAt (q : Nat) : Nat := 16 * granule + 0x2000 * q

/-- A PAT of programme 1 on a PMT PID, the CRC left to egress (R375, R493). -/
def pvPat (tsid pmt : Nat) : List Byte :=
  toBE 3 0x00B00D ++ toBE 2 tsid ++ toBE 3 0xC10000 ++ toBE 2 1 ++ toBE 2 (0xE000 + pmt) ++ toBE 4 0

/-- The PMT of programme 1: the video stream, which carries the PCR (R375, R493). -/
def pvPmt (codec pid : Nat) : List Byte :=
  toBE 3 0x02B012 ++ toBE 2 1 ++ toBE 3 0xC10000 ++ toBE 2 (0xE000 + pid) ++ toBE 2 0xF000 ++
    toBE 1 (if codec = 0 then 0x02 else 0x1B) ++ toBE 2 (0xE000 + pid) ++ toBE 2 0xF000 ++ toBE 4 0

/-- A template: its header and its section (R375). -/
def pvTemplate (sec : List Byte) : List Byte := toLE 4 sec.length ++ toLE 4 0 ++ sec

/-- The egress flow that OPEN binds with TX_EN (R493). What R493 does not name is as R371's fields of 0, and where 0 is no
value a free one (log 53). -/
def pvEflow (s : State) (h q c : Nat) (b : Blk) : EFlow × State :=
  let r := pvReg s h q 0x30
  let pid := fld r 16 13
  let p := fld r 0 2
  let rate := b.maxrate * 21 / 20
  let (ttl, s1) := freeBelow s 255
  let (cbs, s2) := freeBelow s1 16775168
  let (pbs, s3) := freeBelow s2 16775168
  let (quantum, s4) := freeBelow s3 63936
  let (qlimit, s5) := freeBelow s4 65520
  let (ssrc, s6) := freeBelow s5 (2 ^ 32)
  let (src, s7) := freeBelow s6 (2 ^ 32)
  let psi : List Psi :=
    [{ addr := w64 (pvPsiAt q), pid := 0, ms := 100, en := true, crc := true },
     { addr := w64 (pvPsiAt q + 0x1000), pid := fld (pvReg s h q 0x3C) 0 13, ms := 100, en := true, crc := true },
     { addr := 0, pid := 0, ms := 0, en := false, crc := false }, { addr := 0, pid := 0, ms := 0, en := false, crc := false }]
  ({ hold := h, chan := c, slot := 0, mode := b2n (bit (pvReg s h q 0) 10), svc := 60 + p, port := p, vpid := pid, ppid := pid,
     pkts := 7, pcrMs := 35, holdUs := 1000, dscp := 0, ttl := ttl + 1, feed := none, feedLog2 := 0, feedBase := 0,
     cir := rate, pir := rate, cbs := cbs + 2048, pbs := pbs + 2048, quantum := quantum + 1600, qlimit := qlimit + 16,
     ssrc := w32 ssrc, muxDelay := 100000, vlan := 0,
     mac := toBE 2 (fld (pvReg s h q 0x44) 0 16) ++ toBE 4 (pvReg s h q 0x40).toNat,
     dst := toBE 4 (pvReg s h q 0x34).toNat ++ List.replicate 12 0, srcA := toBE 4 src ++ List.replicate 12 0,
     dport := fld (pvReg s h q 0x38) 0 16, sport := fld (pvReg s h q 0x38) 16 16, psi := psi,
     rtpSeq := s.tim.dtb.toNat % 65536, ctok := (cbs + 2048) * byteTok, ptok := (pbs + 2048) * byteTok, tref := s.tim.dtb }, s7)

/-- Bind the egress flow of TX_EN and write its templates, or the status that refuses it. -/
def pvTx (s : State) (h q c : Nat) (b : Blk) : Except Nat State :=
  if !bit (pvReg s h q 0x30) 2 then .ok s
  else
    let (e, s1) := pvEflow s h q c b
    if !egrRanges s1 e || !egrPids e || !egrSvcOk s1 e || !egrPlace s1 b e then .error St.operand
    else
      let (tsid, s2) := freeBelow s1 65536
      let s3 := writeDev s2 h (pvPsiAt q) (pvTemplate (pvPat tsid (fld (pvReg s h q 0x3C) 0 13)))
      let s4 := writeDev s3 h (pvPsiAt q + 0x1000) (pvTemplate (pvPmt b.codec e.vpid))
      match bindEgress s4 e with | some r => .ok r.2 | none => .error St.pool

/-- The channel of a good block with its flows, or the status that refuses it; nothing is left of a refused one. -/
def pvOpen (s : State) (h q f : Nat) (b : Blk) : Except Nat State :=
  match openChannel s h b f [pvDevChan s h q] with
  | (none, _) => .error St.pool
  | (some (c, _), s1) =>
    match pvRx s1 h q c b with
    | .error e => .error e
    | .ok s2 => pvTx s2 h q c b

/-- PV_OPEN (R29, R493): opens the queue's channel from its registers as they stand. While the granule of the templates is
still being made the job waits (R390). -/
def execPvOpen (f c : Nat) (s : State) : Res :=
  pvStep 0x01 f c s fun t k x j =>
    let h := x.hold
    let q := x.sqid
    let b := pvBlk t h q
    if thas t.vid.chan (pvDevChan t h q) then pvStop t k j St.state
    else if pvUnsupported t h q b then pvStop t k j St.format
    else
      match pvPool t h q b with
      | none => pvStop t k j St.pool
      | some n =>
        if !blkOk { b with pool := n } (b2n (!b.live)) then pvFault t k St.operand
        else if bit (pvReg t h q 0x30) 2 && !devMapped t h (pvPsiAt q) 0x2000 then t
        else
          match pvOpen t h q f { b with pool := n } with
          | .ok t1 => pvStop t1 k j St.ok
          | .error e => if e = St.operand then pvFault t k e else pvStop t k j e

/-- PV_CLOSE (R109, R493): SCLOSE of the channel; the completion waits until the drain ends. -/
def execPvClose (f c : Nat) (s : State) : Res :=
  pvStep 0x02 f c s fun t k x j => onChan t k x j fun n _ => pvStop (drainChannel t n k) k j St.ok

/-! Streams. -/

/-- The bus address of a descriptor's buffer (R119); at or above 2^62 it is none. -/
def pvHost (a : Nat) : Option Nat := if a < 2 ^ 62 then some a else none

/-- One item of host bytes goes into a channel's input FIFO (R352, R356); none while a cell or room is missing. -/
def pvCommit (s : State) (h n : Nat) (y : Chan) (bs : List Byte) : Option State :=
  let need := itemCells bs.length
  if fifoUsed (s.fifo (fin_ n)) + need ≤ y.blk.fifoCells then
    match allocChain s h need with
    | (none, _) => none
    | (some cell, s1) =>
      match commitPending s1 (fin_ n) h with
      | (false, _) => none
      | (true, s2) =>
        let g := s2.fifo (fin_ n)
        some (s2.setFifo (fin_ n) { g with items := g.items ++
          [{ cell := cell, cells := need, len := bs.length, gap := false, reset := false, time := s2.tim.dtb, items := 0,
             bytes := 0, data := bs }] })
  else none

/-- PV_BS_IN (R493): commits the host buffer, whose bytes are `m.data` (log 5), as one item. Refused with BAD_STATE while the
channel was opened with RX_EN; a buffer that no FIFO of the channel could hold ends with RESOURCE_GRANARY (log 53). -/
def execPvBsIn (f c : Nat) (m : MoveIn) (s : State) : Res :=
  pvStep 0x10 f c s fun t k x j => onChan t k x j fun n y =>
    if (ingFlowOf t n).isSome then pvStop t k j St.state
    else if j.len = 0 then pvStop t k j St.illegal
    else if 16777215 < j.len then pvStop t k j St.operand
    else if (pvHost j.addr).isNone then pvStop t k j St.bounds
    else if y.blk.fifoCells < itemCells j.len then pvStop t k j St.granary
    else if m.data.length ≠ j.len then t
    else
      match pvCommit t x.hold n y m.data with
      | some t1 => pvFinish (countDma t1 x.hold j.len) k j St.ok j.len 0xFFFFFFFF 0
      | none => t

/-- PV_BS_OUT (R365, R493): copies whole items, headers included, while the next fits. Refused with BAD_STATE while the
channel was opened with TX_EN. -/
def execPvBsOut (f c : Nat) (s : State) : Res :=
  pvStep 0x11 f c s fun t k x j => onChan t k x j fun n _ =>
    if !(egrFlowsOf t n).isEmpty then pvStop t k j St.state
    else if j.len = 0 then pvStop t k j St.illegal
    else
      match pvHost j.addr with
      | none => pvStop t k j St.bounds
      | some a =>
        let g := t.fifo (fout n)
        let (w, bs) := itemsIn j.len g.items
        let t1 := (dropItems t (g.items.take w)).setFifo (fout n) { g with items := g.items.drop w }
        let t2 := if bs.isEmpty then t1 else t1.emit (.hostWrite x.hold a bs)
        let t3 := (countDma t2 x.hold bs.length).modCtx k fun z => { z with ports := if bs.isEmpty then z.ports else 4 }
        pvFinish t3 k j St.ok bs.length 0xFFFFFFFF 0

/-! Pictures. -/

/-- A frame of `len` bytes at AP_OFF runs past the aperture, is not on a page, or overlaps the frame store of an open channel of
the holding (R490, R493). -/
def pvFrameBad (s : State) (h ap len : Nat) : Bool :=
  ap % 4096 ≠ 0 || pvAperture < ap + len ||
    (List.range 16).any fun q =>
      let fs := pvStore s h q
      thas s.vid.chan (pvDevChan s h q) && decide (ap < fs.1 + fs.2) && decide (fs.1 < ap + len)

/-- The frame of a channel: a blank picture of its size. -/
def pvFrame (h : Nat) (b : Blk) : Buf := { hold := h, depth := b.depth, hdr := blankHdr b }

/-- The engines of the job's class (R90, R117). -/
def pvEngine (m : Nat) (live : Bool) (s : State) (k : Nat) (x : Ctx) (body : State) : State :=
  if !classOk x m then pvFault s k St.cls
  else if x.granted then body
  else askGrant (s.modCtx k fun y => { y with wait := .grant })
    { key := k, field := k / 32, hold := x.hold, cls := x.cls, live := live, fallow := 0 }

/-- An instruction of the job is outstanding: the context remembers the step. -/
def pvWork (s : State) (k : Nat) (x : Ctx) (j : PvJob) (w : Work) : State :=
  let s1 := countIssue (s.setJob { s.job with work := tset s.job.work s.job.nextWork w, nextWork := s.job.nextWork + 1 }) k
  s1.modCtx k fun z => { z with k := x.k, pv := some { j with step := j.step + 1 } }

/-- The job's DEC.PIC: its picture's handle stands in K0 and its status in G0 (R112). -/
def pvDec (s : State) (k : Nat) (x : Ctx) (j : PvJob) (n : Nat) (y : Chan) : State :=
  if !y.blk.dec then pvFault s k St.operand
  else if y.st == .failed then pvStop s k j St.unrecoverable
  else
    pvEngine 2 y.blk.live s k x
      (match addEmpty s x.hold true with
       | none => pvStop s k j St.pool
       | some (hnd, s1) =>
         pvWork (reachChan s1 n (k / 32)) k (x.setK 0 hnd) j
           { ctx := k, hold := x.hold, d := 0, engine := true, fcls := 1, kind := .decPic n (some (hSlot hnd)) false false })

/-- The job's ENC.PIC of buffer `p`: its status goes to G1 (R112). -/
def pvEnc (s : State) (k : Nat) (x : Ctx) (j : PvJob) (n : Nat) (y : Chan) (p : Nat) : State :=
  match s.buf p with
  | none => pvStop s k j St.noPicture
  | some b =>
    if !y.blk.enc || !srcOk b then pvFault s k St.operand
    else if y.st == .failed then pvStop s k j St.unrecoverable
    else if srcChroma s p b ≠ y.blk.chroma then pvStop s k j St.source
    else
      pvEngine 3 y.blk.live s k x
        (let y0 := if j.idr && j.op = 0x21 then { y with idr := true } else y
         let (pic, y1) := acceptPic s y0 p
         let early := if y.filled < y.blk.look then some y.counter else none
         pvWork (reachChan (s.setChan n { y1 with look := y1.look ++ [pic] }) n (k / 32)) k x j
           { ctx := k, hold := x.hold, d := 1, engine := true, fcls := 3, kind := .encPic n p early })

/-- The job's PACK or PACK.IN of buffer `p` and the frame at AP_OFF: its status goes to G`d` (R181). -/
def pvPack (inn : Bool) (d : Nat) (s : State) (k : Nat) (x : Ctx) (j : PvJob) (p : Nat) (b : Buf) : State :=
  if (packRows b j.stride).any (fun r => decide (r.2.1 < r.1)) then pvFault s k St.operand
  else if pvFrameBad s x.hold j.ap (packSpan b j.stride) then pvStop s k j St.bounds
  else
    pvWork s k x j
      { ctx := k, hold := x.hold, d := d, engine := true, fcls := 2, uses := [p],
        kind := .pack p (w64 j.ap) j.stride inn false 0 }

/-- The status code of a status word. -/
def stOf (w : DWord) : Nat := fld w 0 16

/-- The buffer of the picture whose handle stands in K0. -/
def pvPicture (s : State) (x : Ctx) : Option (Nat × Buf) :=
  (useHandle s x.hold [2] (x.kr 0)).bind fun o => (s.buf o.ref).map fun b => (o.ref, b)

/-- The end of a DEC.PIC of the job: with a picture the job goes on, remembering PICTURE, CONCEALED and the status; without
one it ends. -/
def afterDec (s : State) (k : Nat) (x : Ctx) (j : PvJob) (body : Ctx → PvJob → Nat → Buf → State) : State :=
  let w := x.gr 0
  match pvPicture s x with
  | some (p, b) =>
    if b.empty then pvStop s k j (stOf w)
    else body x { j with pic := hiW w, flags := b2n (bit w 16), code := stOf w } p b
  | none => pvStop s k j (stOf w)

/-- A later status of the job, or the one its DEC.PIC gave while the later one is a success without more to say (log 53). -/
def worseOf (first later : Nat) : Nat := if pvCode later = 0 then first else later

/-- PV_DECODE (R493): DEC.PIC, then PACK of the picture to the frame, then the end. -/
def execPvDecode (f c : Nat) (s : State) : Res :=
  pvStep 0x20 f c s fun t k x j => onChan t k x j fun n y =>
    match j.step with
    | 0 =>
      if pvFrameBad t x.hold j.ap (packSpan (pvFrame x.hold y.blk) j.stride) then pvStop t k j St.bounds
      else pvDec t k x j n y
    | 1 => afterDec t k x j fun z i p b => pvPack false 1 t k z i p b
    | _ =>
      let moved := match pvPicture t x with | some (_, b) => packSpan b j.stride | none => 0
      let e := stOf (x.gr 1)
      pvFinish t k j (worseOf j.code e) (if e = St.ok then moved else 0) j.pic j.flags

/-- A buffer of the channel's pool for the frame of an ENCODE: its handle stands in K0 (R184). -/
def pvAlloc (s : State) (k : Nat) (x : Ctx) (j : PvJob) (n : Nat) (y : Chan) (body : State → Ctx → Nat → Buf → State) : State :=
  match (freeBufs s n).head? with
  | none => pvStop (poolShort s n) k j St.pool
  | some p =>
    match newHandle s 2 x.hold p with
    | none => pvStop s k j St.pool
    | some (hnd, s1) =>
      let s2 := s1.modBuf p fun b => { b.fresh with handles := 1, hdr := blankHdr y.blk }
      match s2.buf p with
      | some b => body s2 (x.setK 0 hnd) p b
      | none => s

/-- PV_ENCODE (R493): PACK.IN of the frame, then ENC.PIC, then the end. -/
def execPvEncode (f c : Nat) (s : State) : Res :=
  pvStep 0x21 f c s fun t k x j => onChan t k x j fun n y =>
    let span := packSpan (pvFrame x.hold y.blk) j.stride
    match j.step with
    | 0 =>
      if pvFrameBad t x.hold j.ap span then pvStop t k j St.bounds
      else if !y.blk.enc || (packRows (pvFrame x.hold y.blk) j.stride).any (fun r => decide (r.2.1 < r.1)) then
        pvFault t k St.operand
      else if y.st == .failed then pvStop t k j St.unrecoverable
      else pvEngine 3 y.blk.live t k x (pvAlloc t k x j n y fun u z p b => pvPack true 0 u k z j p b)
    | 1 =>
      if stOf (x.gr 0) ≠ St.ok then pvStop t k j (stOf (x.gr 0))
      else
        match pvPicture t x with
        | some (p, _) => pvEnc t k x j n y p
        | none => pvStop t k j St.noPicture
    | _ =>
      let w := x.gr 1
      pvFinish t k j (stOf w) span (hiW w) (b2n (bit w 16) * 2 + b2n (stOf w = St.stubble) * 4)

/-- PV_XCODE (R493): DEC.PIC, then ENC.PIC of its picture on the transcode pair, then the end. -/
def execPvXcode (f c : Nat) (s : State) : Res :=
  pvStep 0x22 f c s fun t k x j => onChan t k x j fun n y =>
    match j.step with
    | 0 => if y.blk.dir = 2 then pvDec t k x j n y else pvFault t k St.operand
    | 1 => afterDec t k x j fun z i p _ => pvEnc t k z i n y p
    | _ =>
      let w := x.gr 1
      pvFinish t k j (worseOf j.code (stOf w)) 0 (hiW w) (j.flags % 2 + b2n (bit w 16) * 2 + b2n (stOf w = St.stubble) * 4)

/-! Interrupts (R495). -/

/-- The sources claimed for a PV_INT_STATUS bit are complete. -/
def pvComplete (s : State) (h b : Nat) : State :=
  if b = 0 then s.setSrc (pvCqNum s h) { s.src (pvCqNum s h) with act := false }
  else if 8 ≤ b && b < 24 then
    let n := 1024 + pvDevChan s h (b - 8)
    s.setSrc n { s.src n with act := false }
  else if b = 24 || b = 25 then s.modHd h fun x => { x with pvAct := x.pvAct &&& ~~~ (BitVec.ofNat 2 (2 ^ (b - 24))) }
  else s

/-- The bits of PV_INT_STATUS and PV_INT_MASK. -/
def pvIntBits : Word := 0x03FFFF03

/-- PV_INT_STATUS_CLEAR (R495). -/
def execPvIntStatusClear (h : Nat) (v : Word) (s : State) : Res :=
  if pvOn s h then
    let w := s.r0 h 0x10 &&& v &&& pvIntBits
    let s1 := s.w0 h 0x10 (s.r0 h 0x10 &&& ~~~ w)
    done s ((List.range 26).foldl (fun t b => if bit w b then pvComplete t h b else t) s1)
  else .next s

/-- PV_INT_MASK_WRITE (R495): a vector one of whose set bits the write unmasks sends its message. -/
def execPvIntMaskWrite (h : Nat) (v : Word) (s : State) : Res :=
  if pvOn s h then
    let free := s.r0 h 0x10 &&& s.r0 h 0x14 &&& ~~~ v
    let s1 := s.w0 h 0x14 (v &&& pvIntBits)
    .next ((List.range 4).foldl
      (fun t i => if (List.range 26).any fun b => bit free b && pvVecOf b = i then sendMsg t h i else t) s1)
  else .next s

/-- PV_INT_COAL_WRITE (R495): the coalescing registers of the CQ source. -/
def execPvIntCoalWrite (h : Nat) (v : Word) (s : State) : Res :=
  if pvOn s h then done s (s.setSrc (pvCqNum s h) (setCoal (s.src (pvCqNum s h)) v)) else .next s

/-- PV_PORT_ENABLE (R496): ING_PORT_CTRL.ENABLE and EGR_PORT_CTRL.TX_EN together, on a port assigned to the holding. -/
def execPvPortEnable (h p : Nat) (on : Bool) (s : State) : Res :=
  if pvOn s h && pvPortHold s p = some h then
    let s1 := (settlePort s p).put2 (A.egrPort p) 0 1 (b2n on)
    done s (if on then enablePort s1 p else disablePort s1 p)
  else .next s

end Sys2Proof.Machine
end

