-- ==== Sys2Proof/Machine/RegRead.lean ====
section
/-! DEFINITION. What a register reads as: the fields that the state holds elsewhere are put together here, and every other
register reads its bank (R4, R49). -/

namespace Sys2Proof.Machine

/-- A register word from (first bit, value) pairs. -/
def rword (l : List (Nat × Nat)) : Word := w32 (l.foldl (fun a p => a + p.2 * 2 ^ p.1) 0)

/-- STATE of a holding (R21): ABSENT 0, DORMANT 1, ACTIVE 2, RESETTING 3. -/
def holdCode (x : HSt) : Nat := match x with | .absent => 0 | .dormant => 1 | .active => 2 | .resetting => 3

/-- CLX of FN_PORT. -/
def clxCode (c : Clx) : Nat := match c with | .cl0 => 0 | .cl0s => 1 | .cl1 => 2 | .cl2 => 3

/-- The high word of a 64-bit value for offset 4, else its low word. -/
def halfW (o : Nat) (v : DWord) : Word := if o = 0 then loW v else hiW v

/-! BAR2 (R58). -/

/-- HLDT_QUOTA_CD of a holding. -/
def rdQuotaCd (x : Holding) : Word := rword [(0, x.qChan), (16, x.qDram)]
/-- HLDT_QUOTA_CELL. -/
def rdQuotaCell (x : Holding) : Word := rword [(0, x.qMax), (16, x.qMin)]
/-- HLDT_QUOTA_YOKE. -/
def rdQuotaYoke (s : State) (h : Nat) : Word := rword [(0, (s.hd h).qYoke), (16, granted s h)]
/-- HLDT_USE. -/
def rdUse (s : State) (h : Nat) : Word := rword [(0, chanCount s h), (16, cdiv (dramUsed s h) granule)]

/-- The entry of holding `h` in the holdings table (02). -/
def rdHldt (s : State) (h o : Nat) : Word :=
  let x := s.hd h
  match o with
  | 0x00 => rword [(0, b2n x.enable), (1, b2n x.pers), (2, holdCode x.st)]
  | 0x04 => rdQuotaCd x
  | 0x08 => rdQuotaCell x
  | 0x0C => rdQuotaYoke s h
  | 0x10 => rdUse s h
  | 0x14 => rword [(0, x.pvChans.headD 0), (8, x.pvChans.getLastD 0)]
  | 0x18 => w32 x.events.toNat
  | 0x1C => w32 x.pvPorts.toNat
  | _ => 0

/-- The first block: identity, administration, host ports, the holdings table (03, 02). -/
def rdDevice (s : State) (a : Nat) : Word :=
  if 0x1000 ≤ a && a < 0x1400 then rdHldt s ((a - 0x1000) / 0x20) (a % 0x20)
  else
    match a with
    | 0x00 => rword [(0, 0xA29600), (24, s.sys.baulkId), (26, b2n s.sys.pv16Default)]
    | 0x08 => loW s.sys.serial
    | 0x0C => hiW s.sys.serial
    | 0x10 => w32 (reserveFree s)
    | 0x104 => rword [(0, s.adm.owner.getD 0), (5, b2n s.adm.owner.isNone), (16, s.adm.refuse)]
    | 0x108 => w32 (dramAvail s)
    | _ =>
      if a = 0x204 || a = 0x214 then
        let x := s.hp ((a - 0x204) / 0x10)
        (s.r2 a &&& 0x60#32) ||| rword [(0, b2n x.up), (1, x.gen), (4, b2n x.single), (7, x.vfs)]
      else s.r2 a

/-- Yoke and power (18). -/
def rdYoke (s : State) (a : Nat) : Word :=
  match a with
  | 0x100004 => rword [(0, ledger s), (16, borrowed s)]
  | 0x100008 => rword [(0, Nat.min 63 s.yoke.reqs.length), (8, s.yoke.cal), (15, b2n !s.yoke.recalls.isEmpty),
      (16, s.yoke.fast.foldl (fun n f => n + 2 ^ f) 0)]
  | 0x100104 => rword [(0, s.yoke.pl), (4, deepestPl s), (12, (ltolMin s).getD 0xFFFFF)]
  | 0x100200 => loW s.tim.dtb
  | 0x100204 => hiW s.tim.dtb
  | _ => s.r2 a

/-- This device drives FAULT_N low (R435, R437, R454). -/
def driving (s : State) : Bool :=
  s.flt.safe || fld (s.r2 A.bootStatus) 0 4 = 7 || s.flt.status.any fun p => decide (fcThreshold s ≤ p.2)

/-- A word of a fault log entry (R441). -/
def rdLog (e : LogE) (o : Nat) : Word :=
  match o with
  | 0x00 => rword [(0, e.src), (6, e.sev), (9, e.scope), (11, e.hold), (16, e.chan), (24, 1)]
  | 0x04 => e.seq
  | 0x08 => loW e.time
  | 0x0C => hiW e.time
  | 0x10 => w32 e.info0
  | 0x14 => w32 (e.info0 / 2 ^ 32)
  | 0x18 => rword [(0, e.code), (16, e.info1)]
  | _ => 0

/-- The Fault Collector (19). -/
def rdFault (s : State) (a : Nat) : Word :=
  let bits := fun (i : Nat) => w32 (s.flt.status.foldl (fun n p => if p.1 / 32 = i then n + 2 ^ (p.1 % 32) else n) 0)
  if a < 0x200100 then
    let n := (a - 0x200000) / 4
    if fltReserved n then 0
    else rword [(0, sevOf s n), (3, b2n (sevFixed n)), (4, b2n (levelSrc n)), (5, b2n (s.flt.cause.contains n))]
  else if 0x201000 ≤ a && a < 0x205000 then
    match tget s.flt.log ((a - 0x201000) / 0x20) with
    | some e => rdLog e (a % 0x20)
    | none => 0
  else
    match a with
    | 0x200104 => bits 0
    | 0x200108 => bits 1
    | 0x20010C => rword [(0, b2n s.flt.safe), (1, b2n s.flt.self), (2, b2n !(driving s || s.flt.lineLow)),
        (3, b2n (driving s)), (4, maxL (s.flt.status.map (·.2)))]
    | 0x200114 => s.flt.ffLost
    | 0x200118 => rword [(8, s.flt.ff), (16, s.flt.roll)]
    | 0x20011C => s.flt.seq
    | _ => s.r2 a

/-- The counter and state bits of a source, as IGF_STATE and IG_STATE show them. -/
def rdSrcBits (x : Src) : List (Nat × Nat) := [(0, b2n x.pend), (1, b2n x.act), (2, b2n x.mask), (8, x.ev)]

/-- The Interrupt Gatherer's global registers (07). -/
def rdGatherer (s : State) (a : Nat) : Word :=
  let n := a % 0x2000 / 4
  let x := s.src n
  if 0x306000 ≤ a then s.r2 a
  else if 2047 ≤ n then 0
  else if srcReserved n then (if 0x304000 ≤ a then 0x101#32 else 0)
  else if a < 0x302000 then rword [(0, x.hold), (8, x.vec), (16, x.prio), (31, b2n x.en)]
  else if a < 0x304000 then rword (rdSrcBits x)
  else rword [(0, x.cnt), (8, x.time)]

/-- The Granary (15). -/
def rdGranary (s : State) (a : Nat) : Word :=
  let chip := (s.grn.cells.filter fun p => p.1 < 65536).length
  if 0x400100 ≤ a && a < 0x400180 then w32 (usedCells s ((a - 0x400100) / 4))
  else
    match a with
    | 0x400004 => w32 (65536 - chip)
    | 0x400008 => w32 (totalCells s - 65536 - (s.grn.cells.length - chip))
    | _ => s.r2 a

/-- The DRAM controller (17). PANIC reads 0: the queues of R392 are not modelled (log 13). -/
def rdDram (s : State) (a : Nat) : Word :=
  if a = 0x600100 then rword [(0, b2n s.drm.frozen), (1, b2n s.drm.retrain.isSome), (2, s.drm.lastCh)] else s.r2 a

/-- Network ingest (14). -/
def rdIngest (s : State) (a : Nat) : Word :=
  if 0x800100 ≤ a && a < 0x800200 then
    let p := (a - 0x800100) / 0x20
    if a % 0x20 = 0 then s.r2 a ||| rword [(3, b2n (pvPortHold s p).isSome)]
    else if a % 0x20 = 4 then s.r2 a ||| rword [(0, b2n (linkUp s p))]
    else s.r2 a
  else if 0x801300 ≤ a && a < 0x801400 then w32 (nodeWord s ((a - 0x801000) / 0x10) (a % 0x10 / 4))
  else if 0x804000 ≤ a && a < 0x814000 then meterNow s a
  else s.r2 a

/-- Egress (16); DEPTH and DELAY read 0 while more than 64 flows are bound (R383, log 43). -/
def rdEgress (s : State) (a : Nat) : Word :=
  let n := s.egr.flow.length
  if a = 0xA00900 then rword [(0, b2n (decide (n ≤ 64))), (16, n)]
  else if 0xA01000 ≤ a && a < 0xA03000 && (a % 0x20 = 8 || a % 0x20 = 0xC) && 64 < n then 0
  else s.r2 a

/-- Baulk (21). -/
def rdBaulk (s : State) (a : Nat) : Word :=
  if a = 0xC00004 || a = 0xC00014 || a = 0xC00024 then
    s.r2 a ||| rword [(0, b2n (tgetD s.baulk.port ((a - 0xC00004) / 0x10) {}).up)]
  else s.r2 a

/-- Boot and GPIO (20, 23). -/
def rdBoot (s : State) (a : Nat) : Word :=
  match a with
  | 0xD0000C => rword [(0, s.sys.fuseN), (7, b2n (decide (64 ≤ s.sys.fuseN))), (8, 128 - s.sys.repairUsed)]
  | 0xD00108 =>
    let out := if s.yoke.gpioOff then 0 else s.r2 A.gpioDir
    (s.r2 A.gpioOut &&& out) ||| (s.sys.gpioIn.setWidth 32 &&& ~~~ out)
  | _ => s.r2 a

/-- A Field's registers (09, 04). -/
def rdField (s : State) (a : Nat) : Word :=
  let f := (a - 0x1000000) / 0x200000
  let x := s.fs f
  let mine := s.job.ctx.filter fun p => p.1 / 32 == f
  let wait := fun (g : Wait → Bool) => (mine.filter fun p => g p.2.wait).length
  match a % 0x200000 with
  | 4 => rword [(0, x.fs), (3, b2n x.draining), (8, (s.vid.chan.filter fun p => p.2.home == f).length)]
  | 0x1004 => rword [(0, mine.length),
      (8, wait fun w => match w with | .base => true | .grant => true | .claim _ _ _ => true | _ => false),
      (16, wait fun w => match w with | .sem _ _ _ _ => true | .bar _ _ _ => true | .sleep _ => true | _ => false)]
  | _ => s.r2 a

/-- A register of BAR2 as it reads now (R58); an offset that no register occupies reads 0 (R49). -/
def read2 (s : State) (a : Nat) : Word :=
  if 0x2000000 ≤ a || a % 4 ≠ 0 then 0
  else if 0x1000000 ≤ a then rdField s a
  else
    match a / 0x100000 with
    | 0 => rdDevice s a
    | 1 => rdYoke s a
    | 2 => rdFault s a
    | 3 => rdGatherer s a
    | 4 => rdGranary s a
    | 6 => rdDram s a
    | 8 => rdIngest s a
    | 10 => rdEgress s a
    | 12 => rdBaulk s a
    | 13 => rdBoot s a
    | 14 => if a = A.stStatus then s.r2 a ||| rword [(0, b2n s.sys.stRun.isSome)] else s.r2 a
    | _ => s.r2 a

/-! BAR0 of a native function (R54). -/

/-- HLD_STATUS (R30). -/
def rdHldStatus (s : State) (h : Nat) : Word :=
  rword [(0, h), (5, holdCode (s.hd h).st), (7, b2n (decide (s.adm.owner = some h))),
    (8, b2n (s.adm.owner.isNone && (h = 0 || h = 16) && s.active h && s.native h))]

/-- CHN_STATE of a channel of the holding. -/
def rdChnState (s : State) (c : Nat) (x : Chan) : Word :=
  let st := match x.st with | .opened => 1 | .running => 2 | .sourceLost => 3 | .draining => 4 | .failed => 5
  rword [(0, st), (3, 1), (4, b2n x.blk.live), (5, x.blk.dir), (8, x.home), (12, Nat.max 1 x.blk.span),
    (16, (poolOf s c).length), (22, (freeBufs s c).length)]

/-- CHN_POOL of a channel. -/
def rdChnPool (s : State) (c : Nat) : Word :=
  rword [(0, countRep s c .short), (6, countRep s c .long), (12, countRep s c .outPending), (18, countRep s c .held),
    (24, ((poolOf s c).filter fun n => 0 < bufClaims s n).length)]

/-- Registers of the channel that CHN_SEL selects; all read 0 while OWN is 0. -/
def rdChannel (s : State) (h a : Nat) : Word :=
  match ownChan s h with
  | none => 0
  | some c =>
    match s.chan c with
    | none => 0
    | some x =>
      match a with
      | 0x208 => rdChnState s c x
      | 0x210 => x.counter
      | 0x214 => rdChnPool s c
      | _ => s.rch c a

/-- IGF_STATE, IGF_COAL and IGF_ROUTE of the source that IGF_SEL selects. -/
def rdIgf (s : State) (h a : Nat) : Word :=
  let n := fld (s.r0 h B.igfSel) 0 11
  let x := s.src n
  if !srcOwn s h n then 0
  else if a = 0x4414 then rword (rdSrcBits x ++ [(3, b2n x.en), (4, 1), (16, x.vec), (24, x.prio)])
  else if a = 0x4418 then rword [(0, x.cnt), (8, x.time)]
  else rword [(0, x.vec), (8, x.prio)]

/-- DMAR registers of ring `r`, which only its owner sees (R363). -/
def rdRing (s : State) (h r o : Nat) : Word :=
  if !ringMine s h r then 0
  else if o = 0xC then rword [(0, (s.ring r).head), (16, b2n (s.ring r).run)]
  else s.r0 32 (B.dmar r + o)

/-- A register of BAR0 of native function `h` as it reads now. -/
def read0 (s : State) (h a : Nat) : Word :=
  let x := s.hd h
  let p := s.hp (h / 16)
  if a % 4 ≠ 0 || 0x10000 ≤ a then 0
  else if (0x208 ≤ a && a < 0x260) || 0x8100 ≤ a then rdChannel s h a
  else if 0x600 ≤ a && a < 0x800 then rdRing s h ((a - 0x600) / 0x20) (a % 0x20)
  else if a = 0xC00 || a = 0xC04 then
    w32 (s.intr.held.foldl
      (fun n k => if k / 64 = h && k % 64 / 32 = (a - 0xC00) / 4 then n + 2 ^ (k % 32) else n) 0)
  else if 0x2000 ≤ a && a < 0x4000 then
    let k := qkey h ((a - 0x2000) / 8)
    if a % 8 = 0 then w32 (match tget s.job.sq k with | some q => q.pi | none => 0)
    else w32 (match tget s.job.cq k with | some q => q.ci | none => 0)
  else
    match a with
    | 0x00 => 0xA29600#32
    | 0x04 => rword [(0, h / 16), (1, p.gen), (4, b2n p.single), (5, clxCode p.clx)]
    | 0x20 => loW s.tim.dtb
    | 0x24 => hiW s.tim.dtb
    | 0x1000 => rdHldStatus s h
    | 0x1004 => rdQuotaCd x
    | 0x1008 => rdQuotaCell x
    | 0x100C => rdQuotaYoke s h
    | 0x1010 => rdUse s h
    | 0x1020 => rword [(16, x.result)]
    | 0x4414 => rdIgf s h a
    | 0x4418 => rdIgf s h a
    | 0x441C => rdIgf s h a
    | 0x4424 => if h = 0 || h = 16 then rword [(0, (s.vac h).vec), (6, b2n (s.vac h).pend), (7, b2n (s.vac h).act)] else 0
    | _ => s.r0 h a

/-! BAR0 of a PV16 function (R489). -/

/-- The device port that PV16 port `p` of holding `h` is, when it is assigned to it (R496). -/
def pvPortMine (s : State) (h p : Nat) : Bool := decide (pvPortHold s p = some h)

/-- Channel registers of PV16 channel `c`. -/
def rdPvChan (s : State) (h c o : Nat) : Word :=
  let x := s.chan (pvDevChan s h c)
  match o with
  | 0x48 =>
    let st := match x with
      | none => 0
      | some y => (match y.st with | .opened => 1 | .running => 2 | .draining => 2 | .sourceLost => 3 | .failed => 4)
    (s.r0 h (0x448 + c * 0x80) &&& 0xFF00#32) ||| w32 st
  | 0x4C => (match x with | some y => y.counter | none => 0)
  | _ => s.r0 h (0x400 + c * 0x80 + o)

/-- Port registers of PV16 port `p`. -/
def rdPvPort (s : State) (h p o : Nat) : Word :=
  let mine := pvPortMine s h p
  match o with
  | 0x00 => w32 (b2n (mine && portOn s p))
  | 0x04 => s.r0 h (0xC04 + p * 0x40) ||| w32 (b2n (mine && linkUp s p))
  | _ => s.r0 h (0xC00 + p * 0x40 + o)

/-- A register of BAR0 of PV16 function `h` as it reads now; offsets that R489 does not list read 0. -/
def readPv (s : State) (h a : Nat) : Word :=
  let x := s.pvq h
  let src := s.src (pvCqNum s h)
  if a % 4 ≠ 0 || 0x4000 ≤ a then 0
  else if 0x100 ≤ a && a < 0x300 then
    let q := (a - 0x100) / 0x20
    if a % 0x20 = 0xC then w32 (tgetD x.sqTail q 0)
    else if a % 0x20 = 0x10 then w32 (tgetD x.sqHead q 0)
    else s.r0 h a
  else if 0x400 ≤ a && a < 0xC00 then rdPvChan s h ((a - 0x400) / 0x80) (a % 0x80)
  else if 0xC00 ≤ a && a < 0xD00 then rdPvPort s h ((a - 0xC00) / 0x40) (a % 0x40)
  else
    match a with
    | 0x00 => 0x30016#32
    | 0x08 => rword [(0, b2n (decide ((s.hd h).st ≠ .resetting))), (1, b2n !x.hold.isEmpty),
        (2, (List.range 4).foldl (fun n p => n + b2n (pvPortMine s h p && linkUp s p) * 2 ^ p) 0)]
    | 0x18 => rword [(0, src.cnt), (8, src.time)]
    | 0x8C => w32 x.head
    | 0x90 => w32 x.tail
    | 0x3800 => w32 (s.intr.held.foldl (fun n k => if k / 64 = h then n + 2 ^ (k % 64 % 32) else n) 0)
    | 0x3FFC => 0x5AA29600#32
    | _ => s.r0 h a

end Sys2Proof.Machine
end

