-- ==== Sys2Proof/Machine/SelfTest.lean ====
section
/-! DEFINITION. Self-tests on command and their ends (R467 to R473), and unassigned opcodes (R75, R461). -/

namespace Sys2Proof.Machine

/-- A due Field self-test runs or waits (R427, R471). -/
def dueFieldTest (s : State) : Bool :=
  (List.range 8).any fun f => s.yoke.fallow.contains (160 + f) && ((s.fs f).test = 1 || (s.fs f).test = 2)

/-- ST_CMD is ignored and counted in ST_STATUS.REFUSED (R471). -/
def stRefuse (s : State) : State := s.put2 A.stStatus 8 8 (Nat.min 255 (fld (s.r2 A.stStatus) 8 8 + 1))

/-- A write of ST_CMD by function `w` that starts a test: TEST, TARGET and the effect, unless a test runs (R471). -/
def stStart (w test target : Nat) (s : State) (g : State → State) : Res :=
  done s (adminWrite s w fun t =>
    if t.sys.stRun.isSome || dueFieldTest t then stRefuse t
    else g ((t.put2 A.stCmd 0 3 test).put2 A.stCmd 8 5 target))

/-- A test runs from now on. -/
def stBegin (s : State) (test target : Nat) : State := { s with sys := { s.sys with stRun := some (test, target) } }

/-- A Field self-test that is not due gives way (R427). -/
def yieldTests (s : State) : State :=
  (List.range 8).foldl
    (fun t f =>
      if t.yoke.fallow.contains (160 + f) then
        let t1 := releaseGrant (t.modFs f fun x => { x with test := 0 }) (256 + f)
        t1.setYoke { t1.yoke with fallow := remNat t1.yoke.fallow (160 + f),
                                  reqs := t1.yoke.reqs.filter fun q => q.key ≠ 256 + f }
      else t) s

/-- SELFTEST_FIELD: a Field test on command is a due fallow task (R427, R471). -/
def execSelftestField (w f : Nat) (s : State) : Res :=
  stStart w 0 f s fun t =>
    if 8 ≤ f then t
    else
      let t1 := stBegin (yieldTests t) 0 f
      askGrant ((t1.setYoke { t1.yoke with fallow := insNat t1.yoke.fallow (160 + f) }).modFs f fun x => { x with test := 1 })
        { key := 256 + f, field := f, hold := 32, cls := 7, live := false, fallow := 1 }

/-- The port of a lane is enabled: lanes 0 to 7 network, 8 to 19 Baulk (R314, R471, R474). -/
def lanePortOn (s : State) (l : Nat) : Bool :=
  if l < 8 then portOn s (if quadMode s l = 3 then l / 4 * 4 else l) else bit (s.r2 (A.bkPortCtrl ((l - 8) / 4))) 0

/-- A SerDes test is refused with result BUSY while its port is enabled (R471). -/
def laneTest (s : State) (l : Nat) (g : State → State) : State :=
  if 20 ≤ l then s
  else if lanePortOn s l then testEnd s { unit := 8 + l, res := 5, detail := 0, dur := 0 }
  else g s

/-- SELFTEST_SERDES_NEAR: near-end loopback of lane `l`. -/
def execSelftestSerdesNear (w l : Nat) (s : State) : Res :=
  stStart w 1 l s fun t => laneTest t l fun u => stBegin u 1 l

/-- SELFTEST_SERDES_FAR: far-end loopback of lane `l` starts, and lasts until it is stopped (R468). -/
def execSelftestSerdesFar (w l : Nat) (s : State) : Res :=
  stStart w 2 l s fun t => laneTest t l fun u => { u with sys := { u.sys with farLoop := insNat u.sys.farLoop l } }

/-- SELFTEST_SERDES_FAR_STOP: TEST 2 with START 0. -/
def execSelftestSerdesFarStop (w l : Nat) (s : State) : Res :=
  stStart w 2 l s fun t => { t with sys := { t.sys with farLoop := remNat t.sys.farLoop l } }

/-- SELFTEST_PLL. -/
def execSelftestPll (w : Nat) (s : State) : Res := stStart w 3 0 s fun t => stBegin t 3 0

/-- SELFTEST_TEMP. -/
def execSelftestTemp (w : Nat) (s : State) : Res := stStart w 4 0 s fun t => stBegin t 4 0

/-- SELFTEST_REPAIR_BURN (R470). -/
def execSelftestRepairBurn (w : Nat) (s : State) : Res := stStart w 7 0 s fun t => stBegin t 7 0

/-- The commanded test has ended. -/
def stEnd (s : State) (test : Nat) : State :=
  match s.sys.stRun with
  | some (k, _) => if k = test then { s with sys := { s.sys with stRun := none } } else s
  | none => s

/-- A Field self-test ends (R427, R469, R473): its charge goes, a failed Field is disabled, SELFTEST_DONE sets last. -/
def fieldTestEnd (s : State) (f : Nat) (r : TestRes) : State :=
  let s1 := testEnd (stEnd s 0) r
  let s2 := releaseGrant (s1.modFs f fun x => { x with test := 0 }) (256 + f)
  let s3 := s2.setYoke { s2.yoke with fallow := remNat s2.yoke.fallow (160 + f) }
  let s4 := if r.res = 3 then (s3.put2 (A.fld f) 0 1 0).modFs f fun x => { x with draining := true } else s3
  devEvent s4 (A.fldEvent f) 1 (1335 + f)

/-- The soft repairs are blown into repair fuse entries (R470). -/
def burnRepairs (s : State) : State :=
  { s with sys := { s.sys with repairUsed := s.sys.repairUsed + s.sys.softRepairs, softRepairs := 0 } }

/-- The repair burn ends (R470): NOT_VALID as the limits of R467 say, FUSE_FULL when the entries do not suffice; otherwise
the soft repairs are in fuses. -/
def burnEnd (s : State) (r : TestRes) : State :=
  let s1 := stEnd s 7
  if r.res = 4 then testEnd s1 r
  else if 128 < s1.sys.repairUsed + s1.sys.softRepairs then testEnd s1 { r with res := 6 }
  else testEnd (burnRepairs s1) { r with res := 1 }

/-- SELFTEST_DONE: a test ends with result `r`, having allocated `reps` spares (R467 to R473): a commanded test, a Field's
fallow test, the PLL check or the telemetry's sensor check. -/
def execSelftestDone (r : TestRes) (reps : Nat) (s : State) : Res :=
  let s0 := if r.res = 2 then { s with sys := { s.sys with softRepairs := s.sys.softRepairs + reps } } else s
  let drop := fun (t : State) k => t.setYoke { t.yoke with fallow := t.yoke.fallow.filter fun x => x / 32 ≠ k }
  if r.res = 0 || 4 < r.res then .next s
  else if r.unit < 8 then
    (if s.yoke.fallow.contains (160 + r.unit) && 2 ≤ (s.fs r.unit).test then done s (fieldTestEnd s0 r.unit r) else .next s)
  else if r.unit < 28 then
    (if s.sys.stRun = some (1, r.unit - 8) then done s (testEnd (stEnd s0 1) r) else .next s)
  else if r.unit = 28 then
    (if s.sys.stRun = some (3, 0) || s.yoke.fallow.any (fun x => x / 32 == 3) then done s (testEnd (drop (stEnd s0 3) 3) r)
     else .next s)
  else if r.unit = 29 then
    (if s.sys.stRun = some (4, 0) || s.yoke.fallow.any (fun x => x / 32 == 4) then done s (testEnd (drop (stEnd s0 4) 4) r)
     else .next s)
  else if r.unit = 32 && s.sys.stRun = some (7, 0) then done s (burnEnd s r)
  else .next s

/-- UNASSIGNED_OPCODE: context `c` of Field `f` issues a word that R75 does not assign, or not in that form; the job faults.
An opcode that a bundle has assigned runs a routine that the spec does not give (R461). -/
def execUnassignedOpcode (f c : Nat) (s : State) : Res :=
  let k := ckey f c
  match s.ctx k with
  | none => .next s
  | some x =>
    match nextIns x with
    | none => .next s
    | some i =>
      if formGood x i || !drillRuns s f || !ready s k x i || !picked s k x then .next s
      else if (formOf i).isNone && i.op < 0xF0 && thas s.sys.dispatch i.op then .refused (.patchRoutine i.op)
      else done s (faultJob (countIssue s k) k St.illegal)

end Sys2Proof.Machine
end

