-- ==== Sys2Proof/Machine/RegWrite.lean ====
section
/-! DEFINITION. A dword written to an address (R4, R49, R52, R57): a register with a row of its own takes that row's effect,
every other one the effect of its access code. -/

namespace Sys2Proof.Machine

/-- A write that an access table describes (R4); nothing at an offset of no row. -/
def rowWrite2 (s : State) (a : Nat) (v : Word) : State :=
  match findRow rows2 a with
  | some r => s.w2 a (regWritten r (s.r2 a) v)
  | none => s

/-- A change of a holding's own register by `done`. -/
def admin2 (w : Nat) (s : State) (g : State → State) : Res := done s (adminWrite s w g)

/-- One outcome after another. -/
def thenDo (r : Res) (f : State → Res) : Res :=
  match r with
  | .next t => f t
  | x => x

/-! 64-bit registers (R55 to R57). -/

/-- The key of a pair for the latch and the held word. -/
def pairKey (bar a : Nat) : Nat := 0x4000000 * bar + a

/-- The offset is the _LO of a read-write pair. -/
def rwPair (s : State) (h bar a : Nat) : Bool :=
  if bar = 2 then a = 0x100208 || (0xA00000 ≤ a && a < 0xA00100 && a % 0x20 = 8)
  else if (s.hd h).pv then a = 0x80 || (0x100 ≤ a && a < 0x300 && a % 0x20 = 0) || (0x400 ≤ a && a < 0xC00 && a % 0x80 = 0x40)
  else a = 0x100 || a = 0x108 || (0x400 ≤ a && a < 0x600 && a % 0x10 = 0) || (0x600 ≤ a && a < 0x800 && a % 0x20 = 0)

/-- The offset is the _LO of a read-only pair. -/
def roPair (s : State) (h bar a : Nat) : Bool :=
  if bar = 2 then
    a = 0x8 || a = 0x100200 || a = 0x600110 || a = 0x200120 ||
      (0x800100 ≤ a && a < 0x800200 && (a % 0x20 = 8 || a % 0x20 = 0x10)) ||
      (0xA01000 ≤ a && a < 0xA03000 && a % 0x20 = 0) ||
      (0x1000000 ≤ a && a < 0x2000000 && [0x10, 0x18, 0x20, 0x28, 0x30, 0x1008].contains (a % 0x200000))
  else if (s.hd h).pv then 0xC00 ≤ a && a < 0xD00 && (a % 0x40 = 8 || a % 0x40 = 0x10)
  else [0x20, 0x248, 0x8000, 0x8008, 0x8110, 0x8118, 0x8120, 0x8128].contains a

/-- The offset is the _LO of a 64-bit register. -/
def isPair (s : State) (h bar a : Nat) : Bool := rwPair s h bar a || roPair s h bar a

/-- A dword of BAR0 or BAR2 as it reads now. -/
def readReg (s : State) (h bar a : Nat) : Word :=
  if bar = 2 then read2 s a else if (s.hd h).pv then readPv s h a else read0 s h a

/-- The new value of a read-write pair of BAR0, with the conditions under which its owner takes it. -/
def commitPair0 (s : State) (h a : Nat) (v : DWord) : State :=
  if (s.hd h).pv then
    if a = 0x80 then (if bit (s.r0 h 4) 0 then s else s.wq0 h a (v &&& ~~~ 0xFF#64))
    else if a < 0x300 then (if bit (pvSqCtl s h ((a - 0x100) / 0x20)) 15 then s else s.wq0 h a (v &&& ~~~ 0xFF#64))
    else s.wq0 h a (v &&& 0xFFFFFFFFFFFF#64)
  else if a < 0x400 then (if fld (s.r0 h B.admqCtrl) 0 2 = 2 then s.wq0 h a (v &&& ~~~ 0xFF#64) else s)
  else if a < 0x600 then
    if bit (rxCtrl s h ((a - 0x400) / 0x10)) 0 || !rxMine s h ((a - 0x400) / 0x10) then s else s.wq0 h a (v &&& ~~~ 0xFFF#64)
  else
    let r := (a - 0x600) / 0x20
    if ringMine s h r && !bit (ringCtrl s r) 0 then s.wq0 32 a (v &&& ~~~ 0xFF#64) else s

/-- A read-write pair takes a new value in one update (R56, R57). -/
def commitPair (h bar a : Nat) (v : DWord) (s : State) : Res :=
  if bar ≠ 2 then .next (commitPair0 s h a v)
  else if a = 0x100208 then execDtbSetWrite h v s
  else admin2 h s fun t => t.wq2 a (v &&& 0xFFFFFFFFFFFF#64)

/-- Hold a low word (R57). -/
def holdLow (s : State) (h bar a : Nat) (v : Word) : State :=
  s.modHd h fun x => { x with lowHeld := tset x.lowHeld (pairKey bar a) v }

/-- Drop a held low word. -/
def dropLow (s : State) (h bar a : Nat) : State := s.modHd h fun x => { x with lowHeld := tdel x.lowHeld (pairKey bar a) }

/-- The function reaches the registers of a BAR: its BAR0, and with the role BAR2 (R52). -/
def reaches (s : State) (h bar : Nat) : Bool :=
  barOn s h && (bar = 0 || (bar = 2 && s.adm.owner = some h))

/-- A write of the _HI of a read-write pair whose _LO is at `a` (R57). -/
def writeHi (h bar a : Nat) (v : Word) (s : State) : Res :=
  if !reaches s h bar then .next (if bar = 2 then adminWrite s h id else s)
  else
    let lo := (tget (s.hd h).lowHeld (pairKey bar a)).getD (readReg s h bar a)
    commitPair h bar a (joinW v lo) (dropLow s h bar a)

/-- A write of the _LO of a read-write pair (R57). -/
def writeLo (h bar a : Nat) (v : Word) (s : State) : Res :=
  .next (if reaches s h bar then holdLow s h bar a v else if bar = 2 then adminWrite s h id else s)

/-! BAR2. -/

/-- An entry of the holdings table. -/
def writeHldt (w e o : Nat) (v : Word) (s : State) : Res :=
  match o with
  | 0x00 => if bit v 0 then execHoldingEnable w e (bit v 1) s else execHoldingDisable w e (bit v 1) s
  | 0x04 => execQuotaWrite w e 1 v s
  | 0x08 => execQuotaWrite w e 2 v s
  | 0x0C => execQuotaWrite w e 3 v s
  | 0x18 => admin2 w s fun t => t.modHd e fun x => { x with events := x.events &&& ~~~ (v.setWidth 5) }
  | 0x1C => execPv16PortsWrite w e v s
  | _ => admin2 w s id

/-- Yoke and power. -/
def writeYoke (w a : Nat) (v : Word) (s : State) : Res :=
  match a with
  | 0x100000 => execYokeCeilingWrite w v s
  | 0x100100 => execEnvelopeChange w v s
  | 0x100210 => admin2 w s fun t => if follows t then t else t.w2 a v
  | 0x100214 => execDtbStepWrite w v s
  | _ => admin2 w s fun t => rowWrite2 t a v

/-- The Fault Collector. -/
def writeFault (w a : Nat) (v : Word) (s : State) : Res :=
  if a < 0x200100 then execFcSevWrite w ((a - 0x200000) / 4) v s
  else
    match a with
    | 0x200100 => admin2 w s fun t =>
        let t1 := t.put2 A.fcCtrl 0 3 (fld v 0 3)
        if bit v 8 then resume t1 else t1
    | 0x200104 => execFcStatusClear w 0 v s
    | 0x200108 => execFcStatusClear w 1 v s
    | 0x200114 => admin2 w s fun t => if bit v 31 then t.setFlt { t.flt with ffLost := 0 } else t
    | 0x200118 => admin2 w s fun t => if bit v 0 then ffClear t else t
    | _ => admin2 w s fun t => rowWrite2 t a v

/-- The Interrupt Gatherer's global registers. -/
def writeGatherer (w a : Nat) (v : Word) (s : State) : Res :=
  let n := a % 0x2000 / 4
  if a < 0x302000 then execIgTargetWrite w n v s
  else if a < 0x304000 then admin2 w s id
  else if a < 0x306000 then admin2 w s fun t => if srcReserved n || 2047 ≤ n then t else t.setSrc n (setCoal (t.src n) v)
  else admin2 w s fun t => rowWrite2 t a v

/-- ING_PORT_CTRL: FEC and OWNER, then ENABLE as NET_PORT_ENABLE and NET_PORT_DISABLE do (R314, R318). -/
def writePortCtrl (s : State) (p : Nat) (v : Word) : State :=
  let s1 := rowWrite2 s (A.ingPortCtrl p) v
  if bit v 0 then enablePort s1 p else disablePort s1 p

/-- ING_PAUSE: each port whose bit is 1 is paused, and a pause whose bit is 0 ends (R334). -/
def writePause (s : State) (v : Word) : State :=
  (List.range 8).foldl (fun t p => if bit v p then t.put2 A.ingPause p 1 1 else endPause t p) s

/-- Network ingest. -/
def writeIngest (w a : Nat) (v : Word) (s : State) : Res :=
  if a = 0x800000 || a = 0x800004 then execIngQuadModeWrite w ((a - 0x800000) / 4) v s
  else if 0x800100 ≤ a && a < 0x800200 && a % 0x20 = 0 then
    admin2 w s fun t => writePortCtrl t ((a - 0x800100) / 0x20) v
  else if a = 0x800200 then admin2 w s fun t => writePause t v
  else if a = 0x803000 then
    match fld v 0 2 with
    | 0 => execIngTblRead w v s
    | 1 => execIngTblInsert w v s
    | 2 => execIngTblDelete w v s
    | _ => admin2 w s id
  else if 0x804000 ≤ a && a < 0x814000 && a % 16 = 12 then execMeterCommit w ((a - 0x804000) / 16) v s
  else if a = 0x800204 || (0x801000 ≤ a && a < 0x803000) || 0x804000 ≤ a then execIngTableWrite w a v s
  else admin2 w s fun t => rowWrite2 t a v

/-- A service's registers: its buckets are settled first; PORT and HOLDING stay while flows are bound (R370). -/
def writeSvc (s : State) (a : Nat) (v : Word) : State :=
  let k := (a - 0xA00100) / 0x20
  let s1 := settleSvc s k
  let s2 := rowWrite2 s1 a v
  if a % 0x20 = 0 && s.egr.flow.any (fun p => p.2.svc == k) then
    (s2.put2 a 1 3 (fld (s.r2 a) 1 3)).put2 a 16 5 (fld (s.r2 a) 16 5)
  else s2

/-- Egress. -/
def writeEgress (w a : Nat) (v : Word) (s : State) : Res :=
  if a < 0xA00100 then admin2 w s fun t => rowWrite2 (settlePort t ((a - 0xA00000) / 0x20)) a v
  else if a < 0xA00900 then admin2 w s fun t => writeSvc t a v
  else if a = 0xA00908 then execEgrObsClr w v s
  else admin2 w s fun t => rowWrite2 t a v

/-- Baulk. -/
def writeBaulk (w a : Nat) (v : Word) (s : State) : Res :=
  if a < 0xC00030 && a % 0x10 = 0 then
    let p := (a - 0xC00000) / 0x10
    if bit v 0 then execBaulkPortEnable w p s else admin2 w s fun t => bkDisable t p
  else if 0xC01000 ≤ a && a < 0xC01400 then execBaulkExportWrite w (a - 0xC01000) v s
  else if 0xC02000 ≤ a && a < 0xC02400 then execBaulkImportWrite w (a - 0xC02000) v s
  else
    match a with
    | 0xC00100 => admin2 w s fun t => poolCtrl t v
    | 0xC00104 => execPoolWantWrite w v s
    | 0xC00200 => admin2 w s fun t => syncCtrl t v
    | _ => admin2 w s fun t => rowWrite2 t a v

/-- ST_CMD (R471): a command starts with START, and far-end loopback stops without it; a write that is no command sets TEST
and TARGET, and a TEST that is none of R467's is ignored. -/
def writeStCmd (w : Nat) (v : Word) (s : State) : Res :=
  let target := fld v 8 5
  if bit v 31 then
    match fld v 0 3 with
    | 0 => execSelftestField w target s
    | 1 => execSelftestSerdesNear w target s
    | 2 => execSelftestSerdesFar w target s
    | 3 => execSelftestPll w s
    | 4 => execSelftestTemp w s
    | 7 => execSelftestRepairBurn w s
    | _ => admin2 w s id
  else if fld v 0 3 = 2 then execSelftestSerdesFarStop w target s
  else if fld v 0 3 = 5 || fld v 0 3 = 6 then admin2 w s id
  else admin2 w s fun t => rowWrite2 t 0xE00000 v

/-- A dword written to BAR2 by function `w` (R52, R58). -/
def write2 (w a : Nat) (v : Word) (s : State) : Res :=
  if 0x2000000 ≤ a || a % 4 ≠ 0 then admin2 w s id
  else if rwPair s w 2 a then writeLo w 2 a v s
  else if rwPair s w 2 (a - 4) then writeHi w 2 (a - 4) v s
  else if 0x1000000 ≤ a then
    let f := (a - 0x1000000) / 0x200000
    if a % 0x200000 = 0 then (if bit v 0 then execFieldEnable w f s else execFieldDisable w f s)
    else admin2 w s fun t => rowWrite2 t a v
  else
    match a / 0x100000 with
    | 0 =>
      if 0x1000 ≤ a && a < 0x1400 then writeHldt w ((a - 0x1000) / 0x20) (a % 0x20) v s
      else if (a = 0x200 || a = 0x210) && bit v 3 then
        admin2 w s fun t => retrain (rowWrite2 t a v) ((a - 0x200) / 0x10)
      else admin2 w s fun t => rowWrite2 t a v
    | 1 => writeYoke w a v s
    | 2 => writeFault w a v s
    | 3 => writeGatherer w a v s
    | 4 => if a = 0x400000 then execGrnSpillWrite w v s else admin2 w s fun t => rowWrite2 t a v
    | 5 => if a < 0x500040 then execDmaRingOwnerWrite w ((a - 0x500000) / 4) v s else admin2 w s id
    | 6 => if a = 0x600118 && bit v 0 then execDrcDiagRelease w s else admin2 w s fun t => rowWrite2 t a v
    | 8 => writeIngest w a v s
    | 10 => writeEgress w a v s
    | 12 => writeBaulk w a v s
    | 14 => if a = 0xE00000 then writeStCmd w v s else admin2 w s fun t => rowWrite2 t a v
    | _ => admin2 w s fun t => rowWrite2 t a v

/-! BAR0 of a native function. -/

/-- HLD_ADM_CTRL: its bits act in ascending order. -/
def writeAdmCtrl (h : Nat) (v : Word) (s : State) : Res :=
  thenDo (if bit v 0 then execHeartbeat h s else .next s) fun t =>
    thenDo (if bit v 1 then execPromote h t else .next t) fun u => if bit v 2 then execHandover h u else .next u

/-- RXR_CTRL: sizes only while ENABLE is 0, then NOTIFY and CQID, then ENABLE (R358). -/
def writeRxCtrl (s : State) (h i : Nat) (v : Word) : State :=
  let a := B.rxr i + 8
  let s1 := if bit (rxCtrl s h i) 0 then s else s.put0 h a 1 8 (fld v 1 8)
  let s2 := (s1.put0 h a 9 1 (fld v 9 1)).put0 h a 16 10 (fld v 16 10)
  if bit v 0 then rxEnable s2 h i else s2.put0 h a 0 1 0

/-- DMAR_CTRL: LOG2 only while ENABLE is 0, then PRIO and CQID, then ENABLE (R366, R367). -/
def writeDmarCtrl (s : State) (h r : Nat) (v : Word) : State :=
  let a := B.dmar r + 8
  let s1 := if bit (ringCtrl s r) 0 then s else s.put0 32 a 1 4 (fld v 1 4)
  let s2 := (s1.put0 32 a 5 2 (fld v 5 2)).put0 32 a 16 10 (fld v 16 10)
  if bit v 0 then ringEnable s2 h r else ringDisable s2 r

/-- A register of an access table of BAR0. -/
def rowWrite0 (s : State) (h a : Nat) (v : Word) : State :=
  match findRow rows0 a with
  | some r => s.w0 h a (regWritten r (s.r0 h a) v)
  | none => s

/-- A register of the channel that CHN_SEL selects; ignored while OWN is 0. -/
def rowWriteC (s : State) (h a : Nat) (v : Word) : State :=
  match ownChan s h, findRow rowsC a with
  | some c, some r => s.wch c a (regWritten r (s.rch c a) v)
  | _, _ => s

/-- The Interrupt Gatherer's function registers. -/
def writeIgf (h a : Nat) (v : Word) (s : State) : Res :=
  if a < 0x4200 then (if a % 8 = 4 then execIgfComplete h ((a - 0x4000) / 8) v s else .next s)
  else
    match a with
    | 0x4400 => execIgfMaskSet h v s
    | 0x4404 => execIgfMaskClr h v s
    | 0x4408 => execIgfPendSet h v s
    | 0x440C => execIgfPendClr h v s
    | 0x4418 => execIgfCoalWrite h v s
    | 0x441C => execIgfRouteWrite h v s
    | 0x4424 => if h = 0 || h = 16 then done s (s.setVac h { s.vac h with vec := fld v 0 6 }) else .next s
    | _ => .next (rowWrite0 s h a v)

/-- The descriptor rings' registers. -/
def writeRing (h a : Nat) (v : Word) (s : State) : Res :=
  let r := (a - 0x600) / 0x20
  if !ringMine s h r then .next s
  else if a % 0x20 = 8 then .next (writeDmarCtrl s h r v)
  else if a % 0x20 = 0x10 then execDmarPoke h r s
  else .next s

/-- The receive rings' registers. -/
def writeRx (h a : Nat) (v : Word) (s : State) : Res :=
  let i := (a - 0x400) / 0x10
  if a % 0x10 = 8 then .next (writeRxCtrl s h i v) else execRxrCiWrite h i v s

/-- Single registers of BAR0. -/
def writeOne0 (h a : Nat) (v : Word) (s : State) : Res :=
  match a with
  | 0x110 => if bit v 0 then execAdmqEnable h v s else execAdmqDisable h v s
  | 0x200 => .next (s.w0 h B.chnSel (v &&& 0xFF#32))
  | 0x204 => execChnByhandle h v s
  | 0x1020 => writeAdmCtrl h v s
  | 0x8108 => execChnLatClr h s
  | _ => .next (rowWrite0 s h a v)

/-- BAR0 at 0x208 and up: groups of registers. -/
def writeGroup0 (h a : Nat) (v : Word) (s : State) : Res :=
  if 0x208 ≤ a && a < 0x260 then .next (rowWriteC s h a v)
  else if 0x300 ≤ a && a < 0x400 then (if a % 8 = 0 then execEgfPiWrite h ((a - 0x300) / 8) v s else .next s)
  else if 0x400 ≤ a && a < 0x600 then writeRx h a v s
  else if 0x600 ≤ a && a < 0x800 then writeRing h a v s
  else if 0x800 ≤ a && a < 0xC00 then .next (releaseMsgs (rowWrite0 s h a v) h)
  else if 0x2000 ≤ a && a < 0x4000 then
    (if a % 8 = 0 then execSqDoorbell h ((a - 0x2000) / 8) v s else execCqDoorbell h ((a - 0x2000) / 8) v s)
  else if 0x4000 ≤ a && a < 0x5000 then writeIgf h a v s
  else writeOne0 h a v s

/-- A dword written to BAR0 by native function `h` (R54). -/
def write0 (h a : Nat) (v : Word) (s : State) : Res :=
  if !fnOn s h || a % 4 ≠ 0 || 0x10000 ≤ a then .next s
  else if rwPair s h 0 a then writeLo h 0 a v s
  else if rwPair s h 0 (a - 4) then writeHi h 0 (a - 4) v s
  else writeGroup0 h a v s

/-! BAR0 of a PV16 function (R489). -/

/-- The RW bits of a channel register of R489. -/
def pvChanBits (o : Nat) : Nat :=
  match o with
  | 0x00 => 0x7FF
  | 0x04 => 0x1FFF1FFF
  | 0x08 => 0xF
  | 0x0C => 0xFFFFFFFF
  | 0x10 => 0xFFFFFFFF
  | 0x14 => 0xFFFFFFFF
  | 0x18 => 0xFFFF
  | 0x1C => 0xFFFF
  | 0x20 => 0x1FFF0007
  | 0x24 => 0xFFFFFFFF
  | 0x28 => 0xFFFF
  | 0x30 => 0x1FFF0007
  | 0x34 => 0xFFFFFFFF
  | 0x38 => 0xFFFFFFFF
  | 0x3C => 0x1FFF
  | _ => 0

/-- A queue's control word: LOG2 stays while ENABLE is 1. -/
def writePvSqCtl (s : State) (h q : Nat) (v : Word) : State :=
  let a := 0x108 + q * 0x20
  let old := s.r0 h a
  s.w0 h a (w32 ((fld v 4 12) * 16 + (if bit old 15 then fld old 0 4 else fld v 0 4)))

/-- A port's registers. -/
def writePvPort (h p o : Nat) (v : Word) (s : State) : Res :=
  let a := 0xC00 + p * 0x40 + o
  match o with
  | 0x00 => execPvPortEnable h p (bit v 0) s
  | 0x04 => .next (s.w0 h a (s.r0 h a &&& ~~~ (v &&& 0x100#32)))
  | 0x18 => .next (if bit v 31 then s.w0 h a 0 else s)
  | _ => .next s

/-- A dword written to BAR0 by PV16 function `h`. -/
def writePv (h a : Nat) (v : Word) (s : State) : Res :=
  if !pvOn s h || a % 4 ≠ 0 || 0x4000 ≤ a then .next s
  else if rwPair s h 0 a then writeLo h 0 a v s
  else if rwPair s h 0 (a - 4) then writeHi h 0 (a - 4) v s
  else if 0x100 ≤ a && a < 0x300 then
    let q := (a - 0x100) / 0x20
    if a % 0x20 = 8 then .next (writePvSqCtl s h q v)
    else if a % 0x20 = 0xC then execPvSqTailWrite h q v s
    else .next s
  else if 0x400 ≤ a && a < 0xC00 then
    let m := pvChanBits (a % 0x80)
    .next (if m = 0 then s else s.w0 h a (v &&& w32 m))
  else if 0xC00 ≤ a && a < 0xD00 then writePvPort h ((a - 0xC00) / 0x40) (a % 0x40) v s
  else if 0x3000 ≤ a && a < 0x3040 then
    .next (releaseMsgs (s.w0 h a (if a % 0x10 = 0xC then v &&& 1#32 else v)) h)
  else
    match a with
    | 0x04 => thenDo (execPvRun h (bit v 0) s) fun t => if bit v 1 then execPvReset h t else .next t
    | 0x10 => execPvIntStatusClear h v s
    | 0x14 => execPvIntMaskWrite h v s
    | 0x18 => execPvIntCoalWrite h v s
    | 0x88 => .next (if bit (s.r0 h 4) 0 then s else s.w0 h a (v &&& 0xF#32))
    | 0x8C => execPvCqHeadWrite h v s
    | _ => .next s

/-! The picture-memory aperture, and every BAR. -/

/-- Bytes of the aperture of R489. -/
def apSize : Nat := 0x10000000

/-- A dword of the aperture: byte x is byte x of the holding's device memory (R489). A burst in poison and a granule that is
not mapped read 0 (log 53). -/
def apRead (s : State) (h a : Nat) : Word :=
  if pvOn s h && a + 4 ≤ apSize && devMapped s h a 4 then w32 (leNat (readDev s h a 4)) else 0

/-- A dword written through the aperture. -/
def apWrite (s : State) (h a : Nat) (v : Word) : State :=
  if pvOn s h && a + 4 ≤ apSize && devMapped s h a 4 then writeDev s h a (toLE 4 v.toNat) else s

/-- The boot window is open on this function: BAR0 answers at BW_CTRL and BW_STATUS only (R459). -/
def windowOn (s : State) (h : Nat) : Bool := h = 0 && s.sys.bwOpen && (s.hp 0).up

/-- A dword written to a BAR. -/
def writeDword (h bar a : Nat) (v : Word) (s : State) : Res :=
  if windowOn s h then .next (if bar = 0 && a = B.bwCtrl then s.w0 0 a (v &&& 0xFFFFFF#32) else s)
  else
    match bar with
    | 0 => if (s.hd h).pv then writePv h a v s else write0 h a v s
    | 1 => .next (apWrite s h a v)
    | 2 => write2 h a v s
    | _ => .next s

end Sys2Proof.Machine
end

