-- ==== Sys2Proof/Machine/RegAccess.lean ====
section
/-! DEFINITION. Register accesses of a function (R49, R52 to R57, R445). `bar` is 0, 1 (the aperture of R489) or 2, `off` the
offset in it. -/

namespace Sys2Proof.Machine

/-- What a read returns. -/
def gives (s : State) (v : DWord) : State := { s with readData := v }

/-- One dword read through a BAR that answers, with the latch of R55. -/
def readDword (h bar a : Nat) (s : State) : Res :=
  if bar = 1 then .next (gives s ((apRead s h a).setWidth 64))
  else if bar = 0 && s.native h && 0x4000 ≤ a && a < 0x4200 && a % 8 = 0 then execIgfClaim h ((a - 0x4000) / 8) s
  else if isPair s h bar a then
    let s1 := gives s ((readReg s h bar a).setWidth 64)
    .next (s1.modHd h fun x => { x with latch := tset x.latch (pairKey bar a) (readReg s h bar (a + 4)) })
  else if 4 ≤ a && isPair s h bar (a - 4) then
    .next (gives s (((tget (s.hd h).latch (pairKey bar (a - 4))).getD 0).setWidth 64))
  else .next (gives s ((readReg s h bar a).setWidth 64))

/-- A read while the boot window is open (R459): BW_CTRL, BW_STATUS, and the load buffer, of whose reads the spec says nothing
(log 45). -/
def windowRead (s : State) (bar a : Nat) : State :=
  if bar = 0 then
    gives s ((if a = B.bwCtrl then s.r0 0 a else if a = 0xF04 then s.r2 A.bootStatus else 0#32).setWidth 64)
  else if bar = 2 && a < 0x200000 then gives s.takeFree.2 s.takeFree.1
  else gives s 0

/-- An access that reaches no register: in the boot window; of a BAR that does not answer; of BAR2 without the role (R52). -/
def barred (s : State) (h bar : Nat) : Bool :=
  windowOn s h || !barOn s h || 2 < bar || (bar = 2 && s.adm.owner ≠ some h)

/-- What a barred read does. -/
def barredRead (s : State) (h bar a : Nat) : State :=
  if windowOn s h then windowRead s bar a
  else if barOn s h && bar = 2 && h % 16 = 0 then gives (adminWrite s h id) 0
  else s

/-- REG64_LO_READ: function `h` reads a dword; the read of a _LO latches its _HI (R55). -/
def execReg64LoRead (h bar off : Nat) (s : State) : Res :=
  if barred s h bar then .next (barredRead s h bar off) else readDword h bar off s

/-- An 8-byte read: both halves of a pair in one sample, else two dwords in ascending order (R53, R56). -/
def readQword (h bar a : Nat) (s : State) : Res :=
  if bar ≠ 1 && isPair s h bar a then .next (gives s (joinW (readReg s h bar (a + 4)) (readReg s h bar a)))
  else
    thenDo (readDword h bar a s) fun t =>
      thenDo (readDword h bar (a + 4) t) fun u => .next (gives u (joinW (loW u.readData) (loW t.readData)))

/-- An 8-byte write: a read-write pair in one update, which drops a held low word (log 52); a read-only pair nothing; else
two dwords in ascending order. -/
def writeQword (h bar a : Nat) (v : DWord) (s : State) : Res :=
  if bar ≠ 1 && rwPair s h bar a then commitPair h bar a v (dropLow s h bar a)
  else if bar ≠ 1 && roPair s h bar a then .next s
  else thenDo (writeDword h bar a (loW v) s) fun t => writeDword h bar (a + 4) (hiW v) t

/-- REG64_ATOMIC_ACCESS: function `h` reads, or with a value writes, 8 bytes (R56). -/
def execReg64AtomicAccess (h bar off : Nat) (wr : Option DWord) (s : State) : Res :=
  match wr with
  | none => if barred s h bar then .next (barredRead s h bar off) else readQword h bar off s
  | some v =>
    if windowOn s h then thenDo (writeDword h bar off (loW v) s) fun t => writeDword h bar (off + 4) (hiW v) t
    else if barred s h bar then .next (if bar = 2 then adminWrite s h id else s)
    else writeQword h bar off v s

/-- REG64_LO_WRITE: a 4-byte write to the _LO of a read-write pair is held (R57). -/
def execReg64LoWrite (h bar off : Nat) (v : Word) (s : State) : Res :=
  if rwPair s h bar off && bar ≠ 1 then writeLo h bar off v s else .next s

/-- REG64_HI_WRITE: a 4-byte write to the _HI of a read-write pair commits the pair (R57). -/
def execReg64HiWrite (h bar off : Nat) (v : Word) (s : State) : Res :=
  if 4 ≤ off && rwPair s h bar (off - 4) && bar ≠ 1 then writeHi h bar (off - 4) v s else .next s

/-- REGISTER_WRITE: function `h` writes a dword (R4). -/
def execRegisterWrite (h bar off : Nat) (v : Word) (s : State) : Res := writeDword h bar off v s

/-- The register at the offset is a counter register with SAT (R445). -/
def hasSat (s : State) (h bar a : Nat) : Bool :=
  let sat := fun (o : Option RegRow) => match o with | some r => r.w1c == satBit | none => false
  match bar with
  | 0 => if (s.hd h).pv then 0xC00 ≤ a && a < 0xD00 && a % 0x40 = 0x18 else sat (findRow rows0 a) || sat (findRow rowsC a)
  | 2 => sat (findRow rows2 a) || a = 0x200114
  | _ => false

/-- COUNTER_SAT_CLEAR: function `h` writes 1 to the SAT of a counter register (R445). -/
def execCounterSatClear (h bar off : Nat) (s : State) : Res :=
  if hasSat s h bar off then writeDword h bar off (w32 satBit) s else .next s

end Sys2Proof.Machine
end

