-- ==== Sys2Proof/Machine/Stats.lean ====
section
/-! DEFINITION. STATS (R112, R114, R305 to R313): the records of a channel's latest picture, written to memory. -/

namespace Sys2Proof.Machine

/-- STATS (R112, R117, R175, R306). -/
def execStats (f c : Nat) (s : State) : Res :=
  done s (issue 0x86 anyIns f c s fun t k x i =>
    if fld i.imm 5 27 ≠ 0 then faultJob t k St.illegal
    else
      match useHandle t x.hold [1] (x.hnd i.a) with
      | none => faultJob t k St.handle
      | some o =>
        let len := (extraWord x).toNat
        let a := x.gr i.b
        let at_ := match place t x.hold a len with | some (.remote _) => none | p => p
        if len < 32 then faultJob t k St.operand
        else if a.toNat % 16 ≠ 0 || at_.isNone then faultJob t k St.bounds
        else
          match t.chan o.ref with
          | none => faultJob t k St.handle
          | some y =>
            if y.st == .failed then endNow t k x i (statusWord St.unrecoverable 0)
            else
              startWork t k x i
                { ctx := k, hold := x.hold, d := i.d, engine := false, fcls := 1,
                  kind := .stats o.ref a (fld i.imm 0 5) len })

/-- An unavailable section (R305): its TYPE and record size, COUNT 0. -/
def noSecs (src : Option Nat) (bit_ : Nat) : List StatSec :=
  let mk := fun (t n : Nat) => ({ typ := t, size := n, cols := 0, rows := 0, recs := [] } : StatSec)
  match bit_ with
  | 0 => [match src with | some 0 => mk 2 8 | some 2 => mk 3 8 | _ => mk 1 16]
  | 1 => [mk 0x10 16]
  | 2 => [mk 0x20 16]
  | 3 => [mk 0x30 1040]
  | _ => [mk 0x40 32, mk 0x41 16]

/-- Sections written so far: bytes, the mask of IMM bits, records written, whether writing has stopped. -/
structure StatOut where
  /-- Bytes after the header. -/
  bytes : List Byte := []
  /-- WRITTEN. -/
  mask : Nat := 0
  /-- Records written. -/
  count : Nat := 0
  /-- A section has been cut short. -/
  stop : Bool := false
  deriving DecidableEq, Repr

/-- Write one section into a room of `room` bytes after the header (R306, R308). -/
def putSec (room : Nat) (o : StatOut) (bit_ : Nat) (x : StatSec) : StatOut :=
  let left := room - o.bytes.length
  if o.stop || left < 16 then { o with stop := true }
  else
    let n := Nat.min x.recs.length ((left - 16) / x.size)
    let body := (x.recs.take n).flatten
    let pad := Nat.min ((16 - body.length % 16) % 16) (left - 16 - body.length)
    let hdr := toLE 1 x.typ ++ toLE 1 0 ++ toLE 2 x.size ++ toLE 4 n ++ toLE 2 x.cols ++ toLE 2 x.rows ++ toLE 4 0
    { bytes := o.bytes ++ hdr ++ body ++ List.replicate pad 0, mask := o.mask ||| 2 ^ bit_, count := o.count + n,
      stop := decide (n < x.recs.length) }

/-- The sections that a selection asks for, in IMM bit order. -/
def statSel (y : Chan) (sel : Nat) : List (Nat × StatSec) :=
  ((List.range 5).filter fun b => sel.testBit b).flatMap fun b =>
    (match (if y.statSrc.isSome then tget y.statSec b else none) with
     | some l => l
     | none => noSecs y.statSrc b).map fun x => (b, x)

/-- What STATS writes for a selection and a length (R305 to R308), and TRUNC. -/
def statBytes (c : Nat) (y : Chan) (sel len : Nat) : List Byte × Bool :=
  let l := statSel y sel
  let o := l.foldl (fun o p => putSec (len - 32) o p.1 p.2) {}
  let total := l.foldl (fun n p => n + p.2.recs.length) 0
  let src := match y.statSrc with | some n => n | none => 0xFF
  (toLE 1 1 ++ toLE 1 o.mask ++ toLE 1 c ++ toLE 1 src ++ toLE 4 y.statCnt.toNat ++ toLE 8 y.statPts.toNat ++
     toLE 2 y.statW ++ toLE 2 y.statH ++ toLE 1 y.statType ++ toLE 1 y.statNref ++ toLE 2 0 ++
     toLE 4 (32 + o.bytes.length) ++ toLE 4 0 ++ o.bytes,
   decide (o.count < total))

/-- No video instruction that reached the channel before instruction `n` is unfinished (R305). -/
def earlierDone (s : State) (c n : Nat) : Bool :=
  s.job.work.all fun q => n ≤ q.1 ||
    !(workOn q.2 c || (match q.2.kind, (s.chan c).bind (·.grp) with
      | .encLadder g _ _, some (g', _) => g == g'
      | _, _ => false))

/-- STATS_COMPLETE (R114, R305, R306): the records go to device or host memory, and the status word has TRUNC and the bytes
written. -/
def execStatsComplete (n : Nat) (s : State) : Res :=
  match tget s.job.work n with
  | some w =>
    match w.kind with
    | .stats c a sel len =>
      if s.flt.safe || !earlierDone s c n then .next s
      else
        match s.chan c with
        | none => .next s
        | some y =>
          if y.st == .failed then done s (endWork s n (statusWord St.unrecoverable 0))
          else
            let (bs, tr) := statBytes c y sel len
            let st := statusWord St.ok (b2n tr + bs.length * 65536)
            (match place s w.hold a len with
             | some (.dev off) =>
               if devMapped s w.hold off bs.length then done s (endWork (writeDev s w.hold off bs) n st) else .next s
             | some (.host b) =>
               done s (endWork (((s.emit (.hostWrite w.hold b bs)).addq0 w.hold B.hcDma bs.length).modCtx w.ctx fun x =>
                 { x with ports := x.ports ||| 2 }) n st)
             | _ => .next s)
    | _ => .next s
  | none => .next s

end Sys2Proof.Machine
end

