-- ==== Sys2Proof/Machine/YokeInstr.lean ====
section
/-! DEFINITION. CLAIM, RELEASE, QUERY and the timeouts of grants (R90, R92, R116). -/

namespace Sys2Proof.Machine

/-- The smallest class that the job's outstanding engine work fits (R117). -/
def workClass (s : State) (k : Nat) : Nat :=
  s.job.work.foldl
    (fun n p =>
      if p.2.ctx = k && p.2.engine then
        Nat.max n (match p.2.kind with | .encPic .. | .encLadder .. | .analyze .. => 3 | _ => 2)
      else n) 0

/-- The engines of a set that a class keeps. -/
def keepEng (set c : Nat) : Nat :=
  let (ee, pe, se) := classEng c
  let pick := fun (base k n : Nat) =>
    (((List.range k).map (· + base)).filter fun e => set.testBit e).take n |>.foldl (fun m e => m ||| 2 ^ e) 0
  pick 0 6 pe ||| pick 6 2 se ||| pick 8 3 ee

/-- The grant of a context shrinks to a lower class: an engine it paid for and no longer holds passes to the oldest other
grant of the Field that holds it, and is released otherwise (R90, R91, R423). -/
def shrinkGrant (s : State) (k c : Nat) : State :=
  match s.yoke.grants.find? fun g => g.key == k with
  | none => s
  | some g =>
    let eng := keepEng g.eng c ||| (g.eng &&& 2 ^ 11)
    let g' := { g with eng := eng, paid := tfilter g.paid fun e _ => eng.testBit e }
    let gs := s.yoke.grants.map fun x => if x.key = k then g' else x
    let lost := tfilter g.paid fun e _ => !eng.testBit e
    s.setYoke { s.yoke with
      grants := lost.foldl
        (fun (l : List Grant) p =>
          match l.findIdx? fun x => x.field == g.field && x.key != k && x.eng.testBit p.1 with
          | some i => l.modify i fun x => { x with paid := tset x.paid p.1 p.2 }
          | none => l) gs }

/-- CLAIM (R90, R116): raising the class waits for the extra grant; lowering it waits until the outstanding work fits. -/
def execClaim (f c : Nat) (s : State) : Res :=
  .next (issue 0xE0 anyIns f c s fun t k x i =>
    let cls := fld i.imm 0 3
    let tmo := fld i.imm 8 8
    if fld i.imm 3 5 ≠ 0 || fld i.imm 16 16 ≠ 0 then faultJob t k St.illegal
    else if x.cls < cls then
      askGrant (t.setCtx k { x with wait := .claim cls (i.mod.testBit 0) (tmo ≠ 0) })
        { key := k, field := f, hold := x.hold, cls := cls, live := false, fallow := 0 }
    else if workClass t k ≤ cls then
      let y := { (x.status St.ok) with cls := cls, t := false }
      shrinkGrant (t.setCtx k (step1 y i)) k cls
    else s)

/-- A context takes its request for its class back. -/
def dropReq (s : State) (k : Nat) : State :=
  s.setYoke { s.yoke with reqs := s.yoke.reqs.filter fun q => q.key ≠ k }

/-- CLAIM_TIMEOUT (R104, R116): the class stays as it was. -/
def execClaimTimeout (f c : Nat) (s : State) : Res :=
  let k := ckey f c
  match s.ctx k with
  | none => .next s
  | some x =>
    match x.wait with
    | .claim _ e true => .next (syncTimeout (dropReq s k) k e)
    | _ => .next s

/-- RELEASE (R90, R116): once the engine work is done, the grant of the class returns. -/
def execRelease (f c : Nat) (s : State) : Res :=
  .next (issue 0xE1 anyIns f c s fun t k x i =>
    if engineWork t k then s
    else releaseGrant (t.setCtx k (step1 { x with granted := false } i)) k)

/-- Payload bytes of the data items that a FIFO holds (log 29). -/
def fifoBytes (f : Fifo) : Nat := (f.keep ++ f.items).foldl (fun n i => if i.gap then n else n + i.len) 0

/-- The value of a QUERY selector (R116): none is JOB_FAULT_OPERAND; an inner none is a handle refused. -/
def queryValue (s : State) (k : Nat) (x : Ctx) (i : Ins) : Option (Option DWord) :=
  let obj := fun (types : List Nat) (g : Nat → Option Nat) =>
    some (((useHandle s x.hold types (x.hnd i.a)).bind fun o => g o.ref).map w64)
  match i.imm.toNat with
  | 0x00 => some (some s.tim.dtb)
  | 0x01 => some (some (w64 (k / 32)))
  | 0x02 => some (some (if x.granted then w64 x.cls else 0xFF))
  | 0x10 => obj [1] fun c => (s.chan c).map fun y => y.counter.toNat
  | 0x11 => obj [1] fun c => some (fifoBytes (s.fifo (fin_ c)))
  | 0x12 => obj [1] fun c => some (fifoBytes (s.fifo (fout c)))
  | 0x13 => obj [1] fun c => (s.chan c).map fun y => sat32 y.gaps
  | 0x20 => obj [3] fun n => (s.buf n).map fun b => b.addr
  | 0x30 => obj [8] fun j => (tget s.job.sem j).map fun m => m.count
  | 0x40 => some (some (w64 ((s.hd x.hold).qMax * 256 - usedCells s x.hold)))
  | 0x41 => some (some (w64 (granted s x.hold)))
  | _ => none

/-- QUERY (R116): Gd ← the value selected. -/
def execQuery (f c : Nat) (s : State) : Res :=
  .next (issue 0xE2 anyIns f c s fun t k x i =>
    match queryValue t k x i with
    | none => faultJob t k St.operand
    | some none => faultJob t k St.handle
    | some (some v) => t.setCtx k (step1 (x.setG i.d v) i))

/-- YOKE_TIMEOUT (R92): the yoke timeout expires, and the waiting instruction never issues. -/
def execYokeTimeout (f c : Nat) (s : State) : Res :=
  let k := ckey f c
  match s.ctx k with
  | none => .next s
  | some x =>
    let waits := match x.wait with | .base | .grant | .claim .. => true | _ => false
    if waits && x.tmo ≠ 0 then
      let s1 := s.setYoke { s.yoke with reqs := s.yoke.reqs.filter fun q => q.key ≠ k && q.key ≠ k + 512 }
      .next (faultJob s1 k St.yoke)
    else .next s

end Sys2Proof.Machine
end

