-- ==== Sys2Proof/Machine/Dispatch.lean ====
section
/-! DEFINITION. Which meaning each command has. -/

namespace Sys2Proof.Machine

def exec (i : Instr) (s : State) : Host.Outcome State Fault Refusal :=
  match i with
  | .powerOnReset up => Sys2Proof.Machine.execPowerOnReset up s
  | .bootStart b => Sys2Proof.Machine.execBootStart b s
  | .sysrstN => Sys2Proof.Machine.execSysrstN s
  | .powerLoss => Sys2Proof.Machine.execPowerLoss s
  | .bootWindowGo w v item b => Sys2Proof.Machine.execBootWindowGo w v item b s
  | .mpWatchdog => Sys2Proof.Machine.execMpWatchdog s
  | .functionPresent h => Sys2Proof.Machine.execFunctionPresent h s
  | .sriovNumvfsWrite p n => Sys2Proof.Machine.execSriovNumvfsWrite p n s
  | .functionLevelReset h => Sys2Proof.Machine.execFunctionLevelReset h s
  | .d3hotToD0 h => Sys2Proof.Machine.execD3hotToD0 h s
  | .d0ToD3hot h => Sys2Proof.Machine.execD0ToD3hot h s
  | .teardownPictureCutoff h => Sys2Proof.Machine.execTeardownPictureCutoff h s
  | .teardownComplete h => Sys2Proof.Machine.execTeardownComplete h s
  | .holdingEnable w h pers => Sys2Proof.Machine.execHoldingEnable w h pers s
  | .holdingDisable w h pers => Sys2Proof.Machine.execHoldingDisable w h pers s
  | .quotaWrite w h reg v => Sys2Proof.Machine.execQuotaWrite w h reg v s
  | .heartbeat w => Sys2Proof.Machine.execHeartbeat w s
  | .promote w => Sys2Proof.Machine.execPromote w s
  | .handover w => Sys2Proof.Machine.execHandover w s
  | .admLeaseExpiry => Sys2Proof.Machine.execAdmLeaseExpiry s
  | .hostLinkTrain p gen single => Sys2Proof.Machine.execHostLinkTrain p gen single s
  | .hostLinkLoss p => Sys2Proof.Machine.execHostLinkLoss p s
  | .hostLinkRecover p => Sys2Proof.Machine.execHostLinkRecover p s
  | .clxEntryRequest p dest en idle => Sys2Proof.Machine.execClxEntryRequest p dest en idle s
  | .hostPortRetrain w p => Sys2Proof.Machine.execHostPortRetrain w p s
  | .pcieUnsupportedRequest h => Sys2Proof.Machine.execPcieUnsupportedRequest h s
  | .dmaReadTimeout r => Sys2Proof.Machine.execDmaReadTimeout r s
  | .dmaReadErrorCompletion r => Sys2Proof.Machine.execDmaReadErrorCompletion r s
  | .bar2DeniedAccess h wr => Sys2Proof.Machine.execBar2DeniedAccess h wr s
  | .partialDwordWrite h => Sys2Proof.Machine.execPartialDwordWrite h s
  | .reg64LoRead h bar off => Sys2Proof.Machine.execReg64LoRead h bar off s
  | .reg64AtomicAccess h bar off wr => Sys2Proof.Machine.execReg64AtomicAccess h bar off wr s
  | .reg64LoWrite h bar off v => Sys2Proof.Machine.execReg64LoWrite h bar off v s
  | .reg64HiWrite h bar off v => Sys2Proof.Machine.execReg64HiWrite h bar off v s
  | .registerWrite h bar off v => Sys2Proof.Machine.execRegisterWrite h bar off v s
  | .counterSatClear h bar off => Sys2Proof.Machine.execCounterSatClear h bar off s
  | .jobPlace h q => Sys2Proof.Machine.execJobPlace h q s
  | .issueStarvationOverride f c => Sys2Proof.Machine.execIssueStarvationOverride f c s
  | .programLineFetch f c line => Sys2Proof.Machine.execProgramLineFetch f c line s
  | .jobFinalCompletion f c => Sys2Proof.Machine.execJobFinalCompletion f c s
  | .jobFieldMove f c => Sys2Proof.Machine.execJobFieldMove f c s
  | .channelHomeMove c us => Sys2Proof.Machine.execChannelHomeMove c us s
  | .nop f c => Sys2Proof.Machine.execNop f c s
  | .br f c => Sys2Proof.Machine.execBr f c s
  | .call f c => Sys2Proof.Machine.execCall f c s
  | .ret f c => Sys2Proof.Machine.execRet f c s
  | .end_ f c => Sys2Proof.Machine.execEnd f c s
  | .sleep f c => Sys2Proof.Machine.execSleep f c s
  | .sleepWake f c => Sys2Proof.Machine.execSleepWake f c s
  | .add f c => Sys2Proof.Machine.execAdd f c s
  | .sub f c => Sys2Proof.Machine.execSub f c s
  | .mul f c => Sys2Proof.Machine.execMul f c s
  | .and f c => Sys2Proof.Machine.execAnd f c s
  | .or f c => Sys2Proof.Machine.execOr f c s
  | .xor f c => Sys2Proof.Machine.execXor f c s
  | .shl f c => Sys2Proof.Machine.execShl f c s
  | .shr f c => Sys2Proof.Machine.execShr f c s
  | .sar f c => Sys2Proof.Machine.execSar f c s
  | .cmp f c => Sys2Proof.Machine.execCmp f c s
  | .mov f c => Sys2Proof.Machine.execMov f c s
  | .movx f c => Sys2Proof.Machine.execMovx f c s
  | .ld f c => Sys2Proof.Machine.execLd f c s
  | .ldComplete n v => Sys2Proof.Machine.execLdComplete n v s
  | .st f c => Sys2Proof.Machine.execSt f c s
  | .fence f c => Sys2Proof.Machine.execFence f c s
  | .fenceComplete f c => Sys2Proof.Machine.execFenceComplete f c s
  | .barrier f c => Sys2Proof.Machine.execBarrier f c s
  | .barrierTimeout f c => Sys2Proof.Machine.execBarrierTimeout f c s
  | .signal f c => Sys2Proof.Machine.execSignal f c s
  | .wait f c => Sys2Proof.Machine.execWait f c s
  | .waitTimeout f c => Sys2Proof.Machine.execWaitTimeout f c s
  | .post f c => Sys2Proof.Machine.execPost f c s
  | .irq f c => Sys2Proof.Machine.execIrq f c s
  | .sopen f c => Sys2Proof.Machine.execSopen f c s
  | .sopenGroup f c => Sys2Proof.Machine.execSopenGroup f c s
  | .sopenMux f c => Sys2Proof.Machine.execSopenMux f c s
  | .sopenSem f c => Sys2Proof.Machine.execSopenSem f c s
  | .sopenBar f c => Sys2Proof.Machine.execSopenBar f c s
  | .sclose f c => Sys2Proof.Machine.execSclose f c s
  | .channelDrainComplete c => Sys2Proof.Machine.execChannelDrainComplete c s
  | .sparam f c => Sys2Proof.Machine.execSparam f c s
  | .sparamGet f c => Sys2Proof.Machine.execSparamGet f c s
  | .sparamHome f c => Sys2Proof.Machine.execSparamHome f c s
  | .sparamBitrate f c => Sys2Proof.Machine.execSparamBitrate f c s
  | .sparamForceIdr f c => Sys2Proof.Machine.execSparamForceIdr f c s
  | .sparamRung f c => Sys2Proof.Machine.execSparamRung f c s
  | .sparamMuxMember f c => Sys2Proof.Machine.execSparamMuxMember f c s
  | .sparamMuxRate f c => Sys2Proof.Machine.execSparamMuxRate f c s
  | .sparamLadderDepth f c => Sys2Proof.Machine.execSparamLadderDepth f c s
  | .sparamBufFormat f c => Sys2Proof.Machine.execSparamBufFormat f c s
  | .palloc f c => Sys2Proof.Machine.execPalloc f c s
  | .pallocB f c at_ => Sys2Proof.Machine.execPallocB f c at_ s
  | .pfree f c => Sys2Proof.Machine.execPfree f c s
  | .pmarkHold f c => Sys2Proof.Machine.execPmarkHold f c s
  | .pmarkUnhold f c => Sys2Proof.Machine.execPmarkUnhold f c s
  | .pltrSet f c => Sys2Proof.Machine.execPltrSet f c s
  | .pltrAck f c => Sys2Proof.Machine.execPltrAck f c s
  | .pltrLoss f c => Sys2Proof.Machine.execPltrLoss f c s
  | .pltrDrop f c => Sys2Proof.Machine.execPltrDrop f c s
  | .decPic f c => Sys2Proof.Machine.execDecPic f c s
  | .decRowPublish n rows used bad => Sys2Proof.Machine.execDecRowPublish n rows used bad s
  | .decPicComplete n r => Sys2Proof.Machine.execDecPicComplete n r s
  | .decodeCeilingReached n cyc => Sys2Proof.Machine.execDecodeCeilingReached n cyc s
  | .decodeDeadlineExpiry n r => Sys2Proof.Machine.execDecodeDeadlineExpiry n r s
  | .spanGrantTimeout c f => Sys2Proof.Machine.execSpanGrantTimeout c f s
  | .encPic f c => Sys2Proof.Machine.execEncPic f c s
  | .encPictureStart c e => Sys2Proof.Machine.execEncPictureStart c e s
  | .encRowCoded c r => Sys2Proof.Machine.execEncRowCoded c r s
  | .encTimeBudgetExpiry c => Sys2Proof.Machine.execEncTimeBudgetExpiry c s
  | .encPicComplete n q => Sys2Proof.Machine.execEncPicComplete n q s
  | .encLadder f c => Sys2Proof.Machine.execEncLadder f c s
  | .encLadderComplete n q => Sys2Proof.Machine.execEncLadderComplete n q s
  | .analyze f c => Sys2Proof.Machine.execAnalyze f c s
  | .analyzeComplete n q => Sys2Proof.Machine.execAnalyzeComplete n q s
  | .scale f c => Sys2Proof.Machine.execScale f c s
  | .scaleComplete n => Sys2Proof.Machine.execScaleComplete n s
  | .convert f c => Sys2Proof.Machine.execConvert f c s
  | .convertComplete n => Sys2Proof.Machine.execConvertComplete n s
  | .stats f c => Sys2Proof.Machine.execStats f c s
  | .statsComplete n => Sys2Proof.Machine.execStatsComplete n s
  | .xfer f c => Sys2Proof.Machine.execXfer f c s
  | .fill f c => Sys2Proof.Machine.execFill f c s
  | .pack f c => Sys2Proof.Machine.execPack f c s
  | .packIn f c => Sys2Proof.Machine.execPackIn f c s
  | .dmaMoveComplete n m => Sys2Proof.Machine.execDmaMoveComplete n m s
  | .ingestBind f c => Sys2Proof.Machine.execIngestBind f c s
  | .egressBind f c => Sys2Proof.Machine.execEgressBind f c s
  | .claim f c => Sys2Proof.Machine.execClaim f c s
  | .claimTimeout f c => Sys2Proof.Machine.execClaimTimeout f c s
  | .release f c => Sys2Proof.Machine.execRelease f c s
  | .query f c => Sys2Proof.Machine.execQuery f c s
  | .yokeTimeout f c => Sys2Proof.Machine.execYokeTimeout f c s
  | .sqDoorbell h q v => Sys2Proof.Machine.execSqDoorbell h q v s
  | .cqDoorbell h q v => Sys2Proof.Machine.execCqDoorbell h q v s
  | .sqEntryTake h q es => Sys2Proof.Machine.execSqEntryTake h q es s
  | .sqPhaseRetry h q e => Sys2Proof.Machine.execSqPhaseRetry h q e s
  | .sqReadFail h q => Sys2Proof.Machine.execSqReadFail h q s
  | .sqIdle h q => Sys2Proof.Machine.execSqIdle h q s
  | .admqEnable h v => Sys2Proof.Machine.execAdmqEnable h v s
  | .admqDisable h v => Sys2Proof.Machine.execAdmqDisable h v s
  | .createCq h => Sys2Proof.Machine.execCreateCq h s
  | .createSq h => Sys2Proof.Machine.execCreateSq h s
  | .deleteSq h => Sys2Proof.Machine.execDeleteSq h s
  | .deleteCq h => Sys2Proof.Machine.execDeleteCq h s
  | .setSqEnable h => Sys2Proof.Machine.execSetSqEnable h s
  | .setSqDisable h => Sys2Proof.Machine.execSetSqDisable h s
  | .getQueueStatus h => Sys2Proof.Machine.execGetQueueStatus h s
  | .igfClaim h v => Sys2Proof.Machine.execIgfClaim h v s
  | .igfComplete h vec v => Sys2Proof.Machine.execIgfComplete h vec v s
  | .igfMaskSet h v => Sys2Proof.Machine.execIgfMaskSet h v s
  | .igfMaskClr h v => Sys2Proof.Machine.execIgfMaskClr h v s
  | .igfPendSet h v => Sys2Proof.Machine.execIgfPendSet h v s
  | .igfPendClr h v => Sys2Proof.Machine.execIgfPendClr h v s
  | .igfCoalWrite h v => Sys2Proof.Machine.execIgfCoalWrite h v s
  | .igfRouteWrite h v => Sys2Proof.Machine.execIgfRouteWrite h v s
  | .igTargetWrite w n v => Sys2Proof.Machine.execIgTargetWrite w n v s
  | .coalesceTimerExpiry n => Sys2Proof.Machine.execCoalesceTimerExpiry n s
  | .msixMaskRelease h v => Sys2Proof.Machine.execMsixMaskRelease h v s
  | .chnByhandle h v => Sys2Proof.Machine.execChnByhandle h v s
  | .fieldEnable w f => Sys2Proof.Machine.execFieldEnable w f s
  | .fieldDisable w f => Sys2Proof.Machine.execFieldDisable w f s
  | .fieldDrainDone f => Sys2Proof.Machine.execFieldDrainDone f s
  | .muxRateTick m => Sys2Proof.Machine.execMuxRateTick m s
  | .netPortEnable w p => Sys2Proof.Machine.execNetPortEnable w p s
  | .netPortDisable w p => Sys2Proof.Machine.execNetPortDisable w p s
  | .ingQuadModeWrite w q v => Sys2Proof.Machine.execIngQuadModeWrite w q v s
  | .netLinkLoss p => Sys2Proof.Machine.execNetLinkLoss p s
  | .netLinkUp p => Sys2Proof.Machine.execNetLinkUp p s
  | .ingestFrameReceive p bad data start => Sys2Proof.Machine.execIngestFrameReceive p bad data start s
  | .ingestFrameClassify p => Sys2Proof.Machine.execIngestFrameClassify p s
  | .reorderHoleTimeout t => Sys2Proof.Machine.execReorderHoleTimeout t s
  | .pathDownTimeout t pth => Sys2Proof.Machine.execPathDownTimeout t pth s
  | .excTokenRefill h => Sys2Proof.Machine.execExcTokenRefill h s
  | .ingPauseSet w p => Sys2Proof.Machine.execIngPauseSet w p s
  | .ingPauseInForce p => Sys2Proof.Machine.execIngPauseInForce p s
  | .ingPauseClear w p => Sys2Proof.Machine.execIngPauseClear w p s
  | .ingPauseExpiry p => Sys2Proof.Machine.execIngPauseExpiry p s
  | .ingTableWrite w off v => Sys2Proof.Machine.execIngTableWrite w off v s
  | .meterCommit w m v => Sys2Proof.Machine.execMeterCommit w m v s
  | .ingTblRead w v => Sys2Proof.Machine.execIngTblRead w v s
  | .ingTblInsert w v => Sys2Proof.Machine.execIngTblInsert w v s
  | .ingTblDelete w v => Sys2Proof.Machine.execIngTblDelete w v s
  | .ingTblCmdComplete => Sys2Proof.Machine.execIngTblCmdComplete s
  | .grnSpillWrite w v => Sys2Proof.Machine.execGrnSpillWrite w v s
  | .granaryWaitResume ring n => Sys2Proof.Machine.execGranaryWaitResume ring n s
  | .rxrEnable h r => Sys2Proof.Machine.execRxrEnable h r s
  | .rxrCiWrite h r v => Sys2Proof.Machine.execRxrCiWrite h r v s
  | .dmaRingOwnerWrite w r v => Sys2Proof.Machine.execDmaRingOwnerWrite w r v s
  | .dmarEnable h r => Sys2Proof.Machine.execDmarEnable h r s
  | .dmarDisable h r => Sys2Proof.Machine.execDmarDisable h r s
  | .dmarPoke h r => Sys2Proof.Machine.execDmarPoke h r s
  | .dmaDescriptorFetch r d => Sys2Proof.Machine.execDmaDescriptorFetch r d s
  | .dmaDescriptorDone r m => Sys2Proof.Machine.execDmaDescriptorDone r m s
  | .dmaStarvationTurn ch => Sys2Proof.Machine.execDmaStarvationTurn ch s
  | .egressItemTake c => Sys2Proof.Machine.execEgressItemTake c s
  | .egressFrameStart p => Sys2Proof.Machine.execEgressFrameStart p s
  | .datagramHoldExpiry e => Sys2Proof.Machine.execDatagramHoldExpiry e s
  | .pcrIntervalExpiry e => Sys2Proof.Machine.execPcrIntervalExpiry e s
  | .psiRepeatDue e t => Sys2Proof.Machine.execPsiRepeatDue e t s
  | .egfPiWrite h slot v => Sys2Proof.Machine.execEgfPiWrite h slot v s
  | .egressDepthSample => Sys2Proof.Machine.execEgressDepthSample s
  | .egrObsClr w v => Sys2Proof.Machine.execEgrObsClr w v s
  | .dramReadReturn a r => Sys2Proof.Machine.execDramReadReturn a r s
  | .commandCheckError a ch r => Sys2Proof.Machine.execCommandCheckError a ch r s
  | .refreshDue ch rk banks busy => Sys2Proof.Machine.execRefreshDue ch rk banks busy s
  | .mr4Poll ch rk v => Sys2Proof.Machine.execMr4Poll ch rk v s
  | .rankPowerDown ch rk => Sys2Proof.Machine.execRankPowerDown ch rk s
  | .dramRetrainStart ch temp => Sys2Proof.Machine.execDramRetrainStart ch temp s
  | .dramRetrainDone ok temp => Sys2Proof.Machine.execDramRetrainDone ok temp s
  | .scrubBurst a r => Sys2Proof.Machine.execScrubBurst a r s
  | .granuleZeroDone h g d => Sys2Proof.Machine.execGranuleZeroDone h g d s
  | .drcDiagRelease w => Sys2Proof.Machine.execDrcDiagRelease w s
  | .yokeGrantAdmit aged => Sys2Proof.Machine.execYokeGrantAdmit aged s
  | .yokeRecallDone key => Sys2Proof.Machine.execYokeRecallDone key s
  | .rampStep => Sys2Proof.Machine.execRampStep s
  | .fieldIdleTimer f l => Sys2Proof.Machine.execFieldIdleTimer f l s
  | .fieldWakeDone f => Sys2Proof.Machine.execFieldWakeDone f s
  | .pllStopTimer k => Sys2Proof.Machine.execPllStopTimer k s
  | .pllLockLoss k => Sys2Proof.Machine.execPllLockLoss k s
  | .pllRelock k => Sys2Proof.Machine.execPllRelock k s
  | .uncoreLevelEntry l => Sys2Proof.Machine.execUncoreLevelEntry l s
  | .uncoreWake l => Sys2Proof.Machine.execUncoreWake l s
  | .uncoreWakeDone => Sys2Proof.Machine.execUncoreWakeDone s
  | .envelopeChange w v => Sys2Proof.Machine.execEnvelopeChange w v s
  | .envelopeFitTimeout => Sys2Proof.Machine.execEnvelopeFitTimeout s
  | .voutPoll mv => Sys2Proof.Machine.execVoutPoll mv s
  | .voutSettleTimeout => Sys2Proof.Machine.execVoutSettleTimeout s
  | .envelopeChangeDone => Sys2Proof.Machine.execEnvelopeChangeDone s
  | .yokeCeilingWrite w v => Sys2Proof.Machine.execYokeCeilingWrite w v s
  | .ioutSample cu => Sys2Proof.Machine.execIoutSample cu s
  | .yokeCalUpdate => Sys2Proof.Machine.execYokeCalUpdate s
  | .fallowTaskStart k u due => Sys2Proof.Machine.execFallowTaskStart k u due s
  | .laneRecal l => Sys2Proof.Machine.execLaneRecal l s
  | .fieldSelftestStart f => Sys2Proof.Machine.execFieldSelftestStart f s
  | .tempSample t0 => Sys2Proof.Machine.execTempSample t0 s
  | .dtbStepWrite w v => Sys2Proof.Machine.execDtbStepWrite w v s
  | .dtbSetWrite w v => Sys2Proof.Machine.execDtbSetWrite w v s
  | .fcSevWrite w n v => Sys2Proof.Machine.execFcSevWrite w n v s
  | .fcStatusClear w k v => Sys2Proof.Machine.execFcStatusClear w k v s
  | .fcThresholdWrite w v => Sys2Proof.Machine.execFcThresholdWrite w v s
  | .fcResume w => Sys2Proof.Machine.execFcResume w s
  | .fcFfClear w => Sys2Proof.Machine.execFcFfClear w s
  | .fcSelfMismatch => Sys2Proof.Machine.execFcSelfMismatch s
  | .chnLatClr h => Sys2Proof.Machine.execChnLatClr h s
  | .selftestField w f => Sys2Proof.Machine.execSelftestField w f s
  | .selftestSerdesNear w l => Sys2Proof.Machine.execSelftestSerdesNear w l s
  | .selftestSerdesFar w l => Sys2Proof.Machine.execSelftestSerdesFar w l s
  | .selftestSerdesFarStop w l => Sys2Proof.Machine.execSelftestSerdesFarStop w l s
  | .selftestPll w => Sys2Proof.Machine.execSelftestPll w s
  | .selftestTemp w => Sys2Proof.Machine.execSelftestTemp w s
  | .selftestRepairBurn w => Sys2Proof.Machine.execSelftestRepairBurn w s
  | .selftestDone r reps => Sys2Proof.Machine.execSelftestDone r reps s
  | .baulkPortEnable w p => Sys2Proof.Machine.execBaulkPortEnable w p s
  | .baulkBringupRetry p => Sys2Proof.Machine.execBaulkBringupRetry p s
  | .link p d id port => Sys2Proof.Machine.execLink p d id port s
  | .write p h e off data => Sys2Proof.Machine.execWrite p h e off data s
  | .readReq p h e off len => Sys2Proof.Machine.execReadReq p h e off len s
  | .readData p h req st data => Sys2Proof.Machine.execReadData p h req st data s
  | .signalFrame p h e j n => Sys2Proof.Machine.execSignalFrame p h e j n s
  | .flush p h => Sys2Proof.Machine.execFlush p h s
  | .ack p h credit ans => Sys2Proof.Machine.execAck p h credit ans s
  | .nak p h => Sys2Proof.Machine.execNak p h s
  | .baulkAckTimeout p => Sys2Proof.Machine.execBaulkAckTimeout p s
  | .baulkLaneLockLoss p => Sys2Proof.Machine.execBaulkLaneLockLoss p s
  | .baulkExportWrite w off v => Sys2Proof.Machine.execBaulkExportWrite w off v s
  | .baulkImportWrite w off v => Sys2Proof.Machine.execBaulkImportWrite w off v s
  | .poolEnable w v => Sys2Proof.Machine.execPoolEnable w v s
  | .poolWantWrite w v => Sys2Proof.Machine.execPoolWantWrite w v s
  | .poolHeartbeat => Sys2Proof.Machine.execPoolHeartbeat s
  | .poolMessage dev kind dest val => Sys2Proof.Machine.execPoolMessage dev kind dest val s
  | .poolGatherEnd => Sys2Proof.Machine.execPoolGatherEnd s
  | .poolLeaderLost => Sys2Proof.Machine.execPoolLeaderLost s
  | .bkSyncDrive => Sys2Proof.Machine.execBkSyncDrive s
  | .bkSyncEdge => Sys2Proof.Machine.execBkSyncEdge s
  | .bkSyncLost => Sys2Proof.Machine.execBkSyncLost s
  | .pvRun h run => Sys2Proof.Machine.execPvRun h run s
  | .pvReset h => Sys2Proof.Machine.execPvReset h s
  | .pvSqTailWrite h q v => Sys2Proof.Machine.execPvSqTailWrite h q v s
  | .pvCqHeadWrite h v => Sys2Proof.Machine.execPvCqHeadWrite h v s
  | .pvDescriptorTake h d => Sys2Proof.Machine.execPvDescriptorTake h d s
  | .pvNop f c => Sys2Proof.Machine.execPvNop f c s
  | .pvOpen f c => Sys2Proof.Machine.execPvOpen f c s
  | .pvClose f c => Sys2Proof.Machine.execPvClose f c s
  | .pvBsIn f c m => Sys2Proof.Machine.execPvBsIn f c m s
  | .pvBsOut f c => Sys2Proof.Machine.execPvBsOut f c s
  | .pvDecode f c => Sys2Proof.Machine.execPvDecode f c s
  | .pvEncode f c => Sys2Proof.Machine.execPvEncode f c s
  | .pvXcode f c => Sys2Proof.Machine.execPvXcode f c s
  | .pvIntStatusClear h v => Sys2Proof.Machine.execPvIntStatusClear h v s
  | .pvIntMaskWrite h v => Sys2Proof.Machine.execPvIntMaskWrite h v s
  | .pvIntCoalWrite h v => Sys2Proof.Machine.execPvIntCoalWrite h v s
  | .pv16PortsWrite w h v => Sys2Proof.Machine.execPv16PortsWrite w h v s
  | .pvPortEnable h p on => Sys2Proof.Machine.execPvPortEnable h p on s
  | .sysrstNRelease b => Sys2Proof.Machine.execSysrstNRelease b s
  | .unassignedOpcode f c => Sys2Proof.Machine.execUnassignedOpcode f c s
  | .clxExit p => Sys2Proof.Machine.execClxExit p s
  | .writeLinkEccError a ch r => Sys2Proof.Machine.execWriteLinkEccError a ch r s
  | .baulkFrameCrcError p => Sys2Proof.Machine.execBaulkFrameCrcError p s

end Sys2Proof.Machine
end

