-- ==== Sys2Proof/Safety.lean ====
section
/-! DEFINITION. The terms that statements use: what counts as safe, when a command has its effect, and what it leaves alone. -/

namespace Sys2Proof.Machine

/-! Fuses. -/

/-- The fuses are within their limits (R466, R470): the anti-rollback count has 64 fuses, and at most 128 repair entries are
used. -/
def FuseSafe (s : State) : Prop := s.sys.fuseN ≤ 64 ∧ s.sys.repairUsed ≤ 128

/-- Fuses are only ever burned: neither count goes back, and the serial number stays (R466, R470). -/
def FuseGrows (s t : State) : Prop :=
  s.sys.fuseN ≤ t.sys.fuseN ∧ s.sys.repairUsed ≤ t.sys.repairUsed ∧ t.sys.serial = s.sys.serial

/-- A change of state that burns fuses within their limits. -/
def Burns (s t : State) : Prop := FuseGrows s t ∧ (FuseSafe s → FuseSafe t)

/-- The same of an outcome; a command that does not go on burns nothing. -/
def BurnsRes (s : State) (r : Res) : Prop := ∀ t, r = .next t → Burns s t

/-! When a command has its effect. -/

/-- No fault source waits to be recorded: so it is between any two steps that record fewer than four rounds of faults. -/
def Quiet (s : State) : Prop := s.flt.fired = []

/-- Function `w` writes BAR2: it is present, not in D3hot, and its holding owns the administrative role (R23, R52). -/
def Admin (s : State) (w : Nat) : Prop :=
  (s.hd w).present = true ∧ (s.hd w).d3 = false ∧ s.adm.owner = some w

/-- The Drill of Field `f` now issues, from context `c`, an instruction `i` of opcode `op` whose form and reserved bits are
as the spec has them (R74, R75, R78); `x` is the context. -/
def Issues (s : State) (f c op : Nat) (x : Ctx) (i : Ins) : Prop :=
  s.ctx (ckey f c) = some x ∧ nextIns x = some i ∧ i.op = op ∧ formGood x i = true ∧
    (match formOf i with | some fm => reservedOk i fm | none => false) = true ∧ drillRuns s f = true ∧
    ready s (ckey f c) x i = true ∧ picked s (ckey f c) x = true

/-- The context as the instruction sees it: the issue is counted (R78). -/
def issuedCtx (s : State) (x : Ctx) : Ctx := { x with last := s.job.nextIssue }

/-! What a command leaves alone. -/

/-- The parts of the state besides registers, queues and jobs, and what interrupt messages touch. -/
def SameParts (s t : State) : Prop :=
  t.sys = s.sys ∧ t.tim = s.tim ∧ t.adm = s.adm ∧ t.hport = s.hport ∧ t.vid = s.vid ∧ t.grn = s.grn ∧ t.dma = s.dma ∧
    t.ing = s.ing ∧ t.egr = s.egr ∧ t.drm = s.drm ∧ t.yoke = s.yoke ∧ t.baulk = s.baulk ∧ t.pv = s.pv ∧
    t.pending = s.pending

/-- Nothing of registers, holdings, interrupts or faults changes, and nothing is sent out. -/
def SameRegs (s t : State) : Prop :=
  t.b0 = s.b0 ∧ t.bc = s.bc ∧ t.hold = s.hold ∧ t.intr = s.intr ∧ t.flt = s.flt ∧ t.out = s.out ∧ t.readData = s.readData

/-- Queues, outstanding work, objects, semaphores and barriers stay. -/
def SameJobs (s t : State) : Prop :=
  t.job.sq = s.job.sq ∧ t.job.cq = s.job.cq ∧ t.job.work = s.job.work ∧ t.job.obj = s.job.obj ∧ t.job.gen = s.job.gen ∧
    t.job.sem = s.job.sem ∧ t.job.bar = s.job.bar

/-- Every other job context stays. -/
def OtherCtx (s t : State) (k : Nat) : Prop := ∀ j, j ≠ k → t.ctx j = s.ctx j

/-- Every register of BAR2 stays but FLD_DRL_ISSUED of Field `f`. -/
def IssueRegs (s t : State) (f : Nat) : Prop := ∀ a, a ≠ A.drl f + 8 → a ≠ A.drl f + 12 → t.r2 a = s.r2 a

/-- Every byte of device memory reads as before. -/
def SameBytes (s t : State) : Prop := ∀ h off, readDev t h off 1 = readDev s h off 1

/-- An instruction changed its own context `c` of Field `f` and nothing else; the issue is counted. -/
def OnlyCtx (s t : State) (f c : Nat) : Prop :=
  SameParts s t ∧ SameRegs s t ∧ t.free = s.free ∧ SameJobs s t ∧ OtherCtx s t (ckey f c) ∧ IssueRegs s t f ∧ SameBytes s t

/-- Every G register but `d` reads as before, every K register as before. -/
def OnlyG (x y : Ctx) (d : Nat) : Prop := (∀ j, j ≠ d → y.gr j = x.gr j) ∧ ∀ j, y.kr j = x.kr j

/-- What identifies a job and bounds it stays. -/
def SameJob (x y : Ctx) : Prop :=
  y.hold = x.hold ∧ y.sqid = x.sqid ∧ y.tag = x.tag ∧ y.cls = x.cls ∧ y.tmo = x.tmo ∧ y.prog = x.prog ∧ y.plen = x.plen ∧
    y.wait = x.wait ∧ y.ended = x.ended ∧ y.stack = x.stack ∧ y.t = x.t

/-- A context keeps its registers and flags. -/
def SameFile (x y : Ctx) : Prop := y.g = x.g ∧ y.k = x.k ∧ y.z = x.z ∧ y.n = x.n ∧ y.c = x.c ∧ y.t = x.t

/-- The job of context `c` faults with `code`, its result the word offset of the instruction (R84, R86). -/
def Faults (s t : State) (f c : Nat) (x : Ctx) (code : Nat) : Prop :=
  ∃ y, t.ctx (ckey f c) = some y ∧ y.ended = some (code, BitVec.ofNat 64 (x.pc % 65536)) ∧ y.fault = true ∧
    SameFile x y ∧ OnlyCtx s t f c

end Sys2Proof.Machine
end

