-- ==== Sys2Proof/Certificates/Slice0/Obligations.lean ====
section
/-! DEFINITION. The statements for the provers, by the spec's sections. -/

open Sys2Proof Sys2Proof.Machine

/-! The block. -/

/-- A command at the front of the queue is carried out with the rest of the queue waiting. -/
def Obligations.StepTakesFront : Prop :=
  ∀ (c : Instr) (rest : List Instr) (s : State), s.pending = c :: rest → step s = exec c { s with pending := rest }

/-- With an empty queue the block idles for one REFCLK cycle (the model's choice, log 2): nothing but its time moves. Outside
PORST_N, and but at PL4, the DTB advances by 40 ns and DTB_RATE's share (R429); a DTB_SET loads and a DTB_STEP adds. -/
def Obligations.IdleCycle : Prop :=
  ∀ s : State, s.pending = [] → step s = .next { s with tim := (idleTick s).tim } ∧
    (s.sys.porst = true → (idleTick s).tim = s.tim) ∧
    (s.sys.porst = false → s.yoke.pl ≠ 4 → s.tim.set = none → s.tim.step = none →
      (((idleTick s).tim.dtb.toNat : Int) * 2 ^ 32 + (idleTick s).tim.frac.toNat) % 2 ^ 96 =
        ((s.tim.dtb.toNat : Int) * 2 ^ 32 + s.tim.frac.toNat + 40 * 2 ^ 32 + 40 * dtbRate s) % 2 ^ 96) ∧
    (s.sys.porst = false → ∀ v, s.tim.set = some v → s.tim.step = none → (idleTick s).tim.dtb = v ∧ (idleTick s).tim.set = none) ∧
    (s.sys.porst = false → ∀ v d, s.tim.set = some v → s.tim.step = some d →
      (idleTick s).tim.dtb = v + d.signExtend 64 ∧ (idleTick s).tim.step = none)

/-- What reset leaves where the spec gives the value: the command queue empty (the model's own), severities, log and fault
status empty, holding 0 with the administrative role and ENABLE (R23, R30), the registers named here at their reset values. -/
def Obligations.ResetValues : Prop :=
  State.reset.pending = [] ∧ State.reset.adm.owner = some 0 ∧ (State.reset.hd 0).enable = true ∧
    State.reset.flt.status = [] ∧ State.reset.flt.log = [] ∧ State.reset.job.sq = [] ∧ State.reset.job.cq = [] ∧
    State.reset.r2 A.admLeaseMs = 1000 ∧ State.reset.r2 A.yokeCeiling = 320 ∧ State.reset.r2 A.fcCtrl = 2 ∧
    (∀ h, h ≠ 0 → (State.reset.hd h).enable = false) ∧ Memory.wf State.reset.drm.mem = true

/-- The fuses are within their limits right after reset (their values are the model's choice, log 7). -/
def Obligations.ResetFuses : Prop := FuseSafe State.reset

/-- Every step, of every command, keeps the fuses within their limits, never takes a burnt fuse back, and keeps the serial
number: the anti-rollback count stops at 64 (R466) and the repair entries at 128 (R470). -/
def Obligations.FuseInvariant : Prop :=
  ∀ s t : State, step s = .next t → FuseGrows s t ∧ (FuseSafe s → FuseSafe t)

/-! Arithmetic, moves, memory words, control flow (R96 to R100). -/

/-- What an arithmetic instruction of opcode `op` does: D takes the value of A and the second operand (B, or IMM
sign-extended in the I form), Z N C are those of the result, and nothing else of the job or of the machine changes. -/
def Sys2Proof.Machine.AluRule (ins : Nat → Nat → Instr) (op : Nat) (val : DWord → DWord → DWord) (carry : DWord → DWord → Bool) : Prop :=
  ∀ (s : State) (f c : Nat) (x : Ctx) (i : Ins), c < 32 → Issues s f c op x i →
    (op = 0x28 ∨ op = 0x29 ∨ op = 0x2A → i.mod % 2 = 1 → i.imm.toNat < 64) →
    let a := x.gr i.a
    let b := if i.mod % 2 = 1 then i.imm.signExtend 64 else x.gr i.b
    ∃ t y, exec (ins f c) s = .next t ∧ t.ctx (ckey f c) = some y ∧ y.gr i.d = val a b ∧ y.z = decide (val a b = 0) ∧
      y.n = (val a b).getLsbD 63 ∧ y.c = carry a b ∧ y.pc = x.pc + 1 + i.xw ∧ OnlyG x y i.d ∧ SameJob x y ∧ OnlyCtx s t f c

/-- ADD, SUB, MUL, AND, OR, XOR, SHL, SHR and SAR (R98). -/
def Sys2Proof.Machine.ArithmeticResults : Prop :=
  AluRule .add 0x22 (fun a b => a + b) (fun a b => decide (2 ^ 64 ≤ a.toNat + b.toNat)) ∧
  AluRule .sub 0x23 (fun a b => a - b) (fun a b => decide (a < b)) ∧
  AluRule .mul 0x24 (fun a b => a * b) (fun a b => decide (2 ^ 64 ≤ a.toNat * b.toNat)) ∧
  AluRule .and 0x25 (fun a b => a &&& b) (fun _ _ => false) ∧ AluRule .or 0x26 (fun a b => a ||| b) (fun _ _ => false) ∧
  AluRule .xor 0x27 (fun a b => a ^^^ b) (fun _ _ => false) ∧
  AluRule .shl 0x28 (fun a b => a <<< (b.toNat % 64)) (fun _ _ => false) ∧
  AluRule .shr 0x29 (fun a b => a >>> (b.toNat % 64)) (fun _ _ => false) ∧
  AluRule .sar 0x2A (fun a b => a.sshiftRight (b.toNat % 64)) (fun _ _ => false)

/-- CMP sets the flags of A − B and writes no register (R98); MOV copies a register or the sign-extended IMM into a G or a K
register, without flags; MOVX takes the extra word (R99). -/
def Sys2Proof.Machine.CompareAndMove : Prop :=
  (∀ (s : State) (f c : Nat) (x : Ctx) (i : Ins), c < 32 → Issues s f c 0x2B x i →
    let a := x.gr i.a
    let b := if i.mod % 2 = 1 then i.imm.signExtend 64 else x.gr i.b
    ∃ t y, exec (.cmp f c) s = .next t ∧ t.ctx (ckey f c) = some y ∧ y.z = decide (a = b) ∧ y.n = (a - b).getLsbD 63 ∧
      y.c = decide (a < b) ∧ y.pc = x.pc + 1 + i.xw ∧ (∀ j, y.gr j = x.gr j ∧ y.kr j = x.kr j) ∧ SameJob x y ∧ OnlyCtx s t f c) ∧
  (∀ (s : State) (f c : Nat) (x : Ctx) (i : Ins), c < 32 → Issues s f c 0x20 x i → i.d < 32 →
    let v := if i.mod % 2 = 1 then i.imm.signExtend 64 else if i.a < 16 then x.gr i.a else (x.kr (i.a - 16)).setWidth 64
    ∃ t y, exec (.mov f c) s = .next t ∧ t.ctx (ckey f c) = some y ∧
      (i.d < 16 → y.gr i.d = v ∧ OnlyG x y i.d) ∧
      (16 ≤ i.d → y.kr (i.d - 16) = v.setWidth 32 ∧ (∀ j, y.gr j = x.gr j) ∧ ∀ j, j ≠ i.d - 16 → y.kr j = x.kr j) ∧
      y.z = x.z ∧ y.n = x.n ∧ y.c = x.c ∧ y.pc = x.pc + 1 + i.xw ∧ SameJob x y ∧ OnlyCtx s t f c) ∧
  (∀ (s : State) (f c : Nat) (x : Ctx) (i : Ins), c < 32 → Issues s f c 0x21 x i →
    ∃ t y, exec (.movx f c) s = .next t ∧ t.ctx (ckey f c) = some y ∧ y.gr i.d = tgetD x.prog (x.pc + 1) 0 ∧ OnlyG x y i.d ∧
      y.z = x.z ∧ y.n = x.n ∧ y.c = x.c ∧ y.pc = x.pc + 1 + i.xw ∧ SameJob x y ∧ OnlyCtx s t f c)

/-- The arithmetic of R98, CMP, and the moves of R99. -/
def Obligations.ArithmeticAndMoves : Prop := ArithmeticResults ∧ CompareAndMove

/-- The condition of BR that a field names (R97). -/
def Sys2Proof.Machine.branchTaken (x : Ctx) : Nat → Bool
  | 0 => true
  | 1 => x.z
  | 2 => !x.z
  | 3 => x.n
  | 4 => !x.n
  | 5 => x.c
  | 6 => !x.c
  | 7 => x.t
  | 8 => !x.t
  | 9 => !x.z && !x.n
  | _ => x.z || x.n

/-- A target that does not lie beyond a finished program (R77). -/
def Sys2Proof.Machine.inProgram (x : Ctx) (t : Nat) : Prop := ∀ n, x.plen = some n → t ≤ n

/-- NOP has no effect; BR branches if its condition holds and else goes on; CALL pushes the next offset on a stack of four; RET
pops it. None changes a register or a flag (R96, R97). -/
def Sys2Proof.Machine.Branches : Prop :=
  ∀ (s : State) (f c : Nat) (x : Ctx) (i : Ins), c < 32 →
    (Issues s f c 0x00 x i → ∃ t y, exec (.nop f c) s = .next t ∧ t.ctx (ckey f c) = some y ∧ y.pc = x.pc + 1 + i.xw ∧
      y.stack = x.stack ∧ SameFile x y ∧ OnlyCtx s t f c) ∧
    (Issues s f c 0x01 x i → i.mod % 16 ≤ 10 → inProgram x i.imm.toNat →
      ∃ t y, exec (.br f c) s = .next t ∧ t.ctx (ckey f c) = some y ∧
        y.pc = (if branchTaken x (i.mod % 16) then i.imm.toNat else x.pc + 1 + i.xw) ∧ y.stack = x.stack ∧ SameFile x y ∧
        OnlyCtx s t f c) ∧
    (Issues s f c 0x02 x i → x.stack.length < 4 → inProgram x i.imm.toNat →
      ∃ t y, exec (.call f c) s = .next t ∧ t.ctx (ckey f c) = some y ∧ y.pc = i.imm.toNat ∧
        y.stack = (x.pc + 1) :: x.stack ∧ SameFile x y ∧ OnlyCtx s t f c) ∧
    (Issues s f c 0x03 x i → ∀ a rest, x.stack = a :: rest → inProgram x a →
      ∃ t y, exec (.ret f c) s = .next t ∧ t.ctx (ckey f c) = some y ∧ y.pc = a ∧ y.stack = rest ∧ SameFile x y ∧
        OnlyCtx s t f c)

/-- Where control flow faults the job instead (R77, R84, R97): a full or an empty stack, a reserved condition, a target beyond
a finished program; so does a shift count above 63 in the I form (R98), a word that is not aligned (R100), and an opcode or a
form that the spec does not assign (R84, R96), where no bundle assigned it. -/
def Obligations.ControlFaults : Prop :=
  ∀ (s : State) (f c : Nat) (x : Ctx) (i : Ins), c < 32 →
    (Issues s f c 0x02 x i → 4 ≤ x.stack.length → ∃ t, exec (.call f c) s = .next t ∧ Faults s t f c x 0x0103) ∧
    (Issues s f c 0x03 x i → x.stack = [] → ∃ t, exec (.ret f c) s = .next t ∧ Faults s t f c x 0x0103) ∧
    (Issues s f c 0x01 x i → 10 < i.mod % 16 → ∃ t, exec (.br f c) s = .next t ∧ Faults s t f c x 0x0100) ∧
    (Issues s f c 0x01 x i → i.mod % 16 = 0 → (∀ n, x.plen = some n → n < i.imm.toNat) → x.plen.isSome →
      ∃ t, exec (.br f c) s = .next t ∧ Faults s t f c x 0x0100) ∧
    (Issues s f c 0x28 x i → i.mod % 2 = 1 → 64 ≤ i.imm.toNat → ∃ t, exec (.shl f c) s = .next t ∧ Faults s t f c x 0x0100) ∧
    (Issues s f c 0x31 x i → i.mod % 2 = 0 → (x.gr i.a + i.imm.signExtend 64).toNat % 8 ≠ 0 →
      ∃ t, exec (.st f c) s = .next t ∧ Faults s t f c x 0x0102) ∧
    (s.ctx (ckey f c) = some x → nextIns x = some i → formGood x i = false → drillRuns s f = true →
      ready s (ckey f c) x i = true → picked s (ckey f c) x = true → (formOf i).isSome ∨ thas s.sys.dispatch i.op = false →
      ∃ u, exec (.unassignedOpcode f c) s = .next (finish s u) ∧ Faults s u f c x 0x0100)

/-- END ends the job, with Ga as its status and result in the S form (R83, R96); SLEEP waits until a DTB time, absolute or
relative, and is over at once where that time is past; its wake lets the job go on when the DTB has reached it. -/
def Sys2Proof.Machine.EndAndSleep : Prop :=
  ∀ (s : State) (f c : Nat) (x : Ctx) (i : Ins), c < 32 →
    (Issues s f c 0x04 x i → i.mod % 2 = 1 → ∃ t y, exec (.end_ f c) s = .next t ∧ t.ctx (ckey f c) = some y ∧
      y.ended = some ((x.gr i.a).toNat % 65536, x.gr i.a) ∧ y.fault = x.fault ∧ SameFile x y ∧ OnlyCtx s t f c) ∧
    (Issues s f c 0x04 x i → i.mod % 2 = 0 → ∃ t y r, exec (.end_ f c) s = .next t ∧ t.ctx (ckey f c) = some y ∧
      y.ended = some (0, r) ∧ y.fault = x.fault ∧ SameFile x y ∧ t.drm = s.drm ∧ t.vid = s.vid) ∧
    (Issues s f c 0x05 x i →
      let w := if i.mod % 2 = 1 then s.tim.dtb.toNat + (x.gr i.a).toNat else (x.gr i.a).toNat
      ∃ t y, exec (.sleep f c) s = .next t ∧ t.ctx (ckey f c) = some y ∧ SameFile x y ∧ OnlyCtx s t f c ∧
        (w ≤ s.tim.dtb.toNat → y.wait = x.wait ∧ y.pc = x.pc + 1 + i.xw) ∧
        (s.tim.dtb.toNat < w → y.wait = .sleep w ∧ y.pc = x.pc)) ∧
    (∀ w, s.ctx (ckey f c) = some x → x.wait = .sleep w → w ≤ s.tim.dtb.toNat →
      ∃ t y, exec (.sleepWake f c) s = .next t ∧ t.ctx (ckey f c) = some y ∧ y.wait = .none ∧ y.pc = x.pc + 1 ∧
        SameFile x y ∧ OnlyCtx s t f c)

/-- NOP, branches, calls, END and SLEEP (R83, R96, R97). -/
def Obligations.ControlFlow : Prop := Branches ∧ EndAndSleep

/-- LD of a word of device or host memory becomes outstanding with its destination register (R80, R100); when it returns, the
register takes the word of device memory, or the low 32 bits of what the host gave with W, and nothing is outstanding any more. -/
def Sys2Proof.Machine.Loads : Prop :=
  ∀ (s : State) (f c : Nat) (x : Ctx) (i : Ins), c < 32 →
    (Issues s f c 0x30 x i → (x.ea i).toNat % (if i.mod % 2 = 1 then 4 else 8) = 0 → ∀ p,
      place s x.hold (x.ea i) (if i.mod % 2 = 1 then 4 else 8) = some p → (∀ r, p ≠ .remote r) →
      ∃ t y w, exec (.ld f c) s = .next t ∧ t.ctx (ckey f c) = some y ∧ y.pc = x.pc + 1 + i.xw ∧ SameFile x y ∧
        tget t.job.work s.job.nextWork = some w ∧ w.ctx = ckey f c ∧ w.hold = x.hold ∧ w.d = i.d ∧
        w.kind = .ld (x.ea i) (i.mod % 2 = 1) ∧ OtherCtx s t (ckey f c) ∧ SameParts s t ∧ SameRegs s t ∧
        IssueRegs s t f ∧ SameBytes s t) ∧
    (∀ n w a sm off v, s.flt.safe = false → tget s.job.work n = some w → w.kind = .ld a sm → w.uses = [] →
      w.ctx = ckey f c → s.ctx (ckey f c) = some x →
      place s w.hold a (if sm then 4 else 8) = some (.dev off) → devMapped s w.hold off (if sm then 4 else 8) = true →
      devPoison s w.hold off (if sm then 4 else 8) = false →
      ∃ t y, exec (.ldComplete n v) s = .next t ∧ t.ctx (ckey f c) = some y ∧
        (y.gr w.d).toNat = leNat (readDev s w.hold off (if sm then 4 else 8)) % 2 ^ 64 ∧ OnlyG x y w.d ∧ y.pc = x.pc ∧
        tget t.job.work n = none ∧ OtherCtx s t (ckey f c) ∧ SameParts s t ∧ SameBytes s t) ∧
    (∀ n w a sm b v, s.flt.safe = false → tget s.job.work n = some w → w.kind = .ld a sm → w.uses = [] →
      w.ctx = ckey f c → s.ctx (ckey f c) = some x → place s w.hold a (if sm then 4 else 8) = some (.host b) →
      ∃ t y, exec (.ldComplete n v) s = .next t ∧ t.ctx (ckey f c) = some y ∧
        y.gr w.d = (if sm then v &&& 0xFFFFFFFF else v) ∧ OnlyG x y w.d ∧ tget t.job.work n = none)

/-- ST writes the word, little-endian, at Ga + displacement in the holding's device memory, and no other byte of memory; to
host memory it goes out as one posted write (R100). -/
def Sys2Proof.Machine.Stores : Prop :=
  ∀ (s : State) (f c : Nat) (x : Ctx) (i : Ins), c < 32 → Issues s f c 0x31 x i →
    let n := if i.mod % 2 = 1 then 4 else 8
    (x.ea i).toNat % n = 0 →
    (∀ off, place s x.hold (x.ea i) n = some (.dev off) → devMapped s x.hold off n = true →
      ∃ t y, exec (.st f c) s = .next t ∧ t.ctx (ckey f c) = some y ∧ y.pc = x.pc + 1 + i.xw ∧ SameFile x y ∧
        readDev t x.hold off n = toLE n (x.gr i.b).toNat ∧ t.drm.map = s.drm.map ∧ t.drm.poison = s.drm.poison ∧
        (∀ a, (∀ j, j < n → devAddr s x.hold (off + j) ≠ some a) → readByte t.drm.mem a = readByte s.drm.mem a) ∧
        OtherCtx s t (ckey f c) ∧ SameRegs s t ∧ SameJobs s t ∧ IssueRegs s t f) ∧
    (∀ b, place s x.hold (x.ea i) n = some (.host b) →
      ∃ t y, exec (.st f c) s = .next t ∧ t.ctx (ckey f c) = some y ∧ y.pc = x.pc + 1 + i.xw ∧ SameFile x y ∧
        t.out = .hostWrite x.hold b (toLE n (x.gr i.b).toNat) :: s.out ∧ SameParts s t ∧ SameJobs s t ∧ SameBytes s t ∧
        OtherCtx s t (ckey f c))

/-- LD and ST (R100): what each reads and writes, and that no other byte of memory changes. -/
def Obligations.LoadsAndStores : Prop := Loads ∧ Stores

/-- FENCE waits for the classes IMM[11:8] at the scope IMM[1:0] (R101); it completes when no covered instruction of its job is
outstanding, and the job goes on at the next word. -/
def Obligations.Fences : Prop :=
  ∀ (s : State) (f c : Nat) (x : Ctx) (i : Ins), c < 32 →
    (Issues s f c 0x40 x i → i.imm.toNat % 4 ≠ 3 → i.imm.toNat / 256 ≠ 0 → i.imm.toNat / 4 % 64 = 0 → i.imm.toNat < 4096 →
      ∃ t y, exec (.fence f c) s = .next t ∧ t.ctx (ckey f c) = some y ∧
        y.wait = .fence (i.imm.toNat / 256) (i.imm.toNat % 4) ∧ y.pc = x.pc ∧ SameFile x y ∧ OnlyCtx s t f c) ∧
    (∀ cls scope, s.ctx (ckey f c) = some x → x.wait = .fence cls scope → s.flt.safe = false →
      (∀ p ∈ s.job.work, p.2.ctx = ckey f c → fenceHits cls p.2 = false) → x.bports = 0 → nextIns x = some i → i.op = 0x40 →
      x.ended = none →
      ∃ t y, exec (.fenceComplete f c) s = .next t ∧ t.ctx (ckey f c) = some y ∧ y.wait = .none ∧ y.pc = x.pc + 1 ∧
        SameFile x y ∧ SameParts s t ∧ SameJobs s t ∧ OtherCtx s t (ckey f c) ∧ SameBytes s t ∧
        (scope ≠ 2 → t.out = s.out))

/-- A synchronising instruction of context `y`, which was `x`, has succeeded: OK in G15, Z set, T clear, the next word (R104). -/
def Sys2Proof.Machine.SyncOk (x y : Ctx) : Prop :=
  y.gr 15 = 0 ∧ y.z = true ∧ y.t = false ∧ y.wait = .none ∧ y.pc = x.pc + 1 ∧ ∀ j, j ≠ 15 → y.gr j = x.gr j

/-- SIGNAL adds n to the count of a local semaphore (R102, R103); WAIT takes n from it when no one waits before it and the
count is enough, else it queues; when its timeout expires it takes nothing, sets T and writes WAIT_TIMEOUT to G15 without X,
and ends the job with X (R104). -/
def Sys2Proof.Machine.Semaphores : Prop :=
  ∀ (s : State) (f c : Nat) (x : Ctx) (i : Ins) (o : Obj) (m : Sem), c < 32 →
    (Issues s f c 0x42 x i → useHandle s x.hold [8] (x.hnd i.a) = some o → tget s.job.sem o.ref = some m → m.waiters = [] →
      i.imm.toNat / 65536 = 0 → i.imm.toNat % 65536 ≠ 0 → m.count + i.imm.toNat % 65536 ≤ 0xFFFFFFFF →
      ∃ t y, exec (.signal f c) s = .next t ∧ t.ctx (ckey f c) = some y ∧
        tget t.job.sem o.ref = some { m with count := m.count + i.imm.toNat % 65536 } ∧ y.gr 15 = 0 ∧ y.z = true ∧
        y.pc = x.pc + 1 + i.xw ∧ OtherCtx s t (ckey f c) ∧ SameParts s t ∧ SameRegs s t ∧ SameBytes s t) ∧
    (Issues s f c 0x43 x i → useHandle s x.hold [8] (x.hnd i.a) = some o → tget s.job.sem o.ref = some m → m.waiters = [] →
      i.imm.toNat % 65536 ≠ 0 →
      ∃ t y, exec (.wait f c) s = .next t ∧ t.ctx (ckey f c) = some y ∧ OtherCtx s t (ckey f c) ∧ SameParts s t ∧
        SameBytes s t ∧
        (i.imm.toNat % 65536 ≤ m.count → SyncOk x y ∧
          tget t.job.sem o.ref = some { m with count := m.count - i.imm.toNat % 65536 }) ∧
        (m.count < i.imm.toNat % 65536 → SameFile x y ∧ y.pc = x.pc ∧
          y.wait = .sem o.ref (i.imm.toNat % 65536) (i.mod % 2 = 1) (i.imm.toNat / 65536 ≠ 0) ∧
          tget t.job.sem o.ref = some { m with waiters := [(ckey f c, i.imm.toNat % 65536)] })) ∧
    (∀ j n e, s.ctx (ckey f c) = some x → x.wait = .sem j n e true → tget s.job.sem j = some m →
      m.waiters = [(ckey f c, n)] →
      ∃ t y, exec (.waitTimeout f c) s = .next t ∧ t.ctx (ckey f c) = some y ∧
        tget t.job.sem j = some { m with waiters := [] } ∧ OtherCtx s t (ckey f c) ∧ SameParts s t ∧
        (e = false → y.gr 15 = 0x0600 ∧ y.t = true ∧ y.wait = .none ∧ y.pc = x.pc + 1) ∧
        (e = true → y.ended = some (0x0600, BitVec.ofNat 64 (x.pc % 65536))))

/-- BARRIER waits until its generation is complete; the last arrival releases every participant (R102, R104); a timeout
withdraws the arrival. -/
def Sys2Proof.Machine.Barriers : Prop :=
  ∀ (s : State) (f c : Nat) (x : Ctx) (i : Ins) (o : Obj) (b : Bar), c < 32 →
    (Issues s f c 0x41 x i → i.imm.toNat % 65536 = 0 → useHandle s x.hold [9] (x.hnd i.a) = some o →
      tget s.job.bar o.ref = some b → b.arrived.length + 1 < b.parts →
      ∃ t y, exec (.barrier f c) s = .next t ∧ t.ctx (ckey f c) = some y ∧
        tget t.job.bar o.ref = some { b with arrived := b.arrived ++ [ckey f c] } ∧
        y.wait = .bar o.ref (i.mod % 2 = 1) (i.imm.toNat / 65536 ≠ 0) ∧ y.pc = x.pc ∧ SameFile x y ∧
        OtherCtx s t (ckey f c) ∧ SameParts s t ∧ SameRegs s t ∧ SameBytes s t) ∧
    (Issues s f c 0x41 x i → i.imm.toNat % 65536 = 0 → useHandle s x.hold [9] (x.hnd i.a) = some o →
      tget s.job.bar o.ref = some b → b.parts ≤ b.arrived.length + 1 → ckey f c ∉ b.arrived →
      ∃ t y, exec (.barrier f c) s = .next t ∧ t.ctx (ckey f c) = some y ∧ SyncOk x y ∧
        tget t.job.bar o.ref = some { b with arrived := [] } ∧
        (∀ j ∈ b.arrived, ∀ z, s.ctx j = some z → ∃ u, t.ctx j = some u ∧ u.wait = .none ∧ u.t = false) ∧
        (∀ j, j ∉ b.arrived → j ≠ ckey f c → t.ctx j = s.ctx j) ∧ SameParts s t ∧ SameBytes s t) ∧
    (∀ j e, s.ctx (ckey f c) = some x → x.wait = .bar j e true → tget s.job.bar j = some b →
      ∃ t y, exec (.barrierTimeout f c) s = .next t ∧ t.ctx (ckey f c) = some y ∧
        tget t.job.bar j = some { b with arrived := b.arrived.filter (· ≠ ckey f c) } ∧ OtherCtx s t (ckey f c) ∧
        SameParts s t ∧ (e = false → y.gr 15 = 0x0600 ∧ y.t = true ∧ y.wait = .none ∧ y.pc = x.pc + 1) ∧
        (e = true → y.ended = some (0x0600, BitVec.ofNat 64 (x.pc % 65536))))

/-- Semaphores and barriers (R102 to R104). -/
def Obligations.Synchronisation : Prop := Semaphores ∧ Barriers

/-- POST writes a completion entry with FINAL clear into the queue's ring, at its producer index, and goes on (R105, R135,
R136); IRQ sets the USER event of a channel (R105, R177). -/
def Obligations.Reports : Prop :=
  ∀ (s : State) (f c : Nat) (x : Ctx) (i : Ins), c < 32 → Quiet s →
    (∀ q, Issues s f c 0x44 x i → i.mod % 2 = 0 → tget s.job.cq (cqOf s x.hold x.sqid) = some q → q.dropOk = false →
      q.hold = [] → q.isFull = false →
      ∃ t y p, exec (.post f c) s = .next t ∧ t.ctx (ckey f c) = some y ∧ y.pc = x.pc + 1 + i.xw ∧ SameFile x y ∧
        (∃ ci, .hostWrite (cqOf s x.hold x.sqid / 1024) (q.base + q.pi % 0x8000 * 32)
          (cqeBytes { final := false, tag := x.tag, status := (x.gr i.a).toNat % 65536, sqid := x.sqid, field := f, ctx := c,
                      result := if i.mod.testBit 1 then x.gr i.b else x.gr i.a } q.pi ci q.ovf s.tim.dtb) :: s.out <:+ t.out) ∧
        tget t.job.cq (cqOf s x.hold x.sqid) = some p ∧ p.pi = idxNext (2 ^ q.log2) q.pi ∧ p.ovf = false ∧
        OtherCtx s t (ckey f c) ∧ SameBytes s t) ∧
    (∀ o, Issues s f c 0x45 x i → i.mod % 2 = 0 → useHandle s x.hold [1] (x.hnd i.a) = some o →
      ∃ t y, exec (.irq f c) s = .next t ∧ t.ctx (ckey f c) = some y ∧ y.pc = x.pc + 1 + i.xw ∧ SameFile x y ∧
        t.rch o.ref B.chnEvent = s.rch o.ref B.chnEvent ||| 1 ∧ OtherCtx s t (ckey f c) ∧ SameBytes s t)

/-! Issue and the end of a step. -/

/-- An instruction that issues is counted in FLD_DRL_ISSUED of its Field and is the newest issue of its context; nothing else
changes (R78). What an instruction does is said, from here on, of this state `countIssue s (ckey f c)`. -/
def Sys2Proof.Machine.IssueCounted : Prop :=
  ∀ (s : State) (f c op : Nat) (x : Ctx) (i : Ins), c < 32 → Issues s f c op x i →
    (countIssue s (ckey f c)).q2 (A.drl f + 8) = s.q2 (A.drl f + 8) + 1 ∧
      (countIssue s (ckey f c)).ctx (ckey f c) = some (issuedCtx s x) ∧
      (countIssue s (ckey f c)).job.nextIssue = s.job.nextIssue + 1 ∧ OnlyCtx s (countIssue s (ckey f c)) f c

/-- The end of a step in which no fault fired: `finish s u` is `u`, and the messages of the vectors that came to have a
deliverable source are sent, or held by the masks (R160, R161). -/
def Sys2Proof.Machine.EndOfStep : Prop :=
  ∀ s u : State, Quiet u →
    SameParts u (finish s u) ∧ (finish s u).job = u.job ∧ (finish s u).b2 = u.b2 ∧ (finish s u).bc = u.bc ∧
      (finish s u).flt = u.flt ∧ (finish s u).readData = u.readData ∧ (finish s u).free = u.free ∧ u.out <:+ (finish s u).out ∧
      SameBytes u (finish s u) ∧
      ((∀ p ∈ u.hold, p.2.pv = false) →
        (finish s u).b0 = u.b0 ∧ (finish s u).hold = u.hold ∧ (finish s u).intr.src = u.intr.src ∧
        ∀ h v, v < 64 → (h * 64 + v) ∈ delivVecs u → (h * 64 + v) ∉ delivVecs s →
          (msgMasked u h v = false → .msix h v ∈ (finish s u).out) ∧
          (msgMasked u h v = true → (h * 64 + v) ∈ (finish s u).intr.held))

/-- What every issue adds (R78), and what the end of a step adds (R160, R161). -/
def Obligations.IssueAndEnd : Prop := IssueCounted ∧ EndOfStep

/-! Objects (R72, R106 to R109). -/

/-- An object was made: OK in G15, Z set, the handle of `slot` in the destination, the next word; the rest of the registers
as before. -/
def Sys2Proof.Machine.HandleGiven (s u : State) (f c : Nat) (x : Ctx) (i : Ins) (slot : Nat) : Prop :=
  ∃ y, u.ctx (ckey f c) = some y ∧ y.gr 15 = 0 ∧ y.z = true ∧ y.kr (i.d - 16) = mkHandle s slot ∧ y.pc = x.pc + 1 + i.xw ∧
    (∀ j, j ≠ 15 → y.gr j = x.gr j) ∧ (∀ j, j ≠ i.d - 16 → y.kr j = x.kr j) ∧ OtherCtx s u (ckey f c) ∧ SameBytes s u

/-- None was made: the code in G15, Z clear, the null handle in the destination. -/
def Sys2Proof.Machine.HandleNone (s u : State) (f c : Nat) (x : Ctx) (i : Ins) (code : Nat) : Prop :=
  ∃ y, u.ctx (ckey f c) = some y ∧ y.gr 15 = BitVec.ofNat 64 code ∧ y.z = false ∧ y.kr (i.d - 16) = 0 ∧
    y.pc = x.pc + 1 + i.xw ∧ u.vid = s.vid ∧ u.job.obj = s.job.obj ∧ OtherCtx s u (ckey f c) ∧ SameBytes s u

/-- The block that SOPEN reads: 64 bytes in device memory at Ga + IMM, aligned to 8, mapped, without poison (R106). -/
def Sys2Proof.Machine.BlockAt (s : State) (x : Ctx) (i : Ins) (off : Nat) : Prop :=
  (x.ea i).toNat % 8 = 0 ∧ place s x.hold (x.ea i) 64 = some (.dev off) ∧ devMapped s x.hold off 64 = true ∧
    devPoison s x.hold off 64 = false

/-- SOPEN of a channel opens the lowest free channel number with the block's parameters (R106, R107, R167): a handle of TYPE 1
is made; the pool and the lookahead are charged to the holding (R182), and the pool's buffers are there; the channel's
interrupt source goes to the holding (R158). Without a unit of channel quota the answer is RESOURCE_POOL and the null handle. -/
def Obligations.ChannelOpen : Prop :=
  ∀ (s : State) (f c : Nat) (x : Ctx) (i : Ins) (off : Nat), c < 32 → Issues s f c 0x60 x i → i.mod % 8 = 0 → BlockAt s x i off →
    let bs := readDev s x.hold off 64
    let b := blkOf bs
    byteAt bs 0 = 1 → zeroFrom bs 43 = true → blkOk b (byteAt bs 3) = true → s.native x.hold = true →
    (chanCount s x.hold < (s.hd x.hold).qChan → dramFits s x.hold (b.pool * b.bufSize + b.lookSize) = true →
      b.pages ≤ reserveFree s → ∀ n slot, (nativeChans s).head? = some n →
      lowestFree s.job.obj 0x100000 0x100000 = some slot →
      ∃ u z, exec (.sopen f c) s = .next (finish s u) ∧ HandleGiven s u f c x i slot ∧
        tget u.job.obj slot = some { hold := x.hold, ref := n } ∧ u.chan n = some z ∧ z.hold = x.hold ∧ z.blk = b ∧
        z.st = .opened ∧ z.slot = slot ∧ (∀ m, m ≠ n → u.chan m = s.chan m) ∧
        (u.hd x.hold).dramBytes = (s.hd x.hold).dramBytes + (b.pool * b.bufSize + b.lookSize) ∧
        (∀ j, j < b.pool → u.buf (s.vid.nextBuf + j) = some { hold := x.hold, chan := some n, size := b.bufSize, depth := b.depth }) ∧
        (∀ m, m < s.vid.nextBuf → u.buf m = s.buf m) ∧
        (u.src (1024 + n)).hold = x.hold ∧ (u.src (1024 + n)).vec = 0 ∧ (u.src (1024 + n)).en = true ∧
        SameParts (s.setVid u.vid) u) ∧
    ((s.hd x.hold).qChan ≤ chanCount s x.hold →
      ∃ u, exec (.sopen f c) s = .next (finish s u) ∧ HandleNone s u f c x i 0x0200 ∧
        (u.hd x.hold).events = (s.hd x.hold).events ||| 8 ∧ SameParts s u)

/-- SOPEN.GROUP and SOPEN.MUX open the lowest free group number, at most 32 and 16 (R285, R277); SOPEN.SEM makes a semaphore
with the count Ga, SOPEN.BAR a barrier of Ga participants, at most 1,024 of both for a holding (R106). -/
def Sys2Proof.Machine.ObjectOpen : Prop :=
  ∀ (s : State) (f c : Nat) (x : Ctx) (i : Ins) (off slot n : Nat), c < 32 → Issues s f c 0x60 x i →
    (i.mod % 8 = 1 → BlockAt s x i off → byteAt (readDev s x.hold off 64) 0 = 6 → zeroFrom (readDev s x.hold off 64) 1 = true →
      lowestFree s.vid.grp 0 32 = some n → lowestFree s.job.obj 0x600000 0x100000 = some slot →
      ∃ u, exec (.sopenGroup f c) s = .next (finish s u) ∧ HandleGiven s u f c x i slot ∧
        tget u.job.obj slot = some { hold := x.hold, ref := n } ∧ tget u.vid.grp n = some { hold := x.hold } ∧
        u.vid.chan = s.vid.chan ∧ u.vid.buf = s.vid.buf ∧ SameParts (s.setVid u.vid) u ∧ SameRegs s u) ∧
    (i.mod % 8 = 2 → BlockAt s x i off → byteAt (readDev s x.hold off 64) 0 = 7 →
      zeroFrom ((readDev s x.hold off 64).take 20) 1 = true → zeroFrom (readDev s x.hold off 64) 24 = true →
      lowestFree s.vid.mux 0 16 = some n → lowestFree s.job.obj 0x700000 0x100000 = some slot →
      ∃ u, exec (.sopenMux f c) s = .next (finish s u) ∧ HandleGiven s u f c x i slot ∧
        tget u.job.obj slot = some { hold := x.hold, ref := n } ∧
        tget u.vid.mux n = some { hold := x.hold, rate := leAt (readDev s x.hold off 64) 20 4 } ∧
        u.vid.chan = s.vid.chan ∧ u.vid.buf = s.vid.buf ∧ SameParts (s.setVid u.vid) u ∧ SameRegs s u) ∧
    (i.mod % 8 = 3 → i.imm = 0 → (x.gr i.a).toNat < 2 ^ 32 → syncCount s x.hold < 1024 →
      lowestFree s.job.obj 0x800000 0x10000 = some slot →
      ∃ u, exec (.sopenSem f c) s = .next u ∧ HandleGiven s u f c x i slot ∧
        tget u.job.obj slot = some { hold := x.hold, ref := slot % 0x100000 } ∧
        tget u.job.sem (slot % 0x100000) = some { hold := x.hold, count := (x.gr i.a).toNat } ∧ SameParts s u ∧ SameRegs s u) ∧
    (i.mod % 8 = 4 → i.imm = 0 → 2 ≤ (x.gr i.a).toNat → (x.gr i.a).toNat ≤ 256 → syncCount s x.hold < 1024 →
      lowestFree s.job.obj 0x900000 0x10000 = some slot →
      ∃ u, exec (.sopenBar f c) s = .next u ∧ HandleGiven s u f c x i slot ∧
        tget u.job.obj slot = some { hold := x.hold, ref := slot % 0x100000 } ∧
        tget u.job.bar (slot % 0x100000) = some { hold := x.hold, parts := (x.gr i.a).toNat } ∧ SameParts s u ∧ SameRegs s u) ∧
    (i.mod % 8 = 4 → i.imm = 0 → (x.gr i.a).toNat < 2 ∨ 256 < (x.gr i.a).toNat →
      ∃ u, exec (.sopenBar f c) s = .next u ∧ Faults s u f c x 0x0105)

/-- SCLOSE of a channel makes its handle invalid, sets it DRAINING and holds the job's completion until it has drained (R87,
R109, R174); of a semaphore it frees the object, its handle's generation advancing (R72). The drained channel is CLOSED: its
number is free, and no job waits for it (R176). -/
def Sys2Proof.Machine.ObjectClose : Prop :=
  (∀ (s : State) (f c : Nat) (x : Ctx) (i : Ins) (o : Obj), c < 32 → Issues s f c 0x61 x i →
    useHandle s x.hold [1, 4, 5, 6, 7, 8, 9] (x.hnd i.a) = some o →
    (∀ z, hType (x.hnd i.a) = 1 → s.chan o.ref = some z → rungOpen s z = false →
      ∃ u y, exec (.sclose f c) s = .next (finish s u) ∧ u.ctx (ckey f c) = some y ∧ y.pc = x.pc + 1 + i.xw ∧
        SameFile x y ∧ y.drains = insNat x.drains o.ref ∧ tget u.job.obj z.slot = none ∧
        u.chan o.ref = some { z with st := .draining, slot := 0 } ∧ (∀ m, m ≠ o.ref → u.chan m = s.chan m) ∧
        u.vid.buf = s.vid.buf ∧ OtherCtx s u (ckey f c) ∧ SameBytes s u) ∧
    (∀ m, hType (x.hnd i.a) = 8 → tget s.job.sem o.ref = some m → m.waiters = [] →
      ∃ u y, exec (.sclose f c) s = .next (finish s u) ∧ u.ctx (ckey f c) = some y ∧ y.pc = x.pc + 1 + i.xw ∧
        SameFile x y ∧ tget u.job.obj (hSlot (x.hnd i.a)) = none ∧
        tgetD u.job.gen (hSlot (x.hnd i.a)) 0 = (tgetD s.job.gen (hSlot (x.hnd i.a)) 0 + 1) % 256 ∧
        tget u.job.sem o.ref = none ∧ u.job.bar = s.job.bar ∧ SameParts s u ∧ SameRegs s u ∧ OtherCtx s u (ckey f c) ∧
        SameBytes s u)) ∧
  (∀ (s : State) (c : Nat) (z : Chan), s.chan c = some z → z.st = .draining → drained s c z = true → z.grp = none →
    egrFlowsOf s c = [] →
    ∃ u, exec (.channelDrainComplete c) s = .next (finish s u) ∧ u.chan c = none ∧ (∀ m, m ≠ c → u.chan m = s.chan m) ∧
      (∀ k y, s.ctx k = some y → u.ctx k = some { y with drains := remNat y.drains c }) ∧
      SameBytes s u)

/-- The other objects of SOPEN, and SCLOSE (R72, R106, R109). -/
def Obligations.Objects : Prop := ObjectOpen ∧ ObjectClose

/-! Parameters (R111, R260, R277 to R279, R285, R287, R298, R299, R304). -/

/-- The instruction is done: its context moves to the next word and keeps its registers and flags; no other context and no
byte of memory changes. -/
def Sys2Proof.Machine.Went (s u : State) (f c : Nat) (x : Ctx) (i : Ins) : Prop :=
  ∃ y, u.ctx (ckey f c) = some y ∧ y.pc = x.pc + 1 + i.xw ∧ SameFile x y ∧ SameJob x y ∧ OtherCtx s u (ckey f c) ∧ SameBytes s u

/-- The same, with a status code in G15 and Z (R71). -/
def Sys2Proof.Machine.Reported (s u : State) (f c : Nat) (x : Ctx) (i : Ins) (code : Nat) : Prop :=
  ∃ y, u.ctx (ckey f c) = some y ∧ y.pc = x.pc + 1 + i.xw ∧ y.gr 15 = BitVec.ofNat 64 code ∧ y.z = decide (code = 0) ∧
    (∀ j, j ≠ 15 → y.gr j = x.gr j) ∧ (∀ j, y.kr j = x.kr j) ∧ y.n = x.n ∧ y.c = x.c ∧ y.t = x.t ∧
    OtherCtx s u (ckey f c) ∧ SameBytes s u

/-- SPARAM without GET on an object, its parameter `id`. -/
def Sys2Proof.Machine.Sets (s : State) (f c : Nat) (x : Ctx) (i : Ins) (o : Obj) (id : Nat) : Prop :=
  Issues s f c 0x62 x i ∧ i.mod % 2 = 0 ∧ i.imm.toNat = id ∧ id < 65536 ∧ useHandle s x.hold paramTypes (x.hnd i.a) = some o

/-- SPARAM of a channel (R111): a parameter in its range takes the value of B (R260), out of range the job faults; HOME is
kept for the next picture boundary (R68); BITRATE and MAXRATE set the block's rate where its mode uses it and it passes
SOPEN's checks, and have no effect in a mode that does not (R111); FORCE_IDR sets or cancels the request, on a group for every
rung (R287). Nothing else of the channel changes. -/
def Sys2Proof.Machine.ChannelParams : Prop :=
  ∀ (s : State) (f c : Nat) (x : Ctx) (i : Ins) (o : Obj) (id : Nat) (z : Chan), c < 32 → Sets s f c x i o id →
    s.chan o.ref = some z →
    let v := (x.reg i.b).toNat
    (∀ lo hi, hType (x.hnd i.a) = 1 → ownParam id = false → parRange z id = some (lo, hi) → parKind z.blk id = true →
      (lo ≤ v → v ≤ hi → ∃ u p, exec (.sparam f c) s = .next u ∧ Went s u f c x i ∧ u.chan o.ref = some { z with par := p } ∧
        tgetD p id (parDflt z.blk id) = v ∧ (∀ j, j ≠ id → tget p j = tget z.par j) ∧ (∀ m, m ≠ o.ref → u.chan m = s.chan m) ∧
        SameParts (s.setVid u.vid) u ∧ SameRegs s u) ∧
      (v < lo ∨ hi < v → ∃ u, exec (.sparam f c) s = .next u ∧ Faults s u f c x 0x0105)) ∧
    (hType (x.hnd i.a) = 1 → id = 0x10 → v ≤ 7 → ∃ u, exec (.sparamHome f c) s = .next u ∧ Went s u f c x i ∧
      u.chan o.ref = some { z with homeSet := some v } ∧ (∀ m, m ≠ o.ref → u.chan m = s.chan m) ∧
      SameParts (s.setVid u.vid) u ∧ SameRegs s u) ∧
    (hType (x.hnd i.a) = 1 → id = 0x20 → z.blk.enc = true → ∃ u, exec (.sparamBitrate f c) s = .next u ∧
      (2 ≤ z.blk.rcMode → ratesOk { z.blk with bitrate := v } = true →
        Went s u f c x i ∧ u.chan o.ref = some { z with blk := { z.blk with bitrate := v } } ∧
        (∀ m, m ≠ o.ref → u.chan m = s.chan m) ∧ SameRegs s u) ∧
      (2 ≤ z.blk.rcMode → ratesOk { z.blk with bitrate := v } = false → Faults s u f c x 0x0105) ∧
      (z.blk.rcMode < 2 → Went s u f c x i ∧ u.vid = s.vid ∧ SameRegs s u)) ∧
    (hType (x.hnd i.a) = 1 → id = 0x24 → v ≤ 1 → z.blk.enc = true → z.grp = none →
      ∃ u, exec (.sparamForceIdr f c) s = .next u ∧ Went s u f c x i ∧ u.chan o.ref = some { z with idr := decide (v = 1) } ∧
        (∀ m, m ≠ o.ref → u.chan m = s.chan m) ∧ SameRegs s u) ∧
    (∀ g, hType (x.hnd i.a) = 6 → id = 0x24 → v ≤ 1 → tget s.vid.grp o.ref = some g →
      ∃ u, exec (.sparamForceIdr f c) s = .next u ∧ Went s u f c x i ∧ SameRegs s u ∧
        (∀ r m w, tget g.rungs r = some m → s.chan m = some w → u.chan m = some { w with idr := decide (v = 1) }) ∧
        ∀ m, (∀ p ∈ g.rungs, p.2 ≠ m) → u.chan m = s.chan m)

/-- SPARAM of a group or a buffer (R111): RUNG takes a distribution encode channel that is in no group, a channel the rung had
leaves (R285); MUX_MEMBER adds a channel of RC_MODE 5 while the members' minimums fit (R277); MUX_RATE waits for the next tick
(R279); LADDER_DEPTH holds before the first ENC.LADDER (R299); the format of a buffer is taken if the buffer is large enough
(R298). -/
def Obligations.GroupParams : Prop :=
  ∀ (s : State) (f c : Nat) (x : Ctx) (i : Ins) (o : Obj) (id : Nat), c < 32 → Sets s f c x i o id →
    let v := (x.reg i.b).toNat
    (∀ g m z, hType (x.hnd i.a) = 6 → 0x30 ≤ id → id ≤ 0x3B → tget s.vid.grp o.ref = some g → g.fixed = false →
      valueChan s x.hold (x.reg i.b) = some m → s.chan m = some z → z.blk.enc = true → z.blk.live = false → z.grp = none →
      ∃ u, exec (.sparamRung f c) s = .next u ∧ Went s u f c x i ∧ SameRegs s u ∧
        tget u.vid.grp o.ref = some { g with rungs := tset g.rungs (id - 0x30) m } ∧
        u.chan m = some { z with grp := some (o.ref, id - 0x30) } ∧
        (∀ q w, tget g.rungs (id - 0x30) = some q → q ≠ m → s.chan q = some w → u.chan q = some { w with grp := none }) ∧
        ∀ q, q ≠ m → tget g.rungs (id - 0x30) ≠ some q → u.chan q = s.chan q) ∧
    (hType (x.hnd i.a) = 6 → 0x30 ≤ id → id ≤ 0x3B → valueChan s x.hold (x.reg i.b) = none →
      ∃ u, exec (.sparamRung f c) s = .next u ∧ Faults s u f c x 0x0101) ∧
    (∀ g m z, hType (x.hnd i.a) = 7 → id = 0x40 → tget s.vid.mux o.ref = some g →
      valueChan s x.hold (x.reg i.b) = some m → s.chan m = some z → z.blk.enc = true → z.blk.live = false →
      z.blk.rcMode = 5 → z.mux = none →
      (∀ a w, g.members.head? = some a → s.chan a = some w → w.blk.num * z.blk.den = z.blk.num * w.blk.den) →
      g.members.length < 32 →
      ∃ u, exec (.sparamMuxMember f c) s = .next u ∧
        (muxMins s (m :: g.members) ≤ g.rate → Went s u f c x i ∧ SameRegs s u ∧
          tget u.vid.mux o.ref = some { g with members := g.members ++ [m] } ∧
          u.chan m = some { z with mux := some o.ref } ∧ ∀ q, q ≠ m → u.chan q = s.chan q) ∧
        (g.rate < muxMins s (m :: g.members) → Faults s u f c x 0x0105)) ∧
    (∀ g, hType (x.hnd i.a) = 7 → id = 0x41 → tget s.vid.mux o.ref = some g → v < 2 ^ 32 →
      ∃ u, exec (.sparamMuxRate f c) s = .next u ∧
        (muxMins s g.members ≤ v → Went s u f c x i ∧ SameRegs s u ∧ u.vid.chan = s.vid.chan ∧
          tget u.vid.mux o.ref = some { g with next := some v }) ∧
        (v < muxMins s g.members → Faults s u f c x 0x0105)) ∧
    (∀ g, hType (x.hnd i.a) = 6 → id = 0x200 → tget s.vid.grp o.ref = some g → v ≤ 1 →
      ∃ u, exec (.sparamLadderDepth f c) s = .next u ∧
        (g.fixed = false → Went s u f c x i ∧ SameRegs s u ∧ u.vid.chan = s.vid.chan ∧
          tget u.vid.grp o.ref = some { g with deep := decide (v = 1) }) ∧
        (g.fixed = true → Faults s u f c x 0x0105)) ∧
    (∀ b, hType (x.hnd i.a) = 3 → s.buf o.ref = some b →
      (id = 0x210 ∧ 16 ≤ v ∧ v ≤ 8192) ∨ (id = 0x211 ∧ 16 ≤ v ∧ v ≤ 4352) ∨ (id = 0x212 ∧ v ≤ 3) ∨
        (id = 0x213 ∧ v ∈ [8, 10, 12, 16, 20]) →
      ∃ u, exec (.sparamBufFormat f c) s = .next u ∧
        ({ b with par := tset b.par id v }.needs ≤ b.size → Went s u f c x i ∧ SameRegs s u ∧ u.vid.chan = s.vid.chan ∧
          u.buf o.ref = some { b with par := tset b.par id v }.format ∧ ∀ m, m ≠ o.ref → u.buf m = s.buf m) ∧
        (b.size < { b with par := tset b.par id v }.needs → Faults s u f c x 0x0105))

/-- SPARAM with GET reads a channel's parameter into D (R108): its value now, or HOME's, BITRATE's, MAXRATE's. -/
def Sys2Proof.Machine.ParamGet : Prop :=
  ∀ (s : State) (f c : Nat) (x : Ctx) (i : Ins) (o : Obj) (z : Chan), c < 32 → Issues s f c 0x62 x i → i.mod % 2 = 1 →
    i.imm.toNat < 65536 → useHandle s x.hold paramTypes (x.hnd i.a) = some o → hType (x.hnd i.a) = 1 → s.chan o.ref = some z →
    let id := i.imm.toNat
    ∀ v, (id = 0x10 ∧ v = z.home) ∨ (z.blk.enc = true ∧ id = 0x20 ∧ v = z.blk.bitrate) ∨
        (z.blk.enc = true ∧ id = 0x21 ∧ v = z.blk.maxrate) ∨
        (parKind z.blk id = true ∧ (parRange z id).isSome ∧ v = z.par_ id) →
      ∃ u y, exec (.sparamGet f c) s = .next u ∧ u.ctx (ckey f c) = some y ∧ y.pc = x.pc + 1 + i.xw ∧
        (i.d < 16 → y.gr i.d = BitVec.ofNat 64 v ∧ OnlyG x y i.d) ∧
        (16 ≤ i.d → y.kr (i.d - 16) = BitVec.ofNat 32 v ∧ (∀ j, y.gr j = x.gr j) ∧ ∀ j, j ≠ i.d - 16 → y.kr j = x.kr j) ∧
        y.z = x.z ∧ y.n = x.n ∧ y.c = x.c ∧ SameJob x y ∧ OnlyCtx s u f c

/-- SPARAM of a channel, and SPARAM with GET (R108, R111). -/
def Obligations.ChannelParameters : Prop := ChannelParams ∧ ParamGet

/-! Pictures and buffers (R108, R110, R176, R183 to R191). -/

/-- PALLOC gives the lowest free buffer of the channel's pool, with one claim, or RESOURCE_POOL, the null handle and the
POOL_SHORT event (R108, R183 to R185); PALLOC.B a plain buffer of whole pages from the DRAM quota; PFREE drops the claim, and a
plain buffer's last claim gives its bytes back (R73, R176). -/
def Obligations.BufferClaims : Prop :=
  ∀ (s : State) (f c : Nat) (x : Ctx) (i : Ins), c < 32 →
    (∀ o z n b slot, Issues s f c 0x63 x i → i.mod % 2 = 0 → useHandle s x.hold [1] (x.hnd i.a) = some o →
      s.chan o.ref = some z → (freeBufs s o.ref).head? = some n → s.buf n = some b →
      lowestFree s.job.obj 0x200000 0x100000 = some slot →
      ∃ u, exec (.palloc f c) s = .next (finish s u) ∧ HandleGiven s u f c x i slot ∧
        tget u.job.obj slot = some { hold := x.hold, ref := n } ∧
        u.buf n = some { b.fresh with handles := 1, hdr := blankHdr z.blk, planes := b.planes, motion := b.motion } ∧
        (∀ m, m ≠ n → u.buf m = s.buf m) ∧ u.vid.chan = s.vid.chan ∧ SameParts (s.setVid u.vid) u ∧ SameRegs s u) ∧
    (∀ o z, Issues s f c 0x63 x i → i.mod % 2 = 0 → useHandle s x.hold [1] (x.hnd i.a) = some o →
      s.chan o.ref = some z → freeBufs s o.ref = [] →
      ∃ u, exec (.palloc f c) s = .next (finish s u) ∧ HandleNone s u f c x i 0x0200 ∧
        u.rch o.ref B.chnEvent = s.rch o.ref B.chnEvent ||| 64) ∧
    (∀ at_ slot, let n := (x.gr i.a).toNat
      Issues s f c 0x63 x i → i.mod % 2 = 1 → 0 < n → n ≤ 2 ^ 32 → dramFits s x.hold (pageUp n) = true →
      bufPlace s x.hold at_ (pageUp n) = true → lowestFree s.job.obj 0x300000 0x100000 = some slot →
      ∃ u, exec (.pallocB f c at_) s = .next (finish s u) ∧ HandleGiven s u f c x i slot ∧
        tget u.job.obj slot = some { hold := x.hold, ref := s.vid.nextBuf } ∧
        u.buf s.vid.nextBuf = some { hold := x.hold, pic := false, size := pageUp n, addr := at_, handles := 1 } ∧
        (u.hd x.hold).dramBytes = (s.hd x.hold).dramBytes + pageUp n ∧ (∀ m, m ≠ s.vid.nextBuf → u.buf m = s.buf m) ∧
        u.vid.chan = s.vid.chan ∧ SameParts (s.setVid u.vid) u) ∧
    (∀ at_, let n := (x.gr i.a).toNat
      Issues s f c 0x63 x i → i.mod % 2 = 1 → 0 < n → n ≤ 2 ^ 32 → dramFits s x.hold (pageUp n) = false →
      ∃ u, exec (.pallocB f c at_) s = .next (finish s u) ∧ HandleNone s u f c x i 0x0200 ∧
        (u.hd x.hold).events = (s.hd x.hold).events ||| 8) ∧
    (∀ o b, Issues s f c 0x64 x i → useHandle s x.hold [2, 3] (x.hnd i.a) = some o → s.buf o.ref = some b →
      ∃ u, exec (.pfree f c) s = .next u ∧ Went s u f c x i ∧ tget u.job.obj (hSlot (x.hnd i.a)) = none ∧
        tgetD u.job.gen (hSlot (x.hnd i.a)) 0 = (tgetD s.job.gen (hSlot (x.hnd i.a)) 0 + 1) % 256 ∧
        (b.chan ≠ none → u.buf o.ref = some { b with handles := b.handles - 1 } ∧ u.hold = s.hold) ∧
        (b.chan = none → b.handles = 1 → bufClaims s o.ref = 1 →
          u.buf o.ref = none ∧ (u.hd b.hold).dramBytes = (s.hd b.hold).dramBytes - b.size) ∧
        (∀ m, m ≠ o.ref → u.buf m = s.buf m) ∧ u.vid.chan = s.vid.chan)

/-- PMARK HOLD pins a picture of a pool while more unpinned buffers than the minimum are left, and is refused with
RESOURCE_POOL otherwise; UNHOLD clears the pin (R108, R187). PLTR.SET, LOSS and DROP act on the long-term slots of a live-link
encode channel, ACK marks the slots that hold the picture, or reports OK_LTR_STALE (R110, R190, R191). -/
def Obligations.PinsAndLongTerm : Prop :=
  ∀ (s : State) (f c : Nat) (x : Ctx) (i : Ins) (o : Obj), c < 32 →
    (∀ b m z, Issues s f c 0x65 x i → i.imm = 1 → useHandle s x.hold [2, 3] (x.hnd i.a) = some o → s.buf o.ref = some b →
      b.pic = true → b.chan = some m → s.chan m = some z → b.held = false →
      ∃ u, exec (.pmarkHold f c) s = .next (finish s u) ∧
        (minPool z.blk < unpinned s m → Reported s u f c x i 0 ∧ u.buf o.ref = some { b with held := true } ∧
          (∀ n, n ≠ o.ref → u.buf n = s.buf n) ∧ u.vid.chan = s.vid.chan ∧ SameRegs s u) ∧
        (unpinned s m ≤ minPool z.blk → Reported s u f c x i 0x0200 ∧ u.vid = s.vid ∧
          u.rch m B.chnEvent = s.rch m B.chnEvent ||| 64)) ∧
    (∀ b, Issues s f c 0x65 x i → i.imm = 0 → useHandle s x.hold [2, 3] (x.hnd i.a) = some o → s.buf o.ref = some b →
      b.pic = true → ∃ u, exec (.pmarkUnhold f c) s = .next u ∧ Reported s u f c x i 0 ∧
        u.buf o.ref = some { b with held := false } ∧ (∀ n, n ≠ o.ref → u.buf n = s.buf n) ∧ u.vid.chan = s.vid.chan ∧
        SameRegs s u) ∧
    (∀ z, Issues s f c 0x66 x i → useHandle s x.hold [1] (x.hnd i.a) = some o → s.chan o.ref = some z →
      z.blk.live = true → z.blk.enc = true →
      (i.mod % 4 = 0 → z.blk.codec ≠ 0 → (x.gr i.b).toNat ≤ 3 →
        ∃ u, exec (.pltrSet f c) s = .next u ∧ Went s u f c x i ∧ SameRegs s u ∧ u.vid.buf = s.vid.buf ∧
          u.chan o.ref = some { z with ltrSet := some (x.gr i.b).toNat }) ∧
      (i.mod % 4 = 1 → z.blk.codec ≠ 0 → (∃ j l, tget z.ltr j = some l ∧ l.counter.toNat = (x.gr i.b).toNat) →
        ∃ u l', exec (.pltrAck f c) s = .next u ∧ Reported s u f c x i 0 ∧ SameRegs s u ∧ u.vid.buf = s.vid.buf ∧
          u.chan o.ref = some { z with ltr := l' } ∧
          ∀ j, tget l' j = (tget z.ltr j).map fun l => if l.counter.toNat = (x.gr i.b).toNat then { l with ack := true } else l) ∧
      (i.mod % 4 = 1 → z.blk.codec ≠ 0 → (∀ p ∈ z.ltr, p.2.counter.toNat ≠ (x.gr i.b).toNat) →
        ∃ u, exec (.pltrAck f c) s = .next u ∧ Reported s u f c x i 0x0004 ∧ SameRegs s u ∧ u.vid = s.vid) ∧
      (i.mod % 4 = 2 → ∃ u, exec (.pltrLoss f c) s = .next u ∧ Went s u f c x i ∧ SameRegs s u ∧ u.vid.buf = s.vid.buf ∧
          u.chan o.ref = some { z with loss := true }) ∧
      (∀ l, i.mod % 4 = 3 → z.blk.codec ≠ 0 → (x.gr i.b).toNat ≤ 3 → tget z.ltr (x.gr i.b).toNat = some l →
        ∃ u l', exec (.pltrDrop f c) s = .next u ∧ Went s u f c x i ∧ u.chan o.ref = some { z with ltr := l' } ∧
          tget l' (x.gr i.b).toNat = none ∧ (∀ j, j ≠ (x.gr i.b).toNat → tget l' j = tget z.ltr j) ∧
          (∀ b, s.buf l.buf = some b → b.chan ≠ none →
            (∀ p ∈ z.ltr, p.1 ≠ (x.gr i.b).toNat → p.2.buf ≠ l.buf) → u.buf l.buf = some { b with mark := .none })))

/-! Video instructions (R90, R95, R112 to R117): issue. -/

/-- The instruction is outstanding as `w`, under the next number; its context goes on at the next word (R79, R95). -/
def Sys2Proof.Machine.Started (s u : State) (f c : Nat) (x : Ctx) (i : Ins) (w : Work) : Prop :=
  Went s u f c x i ∧ tget u.job.work s.job.nextWork = some w ∧ w.ctx = ckey f c ∧ w.hold = x.hold ∧ w.d = i.d

/-- The instruction has ended at issue: its status code in D, nothing outstanding. -/
def Sys2Proof.Machine.EndedNow (s u : State) (f c : Nat) (x : Ctx) (i : Ins) (code : Nat) : Prop :=
  ∃ y, u.ctx (ckey f c) = some y ∧ y.pc = x.pc + 1 + i.xw ∧ y.gr i.d = BitVec.ofNat 64 code ∧ OnlyG x y i.d ∧
    u.job.work = s.job.work ∧ u.vid = s.vid ∧ OtherCtx s u (ckey f c) ∧ SameBytes s u

/-- An instruction that needs engines and has no grant waits for one: it has not issued, and its request for its class stands
last (R90); a class that is too low faults the job (R84, R117). DEC.PIC needs class 2, ENC.PIC class 3. -/
def Sys2Proof.Machine.EngineWait : Prop :=
  ∀ (s : State) (f c : Nat) (x : Ctx) (i : Ins) (o : Obj) (z : Chan), c < 32 → Issues s f c 0x80 x i →
    useHandle s x.hold [1] (x.hnd i.b) = some o → s.chan o.ref = some z → z.blk.dec = true → z.st ≠ .failed →
    (2 ≤ x.cls → x.granted = false → (∀ q ∈ s.yoke.reqs, q.key ≠ ckey f c) →
      ∃ u, exec (.decPic f c) s = .next (finish s u) ∧ u.ctx (ckey f c) = some { x with wait := .grant } ∧
        u.yoke = { s.yoke with reqs := s.yoke.reqs ++
          [{ key := ckey f c, field := ckey f c / 32, hold := x.hold, cls := x.cls, live := z.blk.live, fallow := 0 }] } ∧
        SameParts { s with yoke := u.yoke } u ∧ SameRegs s u ∧ SameJobs s u ∧ u.b2 = s.b2 ∧ OtherCtx s u (ckey f c)) ∧
    (x.cls < 2 → ∃ u, exec (.decPic f c) s = .next (finish s u) ∧ Faults s u f c x 0x0104)

/-- DEC.PIC becomes outstanding on a decode channel, with the handle of its new picture in Kp, empty until it is decoded
(R112, R113, R226); on a FAILED channel it ends with STREAM_UNRECOVERABLE (R175). -/
def Sys2Proof.Machine.DecodeIssue : Prop :=
  ∀ (s : State) (f c : Nat) (x : Ctx) (i : Ins) (o : Obj) (z : Chan) (slot : Nat), c < 32 → Issues s f c 0x80 x i →
    useHandle s x.hold [1] (x.hnd i.b) = some o → s.chan o.ref = some z → z.blk.dec = true →
    lowestFree s.job.obj 0x200000 0x100000 = some slot →
    (z.st ≠ .failed → 2 ≤ x.cls → x.granted = true →
      ∃ u y z' w, exec (.decPic f c) s = .next (finish s u) ∧ u.ctx (ckey f c) = some y ∧ y.pc = x.pc + 1 + i.xw ∧
        y.kr (i.a - 16) = mkHandle s slot ∧ (∀ j, y.gr j = x.gr j) ∧ (∀ j, j ≠ i.a - 16 → y.kr j = x.kr j) ∧
        tget u.job.work s.job.nextWork = some w ∧ w.ctx = ckey f c ∧ w.hold = x.hold ∧ w.d = i.d ∧ w.engine = true ∧
        w.kind = .decPic o.ref (some slot) (i.mod.testBit 0) (i.mod.testBit 1) ∧
        tget u.job.obj slot = some { hold := x.hold, ref := s.vid.nextBuf } ∧
        u.buf s.vid.nextBuf = some { hold := x.hold, empty := true, handles := 1, rows := true } ∧
        u.chan o.ref = some z' ∧ z'.st = (if z.st = .opened then .running else z.st) ∧ z'.begun = true ∧
        (∀ m, m ≠ o.ref → u.chan m = s.chan m) ∧ (∀ m, m ≠ s.vid.nextBuf → u.buf m = s.buf m) ∧
        OtherCtx s u (ckey f c) ∧ SameBytes s u ∧ SameRegs s u) ∧
    (z.st = .failed → i.d < 16 →
      ∃ u y, exec (.decPic f c) s = .next (finish s u) ∧ u.ctx (ckey f c) = some y ∧ y.pc = x.pc + 1 + i.xw ∧
        y.gr i.d = 0x0500 ∧ y.kr (i.a - 16) = mkHandle s slot ∧ u.job.work = s.job.work ∧ u.vid.chan = s.vid.chan ∧
        u.buf s.vid.nextBuf = some { hold := x.hold, empty := true, handles := 1 } ∧ OtherCtx s u (ckey f c) ∧ SameBytes s u)

/-- DEC.PIC at its issue (R90, R112). -/
def Obligations.DecodeStarts : Prop := EngineWait ∧ DecodeIssue

/-- A source of an encode, an analysis or a conversion: a picture or a formatted buffer that is not an empty picture. -/
def Sys2Proof.Machine.Source (b : Buf) : Prop := srcOk b = true ∧ (b.empty = true → b.rows = true)

/-- ENC.PIC is accepted by an encode channel: the source enters the lookahead under the channel's picture counter, which
advances (R112, R189, R192, R240); ENC.LADDER by every rung of a group, whose rungs it fixes (R285, R288); ANALYZE is started
(R246). A source of another chroma format ends with STREAM_SOURCE, an empty one with STREAM_NO_PICTURE (R226, R239). -/
def Obligations.EncodeIssue : Prop :=
  ∀ (s : State) (f c : Nat) (x : Ctx) (i : Ins) (o p : Obj) (b : Buf), c < 32 →
    useHandle s x.hold [2, 3] (x.hnd i.b) = some p → s.buf p.ref = some b → srcOk b = true →
    (∀ z, Issues s f c 0x81 x i → useHandle s x.hold [1] (x.hnd i.a) = some o → s.chan o.ref = some z → z.blk.enc = true →
      z.grp = none → z.st ≠ .failed →
      (Source b → srcChroma s p.ref b = z.blk.chroma → 3 ≤ x.cls → x.granted = true →
        ∃ u z' q w, exec (.encPic f c) s = .next (finish s u) ∧ Started s u f c x i w ∧ w.engine = true ∧
          w.kind = .encPic o.ref p.ref (if z.filled < z.blk.look then some z.counter else none) ∧
          u.chan o.ref = some z' ∧ z'.counter = z.counter + 1 ∧ z'.look = z.look ++ [q] ∧ q.counter = z.counter ∧
          q.src = some p.ref ∧ q.work = s.job.nextWork ∧ q.ltrSet = z.ltrSet ∧ q.loss = z.loss ∧ q.idr = z.idr ∧
          z'.ltrSet = none ∧ z'.loss = false ∧ z'.idr = false ∧ (∀ m, m ≠ o.ref → u.chan m = s.chan m) ∧
          u.vid.buf = s.vid.buf ∧ SameRegs s u) ∧
      (b.empty = true → b.rows = false → ∃ u, exec (.encPic f c) s = .next (finish s u) ∧ EndedNow s u f c x i 0x0503) ∧
      (Source b → srcChroma s p.ref b ≠ z.blk.chroma →
        ∃ u, exec (.encPic f c) s = .next (finish s u) ∧ EndedNow s u f c x i 0x0504)) ∧
    (∀ g m z, Issues s f c 0x82 x i → useHandle s x.hold [6] (x.hnd i.a) = some o → tget s.vid.grp o.ref = some g →
      tget g.rungs 0 = some m → s.chan m = some z → g.fixed = true ∨ rungsOk s g = true → Source b →
      srcChroma s p.ref b = z.blk.chroma → 3 ≤ x.cls → x.granted = true → (g.rungs.map (·.2)).Nodup →
      ∃ u g' q w, exec (.encLadder f c) s = .next (finish s u) ∧ Started s u f c x i w ∧ w.engine = true ∧
        w.kind = .encLadder o.ref p.ref (if g.filled < z.blk.look then some z.counter else none) ∧
        tget u.vid.grp o.ref = some g' ∧ g'.fixed = true ∧ g'.rungs = g.rungs ∧ g'.look = g.look ++ [q] ∧
        q.counter = z.counter ∧ q.src = some p.ref ∧ q.work = s.job.nextWork ∧
        (∀ r ∈ g.rungs, ∀ v, s.chan r.2 = some v → ∃ v', u.chan r.2 = some v' ∧ v'.counter = v.counter + 1 ∧ v'.idr = false) ∧
        u.vid.buf = s.vid.buf ∧ SameRegs s u) ∧
    (∀ z, Issues s f c 0x83 x i → useHandle s x.hold [1] (x.hnd i.a) = some o → s.chan o.ref = some z → z.blk.enc = true →
      z.grp = none → z.st ≠ .failed → Source b → srcChroma s p.ref b = z.blk.chroma → 3 ≤ x.cls → x.granted = true →
      ∃ u z' w, exec (.analyze f c) s = .next (finish s u) ∧ Started s u f c x i w ∧ w.engine = true ∧
        w.kind = .analyze o.ref p.ref ∧ u.chan o.ref = some z' ∧ z'.counter = z.counter ∧ z'.look = z.look ∧
        u.vid.buf = s.vid.buf ∧ SameRegs s u)

/-- SCALE and CONVERT are started with their destination in the ROWS state (R81, R113, R294, R296, R300); geometry that the
rules do not allow faults the job; colour descriptions that CONVERT does not take end it with STREAM_COLOUR. -/
def Obligations.ScaleIssue : Prop :=
  ∀ (s : State) (f c : Nat) (x : Ctx) (i : Ins) (o p : Obj) (d b : Buf) (sh : Nat × Nat × Nat × Nat), c < 32 →
    useHandle s x.hold [2, 3] (x.hnd i.a) = some o → useHandle s x.hold [2, 3] (x.hnd i.b) = some p →
    s.buf o.ref = some d → s.buf p.ref = some b → outShape s d = some sh → Source b →
    (Issues s f c 0x84 x i →
      (scaleOk s x i p.ref b sh = true → 2 ≤ x.cls → x.granted = true →
        ∃ u w, exec (.scale f c) s = .next (finish s u) ∧ Started s u f c x i w ∧ w.engine = true ∧ w.uses = [o.ref, p.ref] ∧
          w.kind = .scale o.ref p.ref (cropOf x i).1 (cropOf x i).2.1 (cropOf x i).2.2.1 (cropOf x i).2.2.2 (i.mod.testBit 0) ∧
          u.buf o.ref = some { d with rows := true, rowsPub := 0 } ∧ (∀ m, m ≠ o.ref → u.buf m = s.buf m) ∧
          u.vid.chan = s.vid.chan ∧ SameRegs s u) ∧
      (scaleOk s x i p.ref b sh = false → ∃ u, exec (.scale f c) s = .next (finish s u) ∧ Faults s u f c x 0x0105)) ∧
    (Issues s f c 0x85 x i →
      (convertOk s x i p.ref b sh = true → b.rows = true ∨ coloursOk s d b = true → 2 ≤ x.cls → x.granted = true →
        ∃ u w, exec (.convert f c) s = .next (finish s u) ∧ Started s u f c x i w ∧ w.engine = true ∧ w.uses = [o.ref, p.ref] ∧
          w.kind = .convert o.ref p.ref (i.mod.testBit 0) ∧ u.buf o.ref = some { d with rows := true, rowsPub := 0 } ∧
          (∀ m, m ≠ o.ref → u.buf m = s.buf m) ∧ u.vid.chan = s.vid.chan ∧ SameRegs s u) ∧
      (convertOk s x i p.ref b sh = true → b.rows = false → coloursOk s d b = false →
        ∃ u, exec (.convert f c) s = .next (finish s u) ∧ EndedNow s u f c x i 0x0505))

/-- STATS, XFER, FILL, PACK and PACK.IN are started after their checks (R112, R115): a buffer of 32 bytes or more aligned to
16 for STATS; a length that is not 0 and whole ranges within bounds for XFER and FILL, else the job faults (R76). -/
def Obligations.MoveIssue : Prop :=
  ∀ (s : State) (f c : Nat) (x : Ctx) (i : Ins) (o : Obj), c < 32 →
    (∀ z p, Issues s f c 0x86 x i → i.imm.toNat < 32 → useHandle s x.hold [1] (x.hnd i.a) = some o → s.chan o.ref = some z →
      z.st ≠ .failed → 32 ≤ (extraWord x).toNat → (x.gr i.b).toNat % 16 = 0 →
      place s x.hold (x.gr i.b) (extraWord x).toNat = some p → (∀ r, p ≠ .remote r) →
      ∃ u w, exec (.stats f c) s = .next (finish s u) ∧ Started s u f c x i w ∧ w.engine = false ∧
        w.kind = .stats o.ref (x.gr i.b) i.imm.toNat (extraWord x).toNat ∧ u.vid = s.vid ∧ SameRegs s u) ∧
    (Issues s f c 0xC0 x i → 0 < i.imm.toNat →
      ((movePlace s x.hold (x.gr i.a) i.imm.toNat).isSome → (movePlace s x.hold (x.gr i.b) i.imm.toNat).isSome →
        ∃ u w, exec (.xfer f c) s = .next u ∧ Started s u f c x i w ∧ w.fcls = 2 ∧
          w.kind = .xfer (x.gr i.a) (x.gr i.b) i.imm.toNat (i.mod.testBit 0) (i.mod / 2 % 4) ∧ SameParts s u ∧ SameRegs s u) ∧
      ((movePlace s x.hold (x.gr i.a) i.imm.toNat) = none → ∃ u, exec (.xfer f c) s = .next u ∧ Faults s u f c x 0x0102)) ∧
    (Issues s f c 0xC1 x i → 0 < i.imm.toNat →
      ((movePlace s x.hold (x.gr i.a) i.imm.toNat).isSome →
        ∃ u w, exec (.fill f c) s = .next u ∧ Started s u f c x i w ∧ w.fcls = 2 ∧
          w.kind = .fill (x.gr i.a) (x.gr i.b) i.imm.toNat (i.mod.testBit 0) (i.mod / 2 % 4) ∧ SameParts s u ∧ SameRegs s u) ∧
      ((movePlace s x.hold (x.gr i.a) i.imm.toNat) = none → ∃ u, exec (.fill f c) s = .next u ∧ Faults s u f c x 0x0102)) ∧
    (∀ b p, Issues s f c 0xC4 x i → useHandle s x.hold [2, 3] (x.hnd i.a) = some o → s.buf o.ref = some b → srcOk b = true →
      b.empty = false → b.depth ≠ 20 → (∀ r ∈ packRows b i.imm.toNat, r.1 ≤ r.2.1) →
      place s x.hold (x.gr i.b) (packSpan b i.imm.toNat) = some p → (∀ r, p ≠ .remote r) → 2 ≤ x.cls → x.granted = true →
      (i.mod % 2 = 0 → ∃ u w, exec (.pack f c) s = .next (finish s u) ∧ Started s u f c x i w ∧ w.uses = [o.ref] ∧
        w.kind = .pack o.ref (x.gr i.b) i.imm.toNat false (i.mod.testBit 1) (i.mod / 4 % 4) ∧ SameParts s u ∧ SameRegs s u) ∧
      (i.mod % 2 = 1 → (outShape s b).isSome →
        ∃ u w, exec (.packIn f c) s = .next (finish s u) ∧ Started s u f c x i w ∧ w.uses = [o.ref] ∧
        w.kind = .pack o.ref (x.gr i.b) i.imm.toNat true (i.mod.testBit 1) (i.mod / 4 % 4) ∧ SameParts s u ∧ SameRegs s u))

/-! Video instructions: progress and results. -/

/-- The outstanding instruction `n` has ended: its G register takes `v`, it is outstanding no more, and its context goes on
unchanged otherwise (R71, R95). -/
def Sys2Proof.Machine.WorkDone (s u : State) (n : Nat) (w : Work) (v : DWord) : Prop :=
  tget u.job.work n = none ∧ OtherCtx s u w.ctx ∧
    ∀ x, s.ctx w.ctx = some x →
      ∃ y, u.ctx w.ctx = some y ∧ y.gr w.d = v ∧ OnlyG x y w.d ∧ y.pc = x.pc ∧ y.z = x.z ∧ y.n = x.n ∧ y.c = x.c ∧ SameJob x y

/-- A DEC.PIC whose report's pictures are decoded returns the next in output order (R114, R192, R200): its handle now names
that picture, which is pending no more and carries the channel's picture counter, and D takes its status word. Without a free
buffer it ends with RESOURCE_POOL, at a picture that does not fit with STREAM_FORMAT (R185, R199). -/
def Sys2Proof.Machine.DecodeReturn : Prop :=
  ∀ (s : State) (n c p : Nat) (r : DecIn) (rw nv : Bool) (w : Work) (z : Chan), decWork s n = some (w, c, p, rw, nv) →
    s.chan c = some z → z.st ≠ .failed → decInOk s c r = true → p / 0x100000 = 2 →
    (∀ s1 m, decodeAll c nv r.pics s = (s1, 0) → nextOut (decExtras s1 c r) c = some m →
      ∃ u b z', exec (.decPicComplete n r) s = .next (finish s u) ∧ u.buf m = some b ∧ b.outp = false ∧ b.rows = false ∧
        b.hdr.counter = z.counter ∧ (∀ q, tget s.job.obj p = some q → tget u.job.obj p = some { q with ref := m }) ∧
        u.chan c = some z' ∧ z'.counter = (if z.blk.dir = 2 then z.counter else z.counter + 1) ∧
        WorkDone s u n w (statusWord (decCode b) (decBits b)) ∧ SameBytes s u) ∧
    (∀ s1 k, decodeAll c nv r.pics s = (s1, k) → k = 1 ∨ k = 2 →
      ∃ u, exec (.decPicComplete n r) s = .next (finish s u) ∧
        WorkDone s u n w (if k = 1 then 0x0200 else 0x0502) ∧ SameBytes s u)

/-- The events of a picture in decode (R201, R205, R221, R225): with R, rows are published, and the bytes the decoder took are
gone from its input; the cycle ceiling is recorded; a span Field without its grant is left out; at the deadline a DEC.PIC whose
channel has no picture to return, and does not repeat one, ends with STREAM_NO_DATA. -/
def Sys2Proof.Machine.DecodeEvents : Prop :=
  ∀ (s : State) (n c p : Nat) (rw nv : Bool) (w : Work) (z : Chan), s.chan c = some z →
    (decWork s n = some (w, c, p, rw, nv) →
      (∀ rows used b, used ≤ fifoAvail (s.fifo (fin_ c)) → s.buf (slotBuf s p) = some b →
        ∃ u, exec (.decRowPublish n rows used false) s = .next (finish s u) ∧
          u.buf (slotBuf s p) = some (if rw then { b with rowsPub := b.rowsPub + rows } else b) ∧
          (∀ m, m ≠ slotBuf s p → u.buf m = s.buf m) ∧ fifoAvail (u.fifo (fin_ c)) = fifoAvail (s.fifo (fin_ c)) - used ∧
          u.vid.chan = s.vid.chan ∧ u.job = s.job ∧ SameBytes s u) ∧
      (∀ cyc, exec (.decodeCeilingReached n cyc) s =
        .next (if cycleCeiling z.blk ≤ cyc then s.setChan c { z with ceil := true } else s)) ∧
      (∀ r : DecIn, r.pics = [] → decInOk s c r = true → z.st ≠ .failed → nextOut (decExtras s c r) c = none →
        fld (s.rch c B.decCtrl) 16 2 ≠ 1 →
        ∃ u, exec (.decodeDeadlineExpiry n r) s = .next (finish s u) ∧ WorkDone s u n w 0x0501 ∧ SameBytes s u)) ∧
    (∀ f, f ∈ (spanFields s z.home z.blk.span).drop 1 → spanGranted s c f = false →
      exec (.spanGrantTimeout c f) s = .next (s.setChan c { z with left := insNat z.left f }))

/-- What DEC.PIC returns, and the events of a picture in decode (R114, R200). -/
def Obligations.Decoding : Prop := DecodeReturn ∧ DecodeEvents

/-- A picture in encode begins when it is released and may be coded next (R240, R242, R261, R267): it leaves the lookahead, is
intra where R242 asks for it, and its time budget starts now. A row that finds the output full waits (R12). The end of the time
budget of a picture that waits for nothing lets no retry happen any more (R267). -/
def Obligations.EncodePictures : Prop :=
  ∀ (s : State) (c : Nat),
    (∀ (e : EncStart) (z : Chan) (p : LkPic), s.flt.safe = false → (absorbChan s c e.pre).chan c = some z →
      s.chan c ≠ none → (∀ y, s.chan c = some y → y.blk.enc = true ∧ y.cur = none ∧ y.grp = none) →
      z.look.find? (fun q => q.counter.toNat = e.pick && q.pre.isSome) = some p → p.loss = false →
      released z z.look = true → pickOk z z.look e p = true →
      ∃ u z' k, exec (.encPictureStart c e) s = .next (finish s u) ∧ u.chan c = some z' ∧ z'.cur = some k ∧
        z'.look = z.look.filter (fun q => q.counter ≠ p.counter) ∧ k.pic.counter = p.counter ∧
        k.ptype = (if intraDue z p then 0 else if e.b then 2 else 1) ∧ k.idr = idrDue z p ∧ k.start = s.tim.dtb ∧
        k.timeout = false ∧ (∀ m, m ≠ c → u.chan m = (absorbChan s c e.pre).chan m) ∧ SameBytes s u) ∧
    (∀ (r : RowIn) (z : Chan) (v : Cur), s.flt.safe = false → s.chan c = some z → z.cur = some v → v.buf ≠ none →
      v.stall = none → v.timeout = false → rebands s z v = v → rowInOk s z v r = true → v.front ≠ v.bands.length →
      z.blk.fifoCells ≤ outCells s c →
      ∃ u, exec (.encRowCoded c r) s = .next (finish s u) ∧
        u.chan c = some { z with cur := some { v with stall := some { row := r } } } ∧ u.grn = s.grn ∧ u.vid.buf = s.vid.buf ∧
        u.job = s.job ∧ SameBytes s u) ∧
    (∀ (z : Chan) (v : Cur), s.chan c = some z → z.cur = some v → v.buf ≠ none → v.stall = none →
      exec (.encTimeBudgetExpiry c) s = .next (s.setChan c { z with cur := some { v with timeout := true } }))

/-- The state in which a row of channel `c` is placed: its report is counted in the Field's and the channel's registers. -/
def Sys2Proof.Machine.encCounted (s : State) (c : Nat) (z : Chan) (f : Nat) (r : RowIn) : State :=
  (addWaits (((((s.addq2 (A.fld f + 0x28) r.bins).addq2 (A.fld f + 0x30) r.probes).addch c B.encSearch 0 16 r.clipped).addch c
    B.encSearch 16 14 r.refills)) c r.waits).setChan c z

/-- A coded row of the first band that has its cells, and that rate control keeps, is the last item of its channel's output
(R13, R271, R352, R353): its payload is the bits coded; a row that is not the picture's last stays uncommitted. -/
def Obligations.RowPlaced : Prop :=
  ∀ (s : State) (c : Nat) (r : RowIn) (z : Chan) (v : Cur) (x : Band) (head n : Nat) (s1 : State), s.flt.safe = false →
    s.chan c = some z → z.cur = some v → v.buf ≠ none → v.stall = none → rebands s z v = v → rowInOk s z v r = true →
    v.front = 0 → v.bands[0]? = some x → r.band = 0 → x.rows.length + 1 < x.count → pvRate s z = false →
    fillRow (encCounted s c z x.field r) z.hold z.blk.fifoCells (itemCells r.data.length) none 0
      (outCells (encCounted s c z x.field r) c) (itemCells r.data.length) = (some head, n, s1) →
    itemCells r.data.length ≤ n →
    (afterRow z v x s.tim.dtb r (stubAt x.llvl (stubUnit false v.ptype) (rawUnit z.blk false)
      ((x.count - x.rows.length - 1) * rowUnits z.blk false) (bandBits x) r.units).isSome).1 = false →
    ∃ u i, exec (.encRowCoded c r) s = .next (finish s u) ∧ (u.fifo (fout c)).unc = [i] ∧ i.data = r.data ∧
      i.len = r.data.length ∧ i.cell = head ∧ i.cells = n

/-- What an encode instruction reports (R114, R240, R246, R284, R290): ENC.PIC OK_QUEUED while the lookahead fills, then the
status word of the picture its arrival released, with the rate-control registers of that picture; ENC.LADDER the worst rung
status and the rungs that are not OK; ANALYZE the score, its results kept for STATS and the next ENC.PIC. -/
def Obligations.EncodeReturn : Prop :=
  ∀ (s : State) (n c src : Nat) (q : PreIn) (w : Work), tget s.job.work n = some w →
    (∀ z e, encWork s n = some (c, src, e) → s.chan c = some z → z.st ≠ .failed → (∀ p ∈ z.look, p.work ≠ n) →
      (∀ v, e = some v → ∃ u, exec (.encPicComplete n q) s = .next (finish s u) ∧
        WorkDone s u n w (statusWord 0x0007 (v.toNat * 65536)) ∧ SameBytes s u) ∧
      (∀ r rest, e = none → z.coded = r :: rest →
        ∃ u z', exec (.encPicComplete n q) s = .next (finish s u) ∧ u.chan c = some z' ∧ z'.coded = rest ∧
          z'.statSrc = some 0 ∧ z'.statCnt = r.counter ∧ u.rch c B.rcState = r.rcState ∧
          WorkDone s u n w (statusWord r.code (r.bits % 65536 + r.counter.toNat * 65536)) ∧ SameBytes s u)) ∧
    (∀ z m y r rest, ladderWork s n = some (c, src, none) → tget s.vid.grp c = some z → tget z.rungs 0 = some m →
      s.chan m = some y → (∀ p ∈ z.look, p.work ≠ n) → z.coded = r :: rest →
      ∃ u z', exec (.encLadderComplete n q) s = .next (finish s u) ∧ tget u.vid.grp c = some z' ∧ z'.coded = rest ∧
        WorkDone s u n w (ladderStatus (r.map fun p => (p.1, p.2.code)) (match tget r 0 with | some v => v.counter | none => 0)) ∧
        SameBytes s u) ∧
    (∀ z b, w.kind = .analyze c src → s.chan c = some z → s.buf src = some b → s.flt.safe = false → z.st ≠ .failed →
      b.rows = false → b.empty = false →
      ∃ u z', exec (.analyzeComplete n q) s = .next (finish s u) ∧ u.chan c = some z' ∧ z'.anal = some (src, q) ∧
        z'.statSrc = some 2 ∧ z'.look = z.look ∧
        WorkDone s u n w (statusWord 0 (score q z.blk.width z.blk.height)) ∧ SameBytes s u)

/-- SCALE and CONVERT finish (R114, R226, R297, R300): the destination holds the picture, its rows are all published, its
header carries the source's timestamps and counter, and D takes OK; an empty source ends them with STREAM_NO_PICTURE. -/
def Obligations.ScaleResults : Prop :=
  ∀ (s : State) (n d src : Nat) (w : Work) (o b : Buf), tget s.job.work n = some w → s.buf d = some o → s.buf src = some b →
    s.flt.safe = false → b.rows = false → o.chan ≠ none → o.pic = true →
    (∀ cx cy cw ch rw, w.kind = .scale d src cx cy cw ch rw →
      (b.empty = false → ∃ u o', exec (.scaleComplete n) s = .next (finish s u) ∧ u.buf d = some o' ∧ o'.rows = false ∧
        o'.rowsPub = o'.hdr.ch ∧ o'.hdr.pts = b.hdr.pts ∧ o'.hdr.dts = b.hdr.dts ∧ o'.hdr.counter = b.hdr.counter ∧
        (o'.hdr.cw, o'.hdr.ch, o'.hdr.chroma, o'.depth) = shapeOf s o ∧
        o'.planes = (let win := if cw = 0 then (b.hdr.wx, b.hdr.wy, b.hdr.ww, b.hdr.wh) else (b.hdr.wx + cx, b.hdr.wy + cy, cw, ch)
          storePlanes o'.hdr.chroma o'.depth (scalePlanes o'.hdr.chroma win.2.2.1 win.2.2.2 o'.hdr.cw o'.hdr.ch
            (windowOf b win.1 win.2.1 win.2.2.1 win.2.2.2))) ∧
        WorkDone s u n w 0 ∧ SameBytes s u) ∧
      (b.empty = true → ∃ u, exec (.scaleComplete n) s = .next (finish s u) ∧ u.buf d = some { o with rows := false } ∧
        WorkDone s u n w 0x0503 ∧ SameBytes s u)) ∧
    (∀ rw, w.kind = .convert d src rw → b.empty = false →
      (coloursOk s o b = true → ∃ u o', exec (.convertComplete n) s = .next (finish s u) ∧ u.buf d = some o' ∧ o'.rows = false ∧
        o'.hdr.pts = b.hdr.pts ∧ o'.hdr.dts = b.hdr.dts ∧ o'.hdr.counter = b.hdr.counter ∧
        o'.hdr.prim = (convertColours s o b).2.prim ∧ o'.hdr.trans = (convertColours s o b).2.trans ∧
        o'.hdr.matrix = (convertColours s o b).2.matrix ∧ WorkDone s u n w 0 ∧ SameBytes s u) ∧
      (coloursOk s o b = false → ∃ u, exec (.convertComplete n) s = .next (finish s u) ∧
        u.buf d = some { o with rows := false } ∧ WorkDone s u n w 0x0505 ∧ SameBytes s u))

/-- The inverse transform of MPEG-2 pictures (R212): the coefficients of M, the row pass and the column pass, exact and rounded
down; a block's samples are added to its prediction within 8 bits (log 54), and a picture decoded without damage, or coded and
kept as a reference, holds exactly these. -/
def Obligations.MpegTransform : Prop :=
  (List.range 8).map idctW = [8192, 11363, 10703, 9633, 8192, 6436, 4433, 2260] ∧
  (∀ n k, n < 8 → k < 8 → let m := (2 * n + 1) * k % 32
    idctM n 0 = 8192 ∧ (1 ≤ k → m < 8 → idctM n k = idctW m) ∧ (1 ≤ k → 24 < m → idctM n k = idctW (32 - m)) ∧
      (1 ≤ k → 8 < m → m < 24 → idctM n k = -idctW (if m < 16 then 16 - m else m - 16))) ∧
  (∀ (F : List Int) (i n : Nat), i < 8 → n < 8 →
    (idctRows F)[i * 8 + n]? = some ((((List.range 8).map fun k => idctM n k * F.getD (i * 8 + k) 0).sum + 1024) >>> 11) ∧
    (idct F)[i * 8 + n]? = some (max (-256) (min 255
      ((((List.range 8).map fun j => idctM i j * (idctRows F).getD (j * 8 + n) 0).sum + 131072) >>> 18)))) ∧
  (∀ (pl : List (List (List Nat))) (b : ResBlk) (rows : List (List Nat)) (row : List Nat) (v i n : Nat), 0 < b.dx → 0 < b.dy →
    i < 8 → n < 8 → pl[b.plane]? = some rows → rows[b.y + i * b.dy]? = some row → row[b.x + n * b.dx]? = some v →
    sampleAt (reconstruct 0 pl [b]) b.plane (b.y + i * b.dy) (b.x + n * b.dx) =
      (max 0 (min 255 ((v : Int) + (idct b.coef).getD (i * 8 + n) 0))).toNat) ∧
  (∀ (s : State) (c n : Nat) (t : DWord) (nv : Bool) (y : Chan) (p : DecPic) (b : Buf), y.blk.codec = 0 →
    y.blk.depth = p.hdr.sdepth → p.damage = [] → (decodeInto c n t nv y s p).buf n = some b →
    b.planes = reconstruct 0 p.planes p.blocks) ∧
  (∀ (s : State) (c n : Nat) (u : Cur) (r : RowIn) (z : Chan) (b : Buf), s.chan c = some z → z.blk.codec = 0 → u.buf = some n →
    u.isRef = true → u.pic.ltrSet = none → (keepRecon s c u r).buf n = some b → b.planes = reconstruct 0 r.planes r.blocks)

/-! Data movement, statistics and flows. -/

/-- No two bytes of a range of a holding's device memory share a device address (the granule map gives no granule twice). -/
def Sys2Proof.Machine.Apart (s : State) (h off len : Nat) : Prop :=
  ∀ i j a, i < len → j < len → devAddr s h (off + i) = some a → devAddr s h (off + j) = some a → i = j

/-- A store of `bs` at a place of device memory: those bytes read back, and no other byte of memory changes. -/
def Sys2Proof.Machine.Stored (s u : State) (h off : Nat) (bs : List Byte) : Prop :=
  readDev u h off bs.length = bs ∧
    ∀ a, (∀ j, j < bs.length → devAddr s h (off + j) ≠ some a) → readByte u.drm.mem a = readByte s.drm.mem a

/-- When a move finishes (R115, R153, R181): XFER has copied the source's bytes, FILL the pattern's bytes again and again, and
PACK.IN has taken the picture's samples; towards host memory the bytes go out, with BF a flushing read after them; a poisoned
source ends an XFER with MEMORY_POISON. STATS writes its records and reports their length (R306). -/
def Obligations.MovesFinish : Prop :=
  ∀ (s : State) (n : Nat) (w : Work) (m : MoveIn), tget s.job.work n = some w → s.flt.safe = false → w.ctx ≠ noCtx →
    (∀ d b len bf pr q, w.uses = [] → w.kind = .xfer d b len bf pr → place s w.hold b len = some (.dev q) → devMapped s w.hold q len = true →
      (∀ p, place s w.hold d len = some (.dev p) → devMapped s w.hold p len = true → devPoison s w.hold q len = false →
        overlaps (.dev p) (.dev q) len = false → Apart s w.hold p len →
        ∃ u, exec (.dmaMoveComplete n m) s = .next (finish s u) ∧ Stored s u w.hold p (readDev s w.hold q len) ∧
          u.drm.map = s.drm.map ∧ u.vid = s.vid ∧ u.out = s.out ∧ WorkDone s u n w 0) ∧
      (∀ a, place s w.hold d len = some (.host a) → devPoison s w.hold q len = false → 0 < len →
        ∃ u, exec (.dmaMoveComplete n m) s = .next (finish s u) ∧
          u.out = (if bf then [.flushRead w.hold] else []) ++ .hostWrite w.hold a (readDev s w.hold q len) :: s.out ∧
          u.q0 w.hold B.hcDma = s.q0 w.hold B.hcDma + BitVec.ofNat 64 len ∧ SameBytes s u ∧ WorkDone s u n w 0)) ∧
    (∀ d pat len bf pr p, w.uses = [] → w.kind = .fill d pat len bf pr → place s w.hold d len = some (.dev p) →
      devMapped s w.hold p len = true → Apart s w.hold p len →
      ∃ u, exec (.dmaMoveComplete n m) s = .next (finish s u) ∧
        Stored s u w.hold p ((List.range len).map fun i => BitVec.ofNat 8 (pat.toNat / 2 ^ (8 * (i % 8)))) ∧
        u.vid = s.vid ∧ WorkDone s u n w 0) ∧
    (∀ b a st bf pr x q, w.kind = .pack b a st true bf pr → s.buf b = some x → x.chan ≠ none →
      place s w.hold a (packSpan x st) = some (.dev q) → devMapped s w.hold q (packSpan x st) = true →
      devPoison s w.hold q (packSpan x st) = false →
      ∃ u, exec (.dmaMoveComplete n m) s = .next (finish s u) ∧
        u.buf b = some (packIn x st (readDev s w.hold q (packSpan x st))) ∧ SameBytes s u ∧ WorkDone s u n w 0) ∧
    (∀ c a sel len z q, w.uses = [] → w.kind = .stats c a sel len → earlierDone s c n = true → s.chan c = some z → z.st ≠ .failed →
      place s w.hold a len = some (.dev q) → devMapped s w.hold q (statBytes c z sel len).1.length = true →
      Apart s w.hold q (statBytes c z sel len).1.length →
      ∃ u, exec (.statsComplete n) s = .next (finish s u) ∧ Stored s u w.hold q (statBytes c z sel len).1 ∧ u.vid = s.vid ∧
        WorkDone s u n w (statusWord 0 ((if (statBytes c z sel len).2 then 1 else 0) + (statBytes c z sel len).1.length * 65536)))

/-- A block at an address, as SOPEN's. -/
def Sys2Proof.Machine.BlockIn (s : State) (x : Ctx) (a : DWord) (len off : Nat) : Prop :=
  a.toNat % 8 = 0 ∧ place s x.hold a len = some (.dev off) ∧ devMapped s x.hold off len = true ∧ devPoison s x.hold off len = false

/-- INGEST.BIND makes a flow of the block's fields on its channel, with its entries of T1, one for each path and with FEC two
more (R335, R338, R340, R341); EGRESS.BIND makes one of its own on an encode channel (R370 to R372). Each gives its handle. -/
def Obligations.FlowBind : Prop :=
  ∀ (s : State) (f c : Nat) (x : Ctx) (i : Ins) (o : Obj) (z : Chan) (off slot n : Nat), c < 32 →
    useHandle s x.hold [1] (x.hnd i.a) = some o → s.chan o.ref = some z →
    (let bs := readDev s x.hold off 128
     let b := ingBlk bs
     Issues s f c 0xC2 x i → BlockIn s x (x.gr i.b + i.imm.signExtend 64) 128 off → ingBlkOk bs = true →
      ingModeOk z.blk b.mode = true → ingFlowOf s o.ref = none →
      ingTablesOk (countIssue s (ckey f c)) x.hold b (ingEntries (countIssue s (ckey f c)) x.hold o.ref 0 b) = true →
      s.ing.t1.length + 6 ≤ 16384 → s.ing.t2.length + 1 ≤ 8192 → lowestFree s.ing.flow 0 16383 = some n →
      lowestFree s.job.obj 0x400000 0x100000 = some slot →
      ∃ u y l, exec (.ingestBind f c) s = .next (finish s u) ∧ HandleGiven s u f c x i slot ∧
        tget u.job.obj slot = some { hold := x.hold, ref := n } ∧ tget u.ing.flow n = some y ∧ y.hold = x.hold ∧
        y.chan = o.ref ∧ y.mode = b.mode ∧ y.pid = b.pid ∧ y.reorder = b.reorder ∧ y.meter = b.meter ∧
        u.ing.t1 = s.ing.t1 ++ l ∧ (∀ e ∈ l, e.flow = n ∧ e.hold = x.hold) ∧
        l.length = (if b.mode.testBit 2 then 2 else 1) * (if b.mode.testBit 3 then 3 else 1) ∧
        u.rch o.ref B.ingLoss = 0 ∧ u.rch o.ref B.ingPath = 1 ∧ u.vid = s.vid ∧ u.egr = s.egr) ∧
    (let bs := readDev s x.hold off 192
     let e := egrBlk bs x.hold o.ref s.tim.dtb
     let t := countIssue s (ckey f c)
     Issues s f c 0xC3 x i → BlockIn s x (x.gr i.b + i.imm.signExtend 64) 192 off → egrBlkOk bs = true → egrRanges t e = true →
      egrPids e = true → egrSvcOk t e = true → egrPlace t z.blk e = true → lowestFree s.egr.flow 0 256 = some n →
      egrSlot s n = some slot →
      ∃ u, exec (.egressBind f c) s = .next (finish s u) ∧ HandleGiven s u f c x i slot ∧
        tget u.job.obj slot = some { hold := x.hold, ref := n } ∧ tget u.egr.flow n = some { e with slot := slot } ∧
        (∀ m, m ≠ n → tget u.egr.flow m = tget s.egr.flow m) ∧ u.r2 (A.egrFlow n + 0x18) = 0 ∧ u.vid = s.vid ∧ u.ing = s.ing)

/-! Grants and queries of a job (R90, R92, R116). -/

/-- CLAIM of a higher class asks for it and waits; of the same or a lower class, when the outstanding work fits, it takes it at
once (R90, R116); a CLAIM that times out keeps its class (R116). RELEASE gives the grant back. A Yoke timeout ends the job with
RESOURCE_YOKE (R92). -/
def Sys2Proof.Machine.ClassClaims : Prop :=
  ∀ (s : State) (f c : Nat) (x : Ctx) (i : Ins), c < 32 →
    (Issues s f c 0xE0 x i → i.imm.toNat / 8 % 32 = 0 → i.imm.toNat < 65536 →
      (x.cls < i.imm.toNat % 8 → (∀ q ∈ s.yoke.reqs, q.key ≠ ckey f c) →
        ∃ u, exec (.claim f c) s = .next u ∧
          u.ctx (ckey f c) = some { issuedCtx s x with
            wait := .claim (i.imm.toNat % 8) (i.mod.testBit 0) (decide (i.imm.toNat / 256 % 256 ≠ 0)) } ∧
          u.yoke = { s.yoke with reqs := s.yoke.reqs ++
            [{ key := ckey f c, field := f, hold := x.hold, cls := i.imm.toNat % 8, live := false, fallow := 0 }] } ∧
          SameParts { s with yoke := u.yoke } u ∧ SameRegs s u ∧ OtherCtx s u (ckey f c)) ∧
      (i.imm.toNat % 8 ≤ x.cls → workClass s (ckey f c) ≤ i.imm.toNat % 8 →
        ∃ u y, exec (.claim f c) s = .next u ∧ u.ctx (ckey f c) = some y ∧ y.cls = i.imm.toNat % 8 ∧ y.gr 15 = 0 ∧ y.z = true ∧
          y.t = false ∧ y.pc = x.pc + 1 + i.xw ∧ SameParts { s with yoke := u.yoke } u ∧ SameRegs s u ∧
          OtherCtx s u (ckey f c))) ∧
    (∀ k e, s.ctx (ckey f c) = some x → x.wait = .claim k e true →
      ∃ u y, exec (.claimTimeout f c) s = .next u ∧ u.ctx (ckey f c) = some y ∧ y.cls = x.cls ∧
        (∀ q ∈ u.yoke.reqs, q.key ≠ ckey f c) ∧ OtherCtx s u (ckey f c) ∧
        (e = false → y.gr 15 = 0x0600 ∧ y.t = true ∧ y.wait = .none ∧ y.pc = x.pc + 1) ∧
        (e = true → y.ended = some (0x0600, BitVec.ofNat 64 (x.pc % 65536)))) ∧
    (Issues s f c 0xE1 x i → engineWork s (ckey f c) = false →
      ∃ u y, exec (.release f c) s = .next u ∧ u.ctx (ckey f c) = some y ∧ y.granted = false ∧ y.pc = x.pc + 1 + i.xw ∧
        SameFile x y ∧ (∀ g ∈ u.yoke.grants, g.key ≠ ckey f c) ∧ SameParts { s with yoke := u.yoke } u ∧ SameRegs s u ∧
        OtherCtx s u (ckey f c)) ∧
    (s.ctx (ckey f c) = some x → x.tmo ≠ 0 → x.wait = .base ∨ x.wait = .grant ∨ (∃ k e t, x.wait = .claim k e t) →
      ∃ u y, exec (.yokeTimeout f c) s = .next u ∧ u.ctx (ckey f c) = some y ∧ y.wait = .none ∧ y.fault = true ∧
        y.ended = some (0x0202, BitVec.ofNat 64 (x.pc % 65536)) ∧
        (∀ q ∈ u.yoke.reqs, q.key ≠ ckey f c ∧ q.key ≠ ckey f c + 512) ∧ OtherCtx s u (ckey f c))

/-- QUERY puts the value of its selector into D: the DTB, the Field, the class granted or 0xFF, the picture counter of a channel,
the count of a semaphore; a selector without a meaning faults the job (R116). -/
def Sys2Proof.Machine.Queries : Prop :=
  ∀ (s : State) (f c : Nat) (x : Ctx) (i : Ins), c < 32 → Issues s f c 0xE2 x i →
    (∀ v, (i.imm = 0 ∧ v = s.tim.dtb) ∨ (i.imm = 1 ∧ v = BitVec.ofNat 64 f) ∨
        (i.imm = 2 ∧ v = if x.granted then BitVec.ofNat 64 x.cls else 0xFF) ∨
        (i.imm = 0x10 ∧ ∃ o z, useHandle s x.hold [1] (x.hnd i.a) = some o ∧ s.chan o.ref = some z ∧ v = BitVec.ofNat 64 z.counter.toNat) ∨
        (i.imm = 0x30 ∧ ∃ o m, useHandle s x.hold [8] (x.hnd i.a) = some o ∧ tget s.job.sem o.ref = some m ∧ v = BitVec.ofNat 64 m.count) →
      ∃ u y, exec (.query f c) s = .next u ∧ u.ctx (ckey f c) = some y ∧ y.gr i.d = v ∧ OnlyG x y i.d ∧ y.z = x.z ∧ y.n = x.n ∧
        y.c = x.c ∧ y.pc = x.pc + 1 + i.xw ∧ SameJob x y ∧ OnlyCtx s u f c) ∧
    (i.imm.toNat ∉ [0, 1, 2, 0x10, 0x11, 0x12, 0x13, 0x20, 0x30, 0x40, 0x41] →
      ∃ u, exec (.query f c) s = .next u ∧ Faults s u f c x 0x0105)

/-- CLAIM, RELEASE, their timeouts, and QUERY (R90, R92, R116). -/
def Obligations.ClassesAndQueries : Prop := ClassClaims ∧ Queries

/-! Jobs (R61 to R70, R83 to R87, R123 to R128). -/

/-- The first entry of an SQ becomes a job in the lowest free context of the Field that R67 chooses: its tag and class, its
registers or its inline words, the program counter at 0 (R66, R69, R70, R124, R125); the queue's consumer index advances. -/
def Sys2Proof.Machine.JobPlaced : Prop :=
  ∀ (s : State) (h q f k : Nat) (x : Sq) (e : List DWord), tget s.job.sq (qkey h q) = some x → x.fetched = [e] → q ≠ 0 →
    s.flt.safe = false → s.active h = true → placeable s h x = true → firstInLine s x.prio = true → entryOk e = true →
    fld (eword e 0) 12 2 ≠ 3 → chooseField s h (fld (eword e 0) 12 2) (fld (eword e 0) 32 8) = some f →
    lowestFree s.job.ctx (f * 32) 32 = some k →
    ∃ u y p, exec (.jobPlace h q) s = .next u ∧ u.ctx k = some y ∧ y.hold = h ∧ y.sqid = q ∧ y.tag = fld (eword e 0) 16 16 ∧
      y.cls = fld (eword e 0) 8 3 ∧ y.tmo = fld (eword e 0) 40 8 ∧ y.pc = 0 ∧ y.ended = none ∧ y.bad = none ∧
      (y.wait = .base ∨ y.wait = .none) ∧ (∀ j, j ≠ k → u.ctx j = s.ctx j) ∧
      tget u.job.sq (qkey h q) = some p ∧ p.ci = idxNext (2 ^ x.log2) x.ci ∧ p.fetched = [] ∧
      (ePointed e = true → y.plen = some (fld (eword e 1) 0 16 + 1) ∧ y.ptr = some (eword e 2) ∧
        ∀ j, j < 4 → y.gr j = eword e (3 + j)) ∧
      (ePointed e = false → (∀ j v, (eWords e)[j]? = some v → tget y.prog j = some v) ∧
        (eLast e = true → y.plen = some (eWords e).length ∧ p.sheaf = none) ∧ (eLast e = false → p.sheaf = some k)) ∧
      SameBytes s u

/-- A context that is ready may be made the Drill's next (R78); a program line brings the word that the context needs (R64); a
job of a disabled Field moves to another that has room, with its registers (R39, R67); a channel's home moves at a picture
boundary to the Field that SPARAM HOME named (R68). -/
def Obligations.JobMoves : Prop :=
  ∀ (s : State) (f c : Nat), c < 32 →
    (∀ x, s.ctx (ckey f c) = some x → readyAny s (ckey f c) x = true → drillRuns s f = true →
      exec (.issueStarvationOverride f c) s = .next (s.setJob { s.job with starved := tset s.job.starved f c })) ∧
    (∀ x w n p a ws v, s.ctx (ckey f c) = some x → wantWord x = some w → x.plen = some n → x.ptr = some p → x.ended = none →
      x.wait = .none → atBad x = false → drillRuns s f = true → p.toNat % 8 = 0 →
      place s x.hold (p + BitVec.ofNat 64 (8 * w)) 8 = some (.host a) →
      ws[(p.toNat % 2 ^ 62 + 8 * w) % 256 / 8]? = some v →
      ∃ u y, exec (.programLineFetch f c ws) s = .next u ∧ u.ctx (ckey f c) = some y ∧ tget y.prog w = some v ∧ y.pc = x.pc ∧
        SameFile x y ∧ SameJob { x with prog := y.prog } y ∧ u.q0 x.hold B.hcDma = s.q0 x.hold B.hcDma + 256 ∧
        SameParts s u ∧ SameJobs s u ∧ OtherCtx s u (ckey f c) ∧ SameBytes s u) ∧
    (∀ x g m, s.ctx (ckey f c) = some x → fieldOn s f = false → engineWork s (ckey f c) = false →
      chooseField s x.hold x.aff x.affArg = some g → lowestFree s.job.ctx (g * 32) 32 = some m →
      ∃ u y, exec (.jobFieldMove f c) s = .next u ∧ u.ctx (ckey f c) = none ∧ u.ctx m = some y ∧ y.pc = x.pc ∧ SameFile x y ∧
        y.hold = x.hold ∧ y.sqid = x.sqid ∧ y.tag = x.tag ∧ y.cls = x.cls ∧ y.granted = false ∧ y.prog = x.prog ∧
        (∀ j, j ≠ m → j ≠ ckey f c → u.ctx j = s.ctx j) ∧ SameBytes s u) ∧
    (∀ ch us z g, s.chan ch = some z → z.cur = none → (∀ p ∈ s.job.work, p.2.engine = true → workOn p.2 ch = false) →
      z.homeIss = none → z.homeSet = some g → fieldOn s g = true → g ≠ z.home →
      ∃ u, exec (.channelHomeMove ch us) s = .next u ∧
        u.chan ch = some { z with home := g, homeIss := none, homeSet := none, left := [] } ∧
        (∀ m, m ≠ ch → u.chan m = s.chan m) ∧
        u.qch ch B.waitMem = s.qch ch B.waitMem + BitVec.ofNat 64 (min us 20) ∧ u.job = s.job ∧ SameBytes s u)

/-- A job that has ended, whose instructions have all ended, posts its FINAL completion with its status and result, and its
context is free (R83, R86, R87, R135); a fault of the JOB_FAULT class is counted and fires fault source 12 (R84, R448). -/
def Sys2Proof.Machine.JobEnds : Prop :=
  ∀ (s : State) (f c st : Nat) (r : DWord) (x : Ctx) (q : Cq), c < 32 → s.ctx (ckey f c) = some x → x.ended = some (st, r) →
    s.flt.safe = false → (∀ p ∈ s.job.work, p.2.ctx ≠ ckey f c) → x.drains = [] → x.bports = 0 → x.pv = none →
    tget s.job.cq (cqOf s x.hold x.sqid) = some q → q.dropOk = false → q.hold = [] → q.isFull = false →
    ∃ u p ci, exec (.jobFinalCompletion f c) s = .next (finish s u) ∧ u.ctx (ckey f c) = none ∧
      u.out = .hostWrite (cqOf s x.hold x.sqid / 1024) (q.base + q.pi % 0x8000 * 32)
        (cqeBytes { final := true, tag := x.tag, status := st, sqid := x.sqid, field := f, ctx := c, result := r }
          q.pi ci q.ovf s.tim.dtb) :: ((if x.ports ≠ 0 then [.flushRead x.hold] else []) ++ s.out) ∧
      tget u.job.cq (cqOf s x.hold x.sqid) = some p ∧ p.pi = idxNext (2 ^ q.log2) q.pi ∧
      u.q0 x.hold B.hcJobs = s.q0 x.hold B.hcJobs + 1 ∧ OtherCtx s u (ckey f c) ∧ SameBytes s u ∧
      (x.fault = true → st / 256 = 1 →
        u.flt.fired = s.flt.fired ++ [{ src := 12, hold := some x.hold, code := st, info1 := f }]) ∧
      (x.fault = false → u.flt = s.flt)

/-- A job is placed (R66), and its FINAL completion posted (R86). -/
def Obligations.JobsBeginAndEnd : Prop := JobPlaced ∧ JobEnds

/-! Rings and admin commands (R118 to R145). -/

/-- A completion that finds room in the ring is written there at PI, which advances; in a full ring an entry of a CQ without
DROP_OK goes to the hold, and of one with DROP_OK is dropped and counted (R136 to R140). -/
def Sys2Proof.Machine.CompletionPosting : Prop :=
  ∀ (s : State) (k : Nat) (e : Cqe) (q : Cq), tget s.job.cq k = some q →
    (q.isFull = false → q.hold = [] → ∃ u p ci, cqPost s k e = some u ∧
      u.out = .hostWrite (k / 1024) (q.base + q.pi % 0x8000 * 32) (cqeBytes e q.pi ci q.ovf s.tim.dtb) :: s.out ∧
      tget u.job.cq k = some p ∧ p.pi = idxNext (2 ^ q.log2) q.pi ∧ p.ci = q.ci ∧ p.hold = [] ∧ SameParts s u) ∧
    (q.isFull = true → q.dropOk = false → q.hold.length < 64 → ∃ u p, cqPost s k e = some u ∧ u.out = s.out ∧
      tget u.job.cq k = some p ∧ p.hold = q.hold ++ [e] ∧ p.pi = q.pi ∧ SameParts s u) ∧
    (q.dropOk = false → q.hold.length = 64 → cqPost s k e = none) ∧
    (q.isFull = true → q.dropOk = true → cqPost s k e = some (s.setCq k { q with dropped := evInc31 q.dropped, ovf := true }))

/-- A doorbell moves the producer or consumer index when the new value lies on the path that the ring allows, and is counted and
ignored otherwise (R129 to R131); a consumer index lets held completions into the ring (R137). -/
def Sys2Proof.Machine.Doorbells : Prop :=
  ∀ (s : State) (h q : Nat) (v : Word), barOn s h = true → s.active h = true → q < 1024 →
    let n := v.toNat % 65536
    (∀ x, tget s.job.sq (qkey h q) = some x →
      (n % 0x8000 < 2 ^ x.log2 → idxDist (2 ^ x.log2) x.pi x.ci ≤ idxDist (2 ^ x.log2) n x.ci →
        idxDist (2 ^ x.log2) n x.ci ≤ 2 ^ x.log2 →
        exec (.sqDoorbell h q v) s = .next (s.setSq (qkey h q) { x with pi := n, stopped := false })) ∧
      (2 ^ x.log2 ≤ n % 0x8000 ∨ idxDist (2 ^ x.log2) n x.ci < idxDist (2 ^ x.log2) x.pi x.ci ∨
          2 ^ x.log2 < idxDist (2 ^ x.log2) n x.ci →
        exec (.sqDoorbell h q v) s = .next (s.setSq (qkey h q) { x with dbInvalid := evInc31 x.dbInvalid }))) ∧
    (∀ x, tget s.job.cq (qkey h q) = some x → s.flt.safe = false → (s.hd h).adm = [] →
      (n % 0x8000 < 2 ^ x.log2 → idxDist (2 ^ x.log2) x.pi n ≤ idxDist (2 ^ x.log2) x.pi x.ci →
        (x.hold = [] → ∃ u, exec (.cqDoorbell h q v) s = .next (finish s u) ∧ u.out = s.out ∧
          tget u.job.cq (qkey h q) = some { x with ci := n, stop := false } ∧ u.job.sq = s.job.sq ∧ u.job.ctx = s.job.ctx ∧
          SameParts s u ∧ SameRegs s u) ∧
        (∀ e, x.hold = [e] → idxDist (2 ^ x.log2) x.pi n < 2 ^ x.log2 →
          ∃ u p ci, exec (.cqDoorbell h q v) s = .next (finish s u) ∧
            u.out = .hostWrite h (x.base + x.pi % 0x8000 * 32) (cqeBytes e x.pi ci x.ovf s.tim.dtb) :: s.out ∧
            tget u.job.cq (qkey h q) = some p ∧ p.ci = n ∧ p.pi = idxNext (2 ^ x.log2) x.pi ∧ p.hold = [] ∧ p.stop = false ∧
            u.job.sq = s.job.sq ∧ u.job.ctx = s.job.ctx)) ∧
      (2 ^ x.log2 ≤ n % 0x8000 ∨ idxDist (2 ^ x.log2) x.pi x.ci < idxDist (2 ^ x.log2) x.pi n →
        exec (.cqDoorbell h q v) s = .next (s.setCq (qkey h q) { x with dbInvalid := evInc31 x.dbInvalid })))

/-- Completions in their ring, and the doorbells (R129 to R140). -/
def Obligations.PostingAndDoorbells : Prop := CompletionPosting ∧ Doorbells

/-- Entries of an SQ as they are read (R126, R133, R134, R518): one with the right PHASE and FIRST waits to be placed, a
continuation joins the open sheaf's job and the consumer index advances, one with the wrong PHASE is read again later; a failed
read stops the queue and raises HOST_ABORT. -/
def Obligations.QueueReads : Prop :=
  ∀ (s : State) (h q : Nat) (x : Sq) (e : List DWord), tget s.job.sq (qkey h q) = some x → sqReads s h q x = true → q ≠ 0 →
    (x.retry = false → 1 ≤ idxDist (2 ^ x.log2) x.pi x.ci →
      (fld (eword e 0) 0 1 = idxPhase x.ci → eFirst e = true → x.sheaf = none → x.discard = false →
        exec (.sqEntryTake h q [e]) s = .next (finish s (s.setSq (qkey h q) { x with retry := false, fetched := [e] }))) ∧
      (∀ k y, fld (eword e 0) 0 1 = idxPhase x.ci → eFirst e = false → x.sheaf = some k → s.ctx k = some y →
        ∃ u p, exec (.sqEntryTake h q [e]) s = .next (finish s u) ∧ u.ctx k = some (takeWords y e (y.entries + 1)) ∧
          tget u.job.sq (qkey h q) = some p ∧ p.ci = idxNext (2 ^ x.log2) x.ci ∧ p.fetched = [] ∧
          p.sheaf = (if eLast e then none else some k) ∧ OtherCtx s u k ∧ SameParts s u ∧ SameRegs s u) ∧
      (fld (eword e 0) 0 1 ≠ idxPhase x.ci →
        exec (.sqEntryTake h q [e]) s = .next (finish s (s.setSq (qkey h q) { x with retry := true, fetched := [] })))) ∧
    (x.retry = true →
      (fld (eword e 0) 0 1 = idxPhase x.ci → eFirst e = true → x.sheaf = none → x.discard = false →
        exec (.sqPhaseRetry h q e) s = .next (finish s (s.setSq (qkey h q)
          { x with phaseRetry := evInc31 x.phaseRetry, retry := false, fetched := [e] }))) ∧
      (fld (eword e 0) 0 1 ≠ idxPhase x.ci →
        exec (.sqPhaseRetry h q e) s = .next (finish s (s.setSq (qkey h q)
          { x with phaseRetry := evInc31 x.phaseRetry, retry := true, fetched := [] })))) ∧
    exec (.sqReadFail h q) s = .next (finish s (((s.setSq (qkey h q) { x with stopped := true }).cnt0 h B.hcAbort).raise
      { src := 13, hold := some h, info0 := x.base + x.ci % 0x8000 * 64, code := 0x0401 }))

/-- An admin command completes in the admin CQ `q` with a status and a result, behind what else it sent; no command is left. -/
def Sys2Proof.Machine.AdmDone (s u : State) (h : Nat) (q : Cq) (tag status : Nat) (result : DWord) (sent : List Out) : Prop :=
  (u.hd h).adm = [] ∧ ∃ ci p, u.out = .hostWrite h (q.base + q.pi % 0x8000 * 32)
      (cqeBytes { final := true, tag := tag, status := status, sqid := 0, field := 0, ctx := 0, result := result } q.pi ci q.ovf
        s.tim.dtb) :: (sent ++ s.out) ∧
    tget u.job.cq (qkey h 0) = some p ∧ p.pi = idxNext (2 ^ q.log2) q.pi ∧ u.job.ctx = s.job.ctx ∧ SameParts s u

/-- One good admin command `a` waits, and the admin CQ has room. -/
def Sys2Proof.Machine.AdmWaits (s : State) (h op : Nat) (a : AdmE) (q : Cq) : Prop :=
  (∃ e, (s.hd h).adm = [e] ∧ admOf e = a) ∧ admGood a = true ∧ a.op = op ∧ s.active h = true ∧
    tget s.job.cq (qkey h 0) = some q ∧ q.dropOk = false ∧ q.hold = [] ∧ q.isFull = false

/-- The admin commands (R118, R119, R143 to R145): CREATE_CQ and CREATE_SQ make a queue under the lowest free device-wide number,
which is the result; DELETE_SQ and DELETE_CQ remove one that is idle; SET_SQ_ENABLE enables at once, and disables with its
completion at IDLE; GET_QUEUE_STATUS writes the 32-byte record. A queue in the wrong state is JOB_FAULT_STATE, and nothing
changes. -/
def Obligations.AdminCommands : Prop :=
  ∀ (s : State) (h : Nat) (a : AdmE) (q : Cq),
    (∀ n, AdmWaits s h 1 a q → a.qid ≠ 0 → tget s.job.cq (qkey h a.qid) = none → ringOk a = true → freeNum (cqNums s) = some n →
      ∃ u, exec (.createCq h) s = .next (finish s u) ∧ AdmDone s u h q a.tag 0 (BitVec.ofNat 64 n) [] ∧
        tget u.job.cq (qkey h a.qid) = some { num := n, base := a.addr, log2 := a.log2, dropOk := a.dropOk } ∧
        u.job.sq = s.job.sq) ∧
    (AdmWaits s h 1 a q → thas s.job.cq (qkey h a.qid) = true → ∃ u, exec (.createCq h) s = .next (finish s u) ∧
      AdmDone s u h q a.tag 0x0106 0 [] ∧ u.job.sq = s.job.sq) ∧
    (∀ n, AdmWaits s h 2 a q → a.qid ≠ 0 → a.cqid ≠ 0 → tget s.job.sq (qkey h a.qid) = none →
      thas s.job.cq (qkey h a.cqid) = true → ringOk a = true → freeNum (sqNums s) = some n →
      ∃ u, exec (.createSq h) s = .next (finish s u) ∧ AdmDone s u h q a.tag 0 (BitVec.ofNat 64 n) [] ∧
        tget u.job.sq (qkey h a.qid) = some { num := n, base := a.addr, log2 := a.log2, prio := a.prio, cqid := a.cqid }) ∧
    (∀ x, AdmWaits s h 3 a q → a.qid ≠ 0 → tget s.job.sq (qkey h a.qid) = some x →
      ∃ u, exec (.deleteSq h) s = .next (finish s u) ∧
        (sqIdleNow s h a.qid x = true → AdmDone s u h q a.tag 0 0 [] ∧ tget u.job.sq (qkey h a.qid) = none) ∧
        (sqIdleNow s h a.qid x = false → AdmDone s u h q a.tag 0x0106 0 [] ∧ u.job.sq = s.job.sq)) ∧
    (∀ x, AdmWaits s h 4 a q → a.qid ≠ 0 → a.qid < 1024 → tget s.job.cq (qkey h a.qid) = some x → x.hold = [] →
      (∀ p ∈ s.job.sq, p.1 / 1024 = h → p.2.cqid ≠ a.qid) →
      ∃ u, exec (.deleteCq h) s = .next (finish s u) ∧ AdmDone s u h q a.tag 0 0 [] ∧
        tget u.job.cq (qkey h a.qid) = none ∧ u.job.sq = s.job.sq) ∧
    (∀ x, AdmWaits s h 5 a q → a.enable = true → a.qid ≠ 0 → tget s.job.sq (qkey h a.qid) = some x → x.enable = false →
      ∃ u, exec (.setSqEnable h) s = .next (finish s u) ∧ AdmDone s u h q a.tag 0 0 [] ∧
        tget u.job.sq (qkey h a.qid) = some { x with enable := true, stopped := false }) ∧
    (∀ x, AdmWaits s h 5 a q → a.enable = false → a.qid ≠ 0 → tget s.job.sq (qkey h a.qid) = some x → x.sheaf = none →
      ∃ u p, exec (.setSqDisable h) s = .next (finish s u) ∧ tget u.job.sq (qkey h a.qid) = some p ∧ p.enable = false ∧
        p.fetched = [] ∧ p.ci = x.ci ∧ (u.hd h).idleWait = (s.hd h).idleWait ++ [(a.qid, a.tag)] ∧ (u.hd h).adm = [] ∧
        u.out = s.out ∧ u.job.cq = s.job.cq ∧ u.job.ctx = s.job.ctx ∧ SameParts s u) ∧
    (∀ x, AdmWaits s h 6 a q → a.cqsel = false → tget s.job.sq (qkey h a.qid) = some x → a.addr % 256 = 0 → a.addr < 2 ^ 62 →
      ∃ u s1 p, exec (.getQueueStatus h) s = .next (finish s u) ∧ s1 = s.modHd h (fun y => { y with adm := [] }) ∧
        AdmDone s u h q a.tag 0 0 [.hostWrite h a.addr (sqRecord s1 h a.qid x)] ∧ tget u.job.sq (qkey h a.qid) = some p ∧
        (a.clear = true → p = { x with phaseRetry := 0, orphans := 0, dbInvalid := 0 }) ∧ (a.clear = false → p = x)) ∧
    (∀ x, AdmWaits s h 6 a q → a.cqsel = true → a.qid ≠ 0 → tget s.job.cq (qkey h a.qid) = some x → a.addr % 256 = 0 →
      a.addr < 2 ^ 62 →
      ∃ u, exec (.getQueueStatus h) s = .next (finish s u) ∧ AdmDone s u h q a.tag 0 0 [.hostWrite h a.addr (cqRecord s x)] ∧
        tget u.job.cq (qkey h a.qid) = some (if a.clear then { x with full := 0, dropped := 0, dbInvalid := 0 } else x) ∧
        u.job.sq = s.job.sq)

/-- The admin queue pair (R141, R145): created by ENABLE with the sizes and bases written, its numbers in ADMQ_NUMS; an ENABLE of 0
stops the admin SQ; when an SQ has become idle its waiting commands complete, and for the admin SQ the pair is gone and IDLE is
set. -/
def Obligations.AdminPair : Prop :=
  ∀ (s : State) (h : Nat),
    (∀ v a b, barOn s h = true → s.native h = true → s.active h = true → fld (s.r0 h B.admqCtrl) 0 2 = 2 →
      4 ≤ v.toNat / 16 % 16 → 4 ≤ v.toNat / 256 % 16 → freeNum (sqNums s) = some a → freeNum (cqNums s) = some b →
      ∃ u, exec (.admqEnable h v) s = .next (finish s u) ∧
        tget u.job.sq (qkey h 0) = some { num := a, base := (s.q0 h B.admqSqBase).toNat % 2 ^ 62, log2 := v.toNat / 16 % 16, cqid := 0 } ∧
        tget u.job.cq (qkey h 0) = some { num := b, base := (s.q0 h B.admqCqBase).toNat % 2 ^ 62, log2 := v.toNat / 256 % 16 } ∧
        fld (u.r0 h B.admqCtrl) 0 2 = 1 ∧ u.r0 h B.admqNums = BitVec.ofNat 32 (b + a * 65536) ∧ (u.src b).hold = h ∧
        (u.src b).vec = v.toNat / 4096 % 64 ∧ (u.src b).en = true ∧ SameParts s u ∧ u.job.ctx = s.job.ctx) ∧
    (∀ v x, barOn s h = true → s.native h = true → fld (s.r0 h B.admqCtrl) 0 1 = 1 → tget s.job.sq (qkey h 0) = some x →
      ∃ u, exec (.admqDisable h v) s = .next u ∧ fld (u.r0 h B.admqCtrl) 0 1 = 0 ∧
        tget u.job.sq (qkey h 0) = some { x with enable := false } ∧ u.job.cq = s.job.cq ∧ SameParts s u) ∧
    (∀ x, tget s.job.sq (qkey h 0) = some x → sqIdleNow s h 0 x = true →
      ∃ u, exec (.sqIdle h 0) s = .next u ∧ tget u.job.sq (qkey h 0) = none ∧ tget u.job.cq (qkey h 0) = none ∧
        fld (u.r0 h B.admqCtrl) 1 1 = 1 ∧ u.r0 h B.admqNums = 0 ∧ SameParts s u ∧ u.job.ctx = s.job.ctx) ∧
    (∀ q x t s1, q ≠ 0 → tget s.job.sq (qkey h q) = some x → sqIdleNow s h q x = true → (s.hd h).idleWait = [(q, t)] →
      admPost s h t 0 0 = some s1 →
      exec (.sqIdle h q) s = .next (finish s (s1.modHd h fun y => { y with idleWait := [] })))

/-! The Interrupt Gatherer (R158 to R167). -/

/-- IGF_CLAIM returns the deliverable source of its vector with the highest priority, and of equal ones the lowest number, which
becomes ACTIVE; without one it returns 2047 and counts it. IGF_COMPLETE ends ACTIVE (R162, R163). -/
def Sys2Proof.Machine.InterruptClaims : Prop :=
  ∀ (s : State) (h v : Nat), fnOn s h = true → v < 64 →
    (claimPick s h v = none → exec (.igfClaim h v) s = .next { s.cnt2 A.igSpurious 0 31 with readData := 2047 }) ∧
    (∀ p n, claimPick s h v = some (p, n, false) →
      exec (.igfClaim h v) s = .next (finish s
        { s.setSrc n { s.src n with pend := false, act := true } with readData := BitVec.ofNat 64 n }) ∧
      (Tab.rising s.intr.src = true → deliverable s n (s.src n) = true ∧ (s.src n).hold = h ∧ (s.src n).vec = v ∧
        ∀ m, deliverable s m (s.src m) = true → (s.src m).hold = h → (s.src m).vec = v →
          (s.src m).prio < (s.src n).prio ∨ ((s.src m).prio = (s.src n).prio ∧ n ≤ m))) ∧
    (∀ w : Word, let n := w.toNat % 2048
      (n = 2047 → exec (.igfComplete h v w) s = .next s) ∧
      (n ≠ 2047 → (s.vac h).act = false → srcOwn s h n = true → (s.src n).act = true → (s.src n).vec = v →
        h * 64 + v ∉ delivVecs s →
        exec (.igfComplete h v w) s = .next (finish s (s.setSrc n { s.src n with act := false }))) ∧
      (n ≠ 2047 → (s.vac h).act = false → srcOwn s h n = false ∨ (s.src n).act = false ∨ (s.src n).vec ≠ v →
        exec (.igfComplete h v w) s = .next (s.cnt0 h B.igfRefused)))

/-- The writes of a source's own holding (R158, R160, R165, R166): its mask, its PENDING, its coalescing, its vector and
priority; a source that is not the holding's is refused and counted. The administrative holding writes TARGETs. The coalescing
time makes a source PENDING. -/
def Sys2Proof.Machine.InterruptWrites : Prop :=
  ∀ (s : State) (h : Nat) (v : Word),
    (fnOn s h = true → let n := v.toNat % 2048
      (srcOwn s h n = true →
        exec (.igfMaskSet h v) s = .next (finish s (s.setSrc n { s.src n with mask := true })) ∧
        exec (.igfMaskClr h v) s = .next (finish s (s.setSrc n { s.src n with mask := false })) ∧
        exec (.igfPendSet h v) s = .next (finish s (s.setSrc n { s.src n with pend := true })) ∧
        exec (.igfPendClr h v) s = .next (finish s (s.setSrc n { s.src n with pend := false, ev := 0, timer := false }))) ∧
      (srcOwn s h n = false → exec (.igfMaskSet h v) s = .next (finish s (s.cnt0 h B.igfRefused)) ∧
        exec (.igfMaskClr h v) s = .next (finish s (s.cnt0 h B.igfRefused)) ∧
        exec (.igfPendSet h v) s = .next (finish s (s.cnt0 h B.igfRefused)) ∧
        exec (.igfPendClr h v) s = .next (finish s (s.cnt0 h B.igfRefused))) ∧
      (1343 ≤ n ∨ (s.src n).hold ≠ h → srcOwn s h n = false)) ∧ (∀ n, (State.reset.src n).mask = false) ∧
    (fnOn s h = true → let n := (s.r0 h B.igfSel).toNat % 2048
      let x := s.src n
      srcOwn s h n = true →
        (x.ev < max 1 (v.toNat % 256) → exec (.igfCoalWrite h v) s =
          .next (finish s (s.setSrc n { x with cnt := v.toNat % 256, time := v.toNat / 256 % 65536 }))) ∧
        (0 < x.ev → max 1 (v.toNat % 256) ≤ x.ev → exec (.igfCoalWrite h v) s =
          .next (finish s (s.setSrc n { x with cnt := v.toNat % 256, time := v.toNat / 256 % 65536, ev := 0, timer := false, pend := true }))) ∧
        (x.vec ≠ v.toNat % 64 ∨ x.prio ≠ v.toNat / 256 % 16 → exec (.igfRouteWrite h v) s =
          .next (finish s (s.setSrc n { x with vec := v.toNat % 64, prio := v.toNat / 256 % 16, act := false })))) ∧
    (∀ n, Admin s h → n < 1343 → v.toNat % 32 = (s.src n).hold →
      (s.src n).vec ≠ v.toNat / 256 % 64 ∨ (s.src n).prio ≠ v.toNat / 65536 % 16 ∨ (s.src n).en ≠ v.getLsbD 31 →
      exec (.igTargetWrite h n v) s = .next (finish s (s.setSrc n
        { s.src n with vec := v.toNat / 256 % 64, prio := v.toNat / 65536 % 16, en := v.getLsbD 31, act := false }))) ∧
    (∀ n, Admin s h → n < 1280 → v.toNat % 32 ≠ (s.src n).hold →
      exec (.igTargetWrite h n v) s = .next (finish s (s.cnt2 A.igTargetRefused 0 31))) ∧
    (∀ n, n < 1343 → (s.src n).timer = true → exec (.coalesceTimerExpiry n) s =
      .next (finish s (s.setSrc n { s.src n with ev := 0, timer := false, pend := true }))) ∧
    (∀ m, (s.hd h).present = true → s.native h = true → m < 64 → s.intr.held = [h * 64 + m] → (s.hd h).d3 = false →
      (s.hd h).fnMask = false → (h * 64 + m) ∈ delivVecs s →
      ∃ u, exec (.msixMaskRelease h m) s = .next u ∧ bit (u.r0 h (0x80C + m * 16)) 0 = false ∧ u.intr.held = [] ∧
        u.out = .msix h m :: s.out ∧ u.intr.src = s.intr.src ∧ SameParts s u ∧ u.job = s.job) ∧
    (∀ o, fnOn s h = true → useHandle s h [1] v = some o →
      exec (.chnByhandle h v) s = .next (s.w0 h B.chnSel (BitVec.ofNat 32 o.ref))) ∧
    (fnOn s h = true → useHandle s h [1] v = none →
      ∃ u, exec (.chnByhandle h v) s = .next u ∧ bit (u.r0 h B.chnSel) 8 = true ∧ SameParts s u ∧ u.job = s.job)

/-- Claims of interrupts, and the writes of the Gatherer (R158 to R166). -/
def Obligations.Interrupts : Prop := InterruptClaims ∧ InterruptWrites

/-! Holdings (R21 to R41). -/

/-- Holding `h` of `u` is RESETTING for `td`: its queues are gone, and other holdings and the jobs of others stay. -/
def Sys2Proof.Machine.Resets (s u : State) (h : Nat) (td : Td) : Prop :=
  (u.hd h).st = .resetting ∧ (u.hd h).td = some td ∧ (u.hd h).d3 = false ∧ (u.hd h).adm = [] ∧
    (u.hd h).events = (s.hd h).events ∧ (∀ j, j ≠ h → u.hd j = s.hd j) ∧
    (∀ k, k / 1024 = h → tget u.job.sq k = none ∧ tget u.job.cq k = none) ∧
    (∀ k, k / 1024 ≠ h → tget u.job.sq k = tget s.job.sq k ∧ tget u.job.cq k = tget s.job.cq k) ∧
    u.job.ctx = s.job.ctx ∧ u.vid = s.vid ∧ u.drm = s.drm

/-- Nothing of holding `h` runs: it has no job, no ingest or egress flow, and not the administrative role. -/
def Sys2Proof.Machine.AtRest (s : State) (h : Nat) : Prop :=
  (∀ p ∈ s.job.ctx, p.2.hold ≠ h) ∧ (∀ p ∈ s.ing.flow, p.2.hold ≠ h) ∧ (∀ p ∈ s.egr.flow, p.2.hold ≠ h) ∧
    (∀ r, r < 16 → bit (s.r2 (A.dmaRingOwner r)) 5 = true → fld (s.r2 (A.dmaRingOwner r)) 0 5 ≠ h) ∧ s.adm.owner ≠ some h

/-- A function that appears makes its holding ACTIVE with ENABLE 1 and DORMANT with ENABLE 0, and sets PRESENT (R21, R41);
NumVFs makes the functions up to it appear (R22). A Function Level Reset, and a return from D3hot, tear down abruptly: the
holding is RESETTING and its queues are deleted (R35, R36, R48); during another teardown nothing restarts (R38). -/
def Sys2Proof.Machine.FunctionLifecycle : Prop :=
  ∀ (s : State) (h : Nat),
    (h < 32 → functionFits s h = true → (s.hd h).present = false →
      ((s.hd h).st ≠ .resetting → exec (.functionPresent h) s = .next (finish s ((s.setHd h
        { s.hd h with present := true, d3 := false, st := if (s.hd h).enable then .active else .dormant,
                      events := (s.hd h).events ||| 1 }).fire (1280 + h)))) ∧
      ((s.hd h).st = .resetting → exec (.functionPresent h) s = .next (finish s (s.setHd h { s.hd h with back := true })))) ∧
    (∀ p n, p < 2 → n ≤ 15 → (s.hp p).up = true → running s = true →
      (∀ i, 1 ≤ i → i ≤ 15 → (s.hd (p * 16 + i)).present = false ∧ (s.hd (p * 16 + i)).back = false ∧
        (s.hd (p * 16 + i)).st ≠ .resetting) →
      ∃ u, exec (.sriovNumvfsWrite p n) s = .next (finish s u) ∧ (u.hp p).vfs = n ∧
        (∀ i, 1 ≤ i → i ≤ n → (u.hd (p * 16 + i)).present = true ∧
          (u.hd (p * 16 + i)).st = (if (s.hd (p * 16 + i)).enable then .active else .dormant)) ∧
        (∀ j, j ≤ p * 16 ∨ p * 16 + n < j → u.hd j = s.hd j) ∧ u.job = s.job ∧ u.vid = s.vid) ∧
    ((s.hd h).present = true → (s.hd h).st ≠ .resetting → AtRest s h →
      (∃ u, exec (.functionLevelReset h) s = .next (finish s u) ∧ Resets s u h .flr) ∧
      ((s.hd h).d3 = true → ∃ u, exec (.d3hotToD0 h) s = .next (finish s u) ∧ Resets s u h .flr)) ∧
    ((s.hd h).present = true → (s.hd h).st = .resetting →
      exec (.functionLevelReset h) s = .next (finish s (s.setHd h { s.hd h with d3 := false }))) ∧
    ((s.hd h).present = true → exec (.d0ToD3hot h) s = .next (finish s (s.setHd h { s.hd h with d3 := true })))

/-- The later steps of a teardown (R36): at 60 ms the pictures of the holding's channels are stopped; at the end the holding is
ABSENT, or DORMANT or ACTIVE by its ENABLE when the function is there, with RESET_DONE set, its interrupt sources not PENDING and
not ACTIVE, and HOLDING_RESET logged (R37). -/
def Sys2Proof.Machine.TeardownSteps : Prop :=
  ∀ (s : State) (h : Nat), (s.hd h).st = .resetting →
    ((s.hd h).cut = false → (∀ p ∈ s.job.work, p.2.hold ≠ h) →
      ∃ u, exec (.teardownPictureCutoff h) s = .next (finish s u) ∧ (u.hd h).cut = true ∧ (u.hd h).st = .resetting ∧
        (∀ c x, s.chan c = some x →
          u.chan c = some (if x.hold = h then { x with cur := none, look := [] } else x)) ∧
        u.vid.buf = s.vid.buf ∧ u.job = s.job ∧ (∀ j, j ≠ h → u.hd j = s.hd j)) ∧
    ((s.hd h).pv = false → (s.hd h).back = false → (s.hd h).td = some .flr → (∀ p ∈ s.job.work, p.2.hold ≠ h) →
      (∀ p ∈ s.vid.chan, p.2.hold ≠ h) → (∀ p ∈ s.vid.grp, p.2.hold ≠ h) → (∀ p ∈ s.job.obj, p.2.hold ≠ h) →
      ∃ u, exec (.teardownComplete h) s = .next (finish s u) ∧
        (u.hd h).st = (if (s.hd h).present then (if (s.hd h).enable then .active else .dormant) else .absent) ∧
        (u.hd h).td = none ∧ (u.hd h).dramBytes = 0 ∧ bit (u.hd h).events 2 = true ∧
        (∀ n, n < 1280 → (u.src n).hold = h → (u.src n).pend = false ∧ (u.src n).act = false) ∧
        (∀ j, j ≠ h → u.hd j = s.hd j) ∧ u.vid.chan = s.vid.chan ∧ u.job.ctx = s.job.ctx ∧
        u.flt.fired = s.flt.fired ++ [{ src := 14, hold := some h, code := 0x0301 }])

/-- Functions appear, are reset and are torn down (R21 to R48). -/
def Obligations.Functions : Prop := FunctionLifecycle ∧ TeardownSteps

/-- ENABLE, the quotas and the administrative role (R23 to R33): ENABLE makes a holding ACTIVE when the sums of R31 hold and
is refused with the reason otherwise; ENABLE 0 of an absent one takes back its granules; a quota of a holding that is not enabled is
taken as written. HEARTBEAT starts the lease again; PROMOTE takes a vacant role and HANDOVER gives it to the other physical
function, each with its RESULT; the lease's end makes the role VACANT. -/
def Obligations.HoldingControl : Prop :=
  ∀ (s : State) (w h : Nat),
    (Admin s w → h < 32 → (s.hd h).enable = false → (s.hd h).st = .dormant →
      let code := sumsRefuse (s.setHd h { s.hd h with enable := true, pers := false, pv := false })
      (code = 0 → ∃ u, exec (.holdingEnable w h false) s = .next (finish s u) ∧
        u.hd h = { s.hd h with enable := true, pers := false, pv := false, st := .active, pvChans := [], latch := [], lowHeld := [] } ∧
        (∀ j, j ≠ h → u.hd j = s.hd j) ∧ (∀ a, a < 0x8000 → u.r0 h a = s.r0 h a) ∧ (∀ j a, j ≠ h → a < 0x10000 → u.r0 j a = s.r0 j a) ∧
        SameParts s u ∧ u.job = s.job ∧ u.b2 = s.b2) ∧
      (code ≠ 0 → exec (.holdingEnable w h false) s = .next (finish s { s with adm := { s.adm with refuse := code } }))) ∧
    (Admin s w → h < 32 → (s.hd h).enable = false → ∀ b,
      exec (.holdingDisable w h b) s = .next (finish s (s.setHd h { s.hd h with pers := b }))) ∧
    (Admin s w → h < 32 → (s.hd h).enable = true → (s.hd h).st = .absent → ∀ b,
      ∃ u, exec (.holdingDisable w h b) s = .next (finish s u) ∧
        u.hd h = { s.hd h with enable := false, pv := false, pvChans := [] } ∧ (∀ j, j ≠ h → u.hd j = s.hd j) ∧ u.job = s.job ∧
        u.vid = s.vid) ∧
    (Admin s w → h < 32 → (s.hd h).enable = false → ∀ v : Word,
      exec (.quotaWrite w h 1 v) s = .next (finish s (s.setHd h { s.hd h with qChan := v.toNat % 512, qDram := v.toNat / 65536 % 8192 })) ∧
      exec (.quotaWrite w h 2 v) s = .next (finish s (s.setHd h { s.hd h with qMax := v.toNat % 32768, qMin := v.toNat / 65536 % 32768 })) ∧
      exec (.quotaWrite w h 3 v) s = .next (finish s (s.setHd h { s.hd h with qYoke := v.toNat % 2048 }))) ∧
    (barOn s w = true → s.adm.owner = some w → exec (.heartbeat w) s = .next { s with adm := { s.adm with lease := true } }) ∧
    (barOn s w = true → w = 0 ∨ w = 16 → s.native w = true → s.active w = true → s.adm.owner = none →
      ∃ u, exec (.promote w) s = .next (finish s u) ∧ u.adm = { s.adm with owner := some w, prev := some w, lease := true } ∧
        (u.hd w).result = 0 ∧ (∀ j, j ≠ w → u.hd j = s.hd j) ∧
        (∀ n, 1280 ≤ n → n < 1343 → s.adm.prev = none ∨ s.adm.prev = some (s.src n).hold →
          u.src n = { s.src n with hold := w }) ∧
        (∀ n, n < 1280 → u.src n = s.src n) ∧ u.job = s.job ∧ u.vid = s.vid ∧ SameBytes s u) ∧
    (∀ o, barOn s w = true → w = 0 ∨ w = 16 → s.native w = true → s.active w = true → s.adm.owner = some o →
      exec (.promote w) s = .next (finish s (s.setHd w { s.hd w with result := 1 }))) ∧
    (barOn s w = true → w = 0 ∨ w = 16 → s.adm.owner = some w → s.native (16 - w) = true → s.active (16 - w) = true →
      ∃ u, exec (.handover w) s = .next (finish s u) ∧ u.adm.owner = some (16 - w) ∧ u.adm.lease = true ∧
        (u.hd w).result = 0 ∧ u.job = s.job ∧ u.vid = s.vid ∧ SameBytes s u) ∧
    (barOn s w = true → w = 0 ∨ w = 16 → s.adm.owner ≠ some w →
      exec (.handover w) s = .next (finish s (s.setHd w { s.hd w with result := 4 }))) ∧
    (barOn s w = true → w = 0 ∨ w = 16 → s.adm.owner = some w → s.native (16 - w) = false ∨ s.active (16 - w) = false →
      exec (.handover w) s = .next (finish s (s.setHd w { s.hd w with result := 2 }))) ∧
    (barOn s w = true → w ≠ 0 → w ≠ 16 → exec (.handover w) s = .next (finish s (s.setHd w { s.hd w with result := 3 }))) ∧
    (∀ o, s.adm.owner = some o → s.adm.lease = true → fld (s.r2 A.admLeaseMs) 0 16 ≠ 0 →
      ∃ u, exec .admLeaseExpiry s = .next (finish s u) ∧ u.adm = { s.adm with owner := none, prev := some o, lease := false } ∧
        (∀ j, j = 0 ∨ j = 16 → bit (u.hd j).events 4 = true ∧ (u.vac j).pend = true) ∧
        (∀ j, j ≠ 0 → j ≠ 16 → u.hd j = s.hd j) ∧ u.job = s.job ∧ u.vid = s.vid ∧ u.intr.src = s.intr.src)

/-! The USB4 host ports (R42 to R53). -/

/-- A port trains to the highest generation that the partner, MAX_GEN and its lanes allow, and a worse training than the one
before sets the event (R42, R44); the loss of a link takes its functions away (R45). Link power states are entered only as enabled
and idle (R46). An unsupported request is answered so (R49); a refused access is counted (R52, R53).
A failed read of a queue's entries stops the queue and logs HOST_ABORT (R50). -/
def Obligations.HostPorts : Prop :=
  ∀ (s : State) (p h w : Nat),
    (∀ gen single, p < 2 → 2 ≤ gen → (s.hp p).up = false → s.sys.powerGood = true → s.sys.porst = false →
      ∃ u, exec (.hostLinkTrain p gen single) s = .next (finish s u) ∧ (u.hp p).up = true ∧
        (u.hp p).gen = min (min gen (maxGen s p)) (if single then 3 else 4) ∧ (u.hp p).single = single ∧ (u.hp p).clx = .cl0 ∧
        (bit (u.r2 (A.hostpStatus p)) 5 = true ↔ bit (s.r2 (A.hostpStatus p)) 5 = true ∨
          ((s.hp p).gen ≠ 0 ∧ ((u.hp p).gen < (s.hp p).gen ∨ (single = true ∧ (s.hp p).single = false)))) ∧
        u.hold = s.hold ∧ u.job = s.job ∧ u.vid = s.vid ∧ (∀ q, q ≠ p → u.hp q = s.hp q)) ∧
    (p < 2 → (s.hp p).up = true → (∀ i, i < 16 → (s.hd (p * 16 + i)).present = false ∧ (s.hd (p * 16 + i)).back = false) →
      ∃ u, exec (.hostLinkLoss p) s = .next (finish s u) ∧ (u.hp p).up = false ∧ (u.hp p).vfs = 0 ∧
        bit (u.r2 (A.hostpStatus p)) 6 = true ∧ u.hold = s.hold ∧ u.job = s.job ∧ (∀ q, q ≠ p → u.hp q = s.hp q)) ∧
    (p < 2 → (s.hp p).outage = true → ∃ u, exec (.hostLinkRecover p) s = .next u ∧
      u.hp p = { s.hp p with outage := false } ∧ (∀ q, q ≠ p → u.hp q = s.hp q) ∧ u = { s with hport := u.hport }) ∧
    (Admin s w → p < 2 → (s.hp p).up = true → ∃ u, exec (.hostPortRetrain w p) s = .next (finish s u) ∧
      u.hp p = { s.hp p with outage := true, clx := .cl0 } ∧ u = { s with hport := u.hport }) ∧
    (∀ dest en, p < 2 → (s.hp p).up = true → (s.hp p).outage = false →
      ∃ u, exec (.clxEntryRequest p dest en true) s = .next u ∧ (u.hp p).clxEn = en ∧ u = { s with hport := u.hport } ∧
        (dest = 3 → bit en 2 = true → (u.hp p).clx = .cl2) ∧ (dest = 3 → bit en 2 = false → (u.hp p).clx = (s.hp p).clx)) ∧
    (p < 2 → (s.hp p).up = true → (s.hp p).clx = .cl1 → ∃ u, exec (.clxExit p) s = .next u ∧
      u.hp p = { s.hp p with clx := .cl0 } ∧ u = { s with hport := u.hport }) ∧
    ((s.hd h).present = true → exec (.pcieUnsupportedRequest h) s = .next { s with out := .unsupported h :: s.out }) ∧
    (barOn s h = true → h % 16 = 0 → s.adm.owner ≠ some h →
      exec (.bar2DeniedAccess h false) s = .next { s.cnt2 (A.hostpDenied (h / 16)) 0 31 with readData := 0 } ∧
      exec (.bar2DeniedAccess h true) s = .next (s.cnt2 (A.hostpDenied (h / 16)) 0 31)) ∧
    (barOn s h = true → exec (.partialDwordWrite h) s = .next (s.cnt2 (A.hostpPartial (h / 16)) 0 31)) ∧
    (∀ r x q, r = .sq h q → tget s.job.sq (qkey h q) = some x → sqReads s h q x = true →
      let u := ((s.setSq (qkey h q) { x with stopped := true }).cnt0 h B.hcAbort).raise
        { src := 13, hold := some h, info0 := x.base + x.ci % 0x8000 * 64, code := 0x0401 }
      exec (.dmaReadTimeout r) s = .next (finish s u) ∧ exec (.dmaReadErrorCompletion r) s = .next (finish s u))

/-! Register accesses (R52 to R57, R445), and the sources of faults. -/

/-- A read of a pair's _LO latches its _HI, which the read of _HI then gives (R55); 8 bytes of a pair come in one sample (R56); a
written _LO is held until _HI is written (R57). A dword that no register owns changes nothing, and a written SAT clears its
counter (R4, R445). -/
def Obligations.RegisterAccess : Prop :=
  ∀ (s : State) (h a : Nat), barOn s h = true → windowOn s h = false → s.native h = true →
    (a < 0x4000 ∨ 0x4200 ≤ a → isPair s h 0 a = true →
      (∃ u, exec (.reg64LoRead h 0 a) s = .next u ∧ u.readData = (readReg s h 0 a).setWidth 64 ∧
        tget (u.hd h).latch (pairKey 0 a) = some (readReg s h 0 (a + 4)) ∧ u = { s with hold := u.hold, readData := u.readData } ∧
        (∀ j, j ≠ h → u.hd j = s.hd j)) ∧
      exec (.reg64AtomicAccess h 0 a none) s =
        .next { s with readData := (readReg s h 0 (a + 4)) ++ (readReg s h 0 a) }) ∧
    (∀ v, isPair s h 0 (a + 4) = false → a + 4 < 0x4000 → isPair s h 0 a = true → tget (s.hd h).latch (pairKey 0 a) = some v →
      exec (.reg64LoRead h 0 (a + 4)) s = .next { s with readData := v.setWidth 64 }) ∧
    (∀ v, rwPair s h 0 a = true → ∃ u, exec (.reg64LoWrite h 0 a v) s = .next u ∧
      tget (u.hd h).lowHeld (pairKey 0 a) = some v ∧ u = { s with hold := u.hold } ∧ (∀ j, j ≠ h → u.hd j = s.hd j)) ∧
    (∀ v lo, tget (s.hd h).lowHeld (pairKey 0 B.admqSqBase) = some lo → fld (s.r0 h B.admqCtrl) 0 2 = 2 →
      ∃ u, exec (.reg64HiWrite h 0 (B.admqSqBase + 4) v) s = .next u ∧
        u.q0 h B.admqSqBase = (v ++ lo) &&& ~~~ 0xFF#64 ∧ tget (u.hd h).lowHeld (pairKey 0 B.admqSqBase) = none ∧
        SameParts s u ∧ u.job = s.job ∧ u.b2 = s.b2) ∧
    (∀ v, fld (s.r0 h B.admqCtrl) 0 2 = 2 → ∃ u, exec (.reg64AtomicAccess h 0 B.admqSqBase (some v)) s = .next u ∧
      u.q0 h B.admqSqBase = v &&& ~~~ 0xFF#64 ∧ SameParts s u ∧ u.job = s.job ∧ u.b2 = s.b2) ∧
    (∀ v, exec (.registerWrite h 0 B.fnLtol v) s =
      .next (s.w0 h B.fnLtol ((s.r0 h B.fnLtol &&& ~~~ 0xFFFFF#32) ||| (v &&& 0xFFFFF#32)))) ∧
    (exec (.counterSatClear h 0 B.hcAbort) s = .next (s.w0 h B.hcAbort 0))

/-! The Fault Collector (R432 to R440, R449), time (R429), Fields (R217, R218) and the mux tick (R278). -/

/-- The commands of the Fault Collector: a severity, where it may be written (R432); the clear of a status bit, refused while a
LEVEL cause persists (R436); the threshold; RESUME, which ends the safe state with every Field in FS4 when no SEV4 bit is set, and
is refused otherwise (R438); the clear of the first-fault area (R440); a mismatch of the two copies, which enters the safe state
(R439). Any write of CHN_LAT_CLR clears CHN_LAT_MAX (R449). -/
def Obligations.FaultRegisters : Prop :=
  (∀ (s : State) (w n : Nat) (v : Word), Admin s w →
    (n < 29 → n ≠ 15 → sevFixed n = false → v.toNat % 8 ≤ 4 →
      ∃ u, exec (.fcSevWrite w n v) s = .next (finish s u) ∧ sevOf u n = v.toNat % 8 ∧ (∀ m, m ≠ n → sevOf u m = sevOf s m) ∧
        u = { s with flt := { s.flt with sev := u.flt.sev } }) ∧
    (sevFixed n = true ∨ n = 15 ∨ 29 ≤ n ∨ 4 < v.toNat % 8 → exec (.fcSevWrite w n v) s = .next (finish s s)) ∧
    (n < 64 → thas s.flt.status n = true →
      (levelSrc n = true → n ∈ s.flt.cause →
        exec (.fcStatusClear w (n / 32) (BitVec.ofNat 32 (2 ^ (n % 32)))) s = .next (finish s (s.cnt2 A.fcClrRefused 0 31))) ∧
      (levelSrc n = false ∨ n ∉ s.flt.cause →
        ∃ u, exec (.fcStatusClear w (n / 32) (BitVec.ofNat 32 (2 ^ (n % 32)))) s = .next (finish s u) ∧
          thas u.flt.status n = false ∧ (∀ m, m ≠ n → tget u.flt.status m = tget s.flt.status m) ∧
          u = { s with flt := { s.flt with status := u.flt.status } })) ∧
    (∃ u, exec (.fcThresholdWrite w v) s = .next (finish s u) ∧ fld (u.r2 A.fcCtrl) 0 3 = v.toNat % 8 ∧
      (∀ a, a ≠ A.fcCtrl → u.r2 a = s.r2 a) ∧ u = { s with b2 := u.b2 }) ∧
    (s.flt.safe = true → s.flt.self = false → (∀ p ∈ s.flt.status, p.2 < 4) →
      (∀ p ∈ s.hold, p.2.st ≠ .active ∧ p.2.st ≠ .resetting) →
      ∃ u, exec (.fcResume w) s = .next (finish s u) ∧ u.flt = { s.flt with safe := false } ∧
        (∀ f, f < 8 → (u.fs f).fs = 4 ∧ (u.fs f).waking = false) ∧ u.hold = s.hold ∧ u.job = s.job ∧ u.vid = s.vid) ∧
    (s.flt.safe = false ∨ s.flt.self = true ∨ (∃ p ∈ s.flt.status, 4 ≤ p.2) →
      exec (.fcResume w) s = .next (finish s (s.cnt2 A.fcClrRefused 0 31))) ∧
    (∃ u, exec (.fcFfClear w) s = .next (finish s u) ∧ u.flt.ff = 0 ∧
      (∀ k, tget u.flt.log k = if k < 32 then none else tget s.flt.log k) ∧
      u = { s with flt := { s.flt with ff := 0, log := u.flt.log } })) ∧
  (∀ s : State, ∃ u, exec .fcSelfMismatch s = .next (finish s u) ∧ u.flt.safe = true ∧ u.flt.self = true ∧ 0 ∈ u.flt.cause ∧
    u.flt.fired = s.flt.fired ++ [{ src := 0 }] ∧ u = { s with flt := u.flt }) ∧
  (∀ (s : State) (h c : Nat) (x : Chan), fnOn s h = true → fld (s.r0 h B.chnSel) 0 8 = c → s.chan c = some x → x.hold = h →
    exec (.chnLatClr h) s = .next (s.wch c B.latMax 0))

/-- A DTB step or a new DTB waits for the next REFCLK cycle (R429), and is ignored while the DTB follows BK_SYNC (R485). A Field
is enabled, or disabled and drains, but not the last one (R217); drained, it enters FS4 with DRAIN_DONE (R218). The single member of
a mux gets at a tick the rate available, within MUX_MIN and MAXRATE (R278). -/
def Obligations.TimeFieldsTicks : Prop :=
  ∀ (s : State) (w : Nat),
    (Admin s w → (follows s = false → ∀ (v : Word) (d : DWord),
        exec (.dtbStepWrite w v) s = .next (finish s { s with tim := { s.tim with step := some v } }) ∧
        ∃ u, exec (.dtbSetWrite w d) s = .next (finish s u) ∧ u.tim = { s.tim with set := some d } ∧ u.q2 A.dtbSet = d ∧
          u = { s with tim := u.tim, b2 := u.b2 }) ∧
      (follows s = true → ∀ (v : Word) (d : DWord), exec (.dtbStepWrite w v) s = .next (finish s s) ∧
        exec (.dtbSetWrite w d) s = .next (finish s s))) ∧
    (∀ f, Admin s w → f < 8 →
      (∃ u, exec (.fieldEnable w f) s = .next (finish s u) ∧ fieldOn u f = true ∧ (u.fs f).draining = false ∧
        (∀ g, g ≠ f → u.fs g = s.fs g) ∧ SameParts { s with yoke := u.yoke } u ∧ u.job = s.job) ∧
      (∀ g, g < 8 → g ≠ f → fieldOn s f = true → fieldOn s g = true →
        ∃ u, exec (.fieldDisable w f) s = .next (finish s u) ∧ fieldOn u f = false ∧ (u.fs f).draining = true ∧
          fieldOn u g = true ∧ SameParts { s with yoke := u.yoke } u ∧ u.job = s.job) ∧
      ((∀ g, g < 8 → g ≠ f → fieldOn s g = false) → exec (.fieldDisable w f) s = .next (finish s s))) ∧
    (∀ f, f < 8 → (s.fs f).draining = true → fieldPictures s f = false → drillBusy s f = false → fieldGranted s f = false →
      ∃ u, exec (.fieldDrainDone f) s = .next (finish s u) ∧ (u.fs f).draining = false ∧ (u.fs f).fs = 4 ∧
        bit (u.r2 (A.fldEvent f)) 0 = true ∧ (∀ g, g ≠ f → u.fs g = s.fs g) ∧ u.job = s.job ∧ u.vid = s.vid) ∧
    (∀ m g c y, tget s.vid.mux m = some g → g.members = [c] → s.chan c = some y → (behindOf y (lookOf s y) []).isEmpty = false →
      y.par_ 0x10E ≤ y.blk.maxrate →
      let r := max (y.par_ 0x10E) (min y.blk.maxrate
        (muxAvail { g with rate := g.next.getD g.rate } y.blk.num y.blk.den (y.par_ 0x10A) (muxWindow s y).2))
      ∃ u z, exec (.muxRateTick m) s = .next u ∧ u.chan c = some z ∧ z.rc.muxRate = some r ∧ z.rc.muxIdle = 0 ∧
        u.rch c B.rcRate = BitVec.ofNat 32 r ∧ (∀ d, d ≠ c → u.chan d = s.chan d) ∧
        tget u.vid.mux m = some { g with rate := g.next.getD g.rate, next := none, active := [c], ticks := g.ticks + 1 } ∧
        u.job = s.job ∧ SameParts (s.setVid u.vid) u)

/-! Network ports and ingest (R314 to R337). -/

/-- A network port is enabled and disabled (R314, R318); its quad's mode changes only with all its ports disabled (R314); a link
comes up and goes down with its event (R318, R342). Pauses begin, come into force, end and expire (R334). -/
def Obligations.NetworkPorts : Prop :=
  ∀ (s : State) (w p : Nat), p < 8 →
    (Admin s w → portExists s p = true → portOn s p = false →
      exec (.netPortEnable w p) s = .next (finish s (claimPll (s.put2 (A.ingPortCtrl p) 0 1 1) (10 + p / 4)))) ∧
    (Admin s w → portExists s p = false → exec (.netPortEnable w p) s = .next (finish s s)) ∧
    ((∀ q ∈ s.ing.flow, q.2.port ≠ p ∧ q.2.portB ≠ p) → pvPortHold s p = none → linkUp s p = true →
      (∃ u, exec (.netLinkLoss p) s = .next (finish s u) ∧ linkUp u p = false ∧ bit (u.r2 (A.ingPortStatus p)) 8 = true ∧
        (∀ q, q ≠ p → u.nport q = s.nport q) ∧ u.job = s.job ∧ u.vid = s.vid ∧ u.hold = s.hold) ∧
      (Admin s w → portOn s p = true → ∃ u, exec (.netPortDisable w p) s = .next (finish s u) ∧ portOn u p = false ∧
        linkUp u p = false ∧ bit (u.r2 (A.ingPortStatus p)) 8 = true ∧ u.job = s.job ∧ u.vid = s.vid ∧ u.hold = s.hold)) ∧
    (∀ v q, Admin s w → q < 2 → ((∀ i, i < 4 → portOn s (4 * q + i) = false) →
        ∃ u, exec (.ingQuadModeWrite w q v) s = .next (finish s u) ∧ fld (u.r2 (A.ingQuad q)) 0 3 = v.toNat % 8 ∧
          (∀ a, a ≠ A.ingQuad q → u.r2 a = s.r2 a) ∧ u = { s with b2 := u.b2 }) ∧
      (∀ i, i < 4 → portOn s (4 * q + i) = true →
        ∃ u, exec (.ingQuadModeWrite w q v) s = .next (finish s u) ∧ fld (u.r2 (A.ingQuad q)) 0 2 = fld (s.r2 (A.ingQuad q)) 0 2 ∧
          bit (u.r2 (A.ingQuad q)) 2 = bit v 2 ∧ u = { s with b2 := u.b2 })) ∧
    (portExists s p = true → portOn s p = true → linkUp s p = false → 10 + p / 4 ∈ s.yoke.plls → 10 + p / 4 ∉ s.yoke.unlocked →
      pvPortHold s p = none → ∃ u, exec (.netLinkUp p) s = .next (finish s u) ∧ linkUp u p = true ∧
        (u.nport p).buf = (s.nport p).buf ∧ bit (u.r2 (A.ingPortStatus p)) 9 = true ∧ u.job = s.job ∧ u.vid = s.vid) ∧
    (Admin s w → exec (.ingPauseSet w p) s = .next (finish s (s.put2 A.ingPause p 1 1)) ∧
      exec (.ingPauseClear w p) s = .next (finish s (endPause s p))) ∧
    (bit (s.r2 A.ingPause) p = true → paused s p = false → ∃ u, exec (.ingPauseInForce p) s = .next u ∧ paused u p = true ∧
      u = { s with b2 := u.b2 }) ∧
    (paused s p = true → ∃ u, exec (.ingPauseExpiry p) s = .next (finish s u) ∧ paused u p = false ∧
      bit (u.r2 A.ingPause) p = false ∧ bit (u.r2 (A.ingPortStatus p)) 10 = true ∧ u.job = s.job ∧ u.ing = s.ing)

/-- A good frame is counted and waits in its port's buffer, a bad or short or long one is counted as an error, and a PAUSE frame
is counted as a frame and dropped, nothing else changing (R315 to R317). The next frame of all ports is classified (R317, R319):
one that the parser refuses is an exception of the port's holding: it takes a token, and is counted when the holding takes none
(R330); one whose T0 entry says CHANNEL has its payload put into the channel's input (R328, R352). The timers of ingest: an
exception token returns (R330), a hole at E counts as lost and the packets behind it go on (R336), a silent path shows as down
(R337). -/
def Obligations.IngestFrames : Prop :=
  ∀ (s : State) (p : Nat), p < 8 →
    (∀ data start, linkUp s p = true → portOn s p = true →
      (data.length + 4 < 64 ∨ 9216 < data.length + 4 →
        exec (.ingestFrameReceive p false data start) s = .next (finish s (s.cnt2 (A.ingPortErr p) 0 16))) ∧
      exec (.ingestFrameReceive p true data start) s = .next (finish s (s.cnt2 (A.ingPortErr p) 0 16)) ∧
      (60 ≤ data.length → data.length ≤ 9212 → isPause data = false → s.flt.safe = false → pvPortHold s p = none →
        bufUsed s p + data.length + 4 ≤ 1048576 →
        ∃ u, exec (.ingestFrameReceive p false data start) s = .next (finish s u) ∧
          u.nport p = { s.nport p with
            buf := (s.nport p).buf ++ [{ port := p, data := data, start := start, arrive := s.tim.dtb }] } ∧
          u.q2 (A.ingPortFrames p) = s.q2 (A.ingPortFrames p) + 1 ∧
          u.q2 (A.ingPortBytes p) = s.q2 (A.ingPortBytes p) + BitVec.ofNat 64 (data.length + 4) ∧
          (∀ q, q ≠ p → u.nport q = s.nport q) ∧ u.job = s.job ∧ u.vid = s.vid ∧ u.hold = s.hold) ∧
      (60 ≤ data.length → data.length ≤ 9212 → isPause data = true →
        ∃ u, exec (.ingestFrameReceive p false data start) s = .next (finish s u) ∧
          u.q2 (A.ingPortFrames p) = s.q2 (A.ingPortFrames p) + 1 ∧
          (∀ a, a ≠ A.ingPortFrames p → a ≠ A.ingPortFrames p + 4 → a ≠ A.ingPortBytes p → a ≠ A.ingPortBytes p + 4 →
            u.r2 a = s.r2 a) ∧ u = { s with b2 := u.b2 })) ∧
    (∀ f rest, s.flt.safe = false → nextPort s = some p → (s.nport p).buf = f :: rest → f.port = p → pvPortHold s p = none →
      bit (s.r2 (A.ingPortCtrl p)) 3 = false →
      let w := (walk s f.data (fld (s.r2 A.ingGraph) 0 6)).1
      let s1 := s.setNport p { s.nport p with buf := rest }
      let k0 := t0Find s (t0Key p (vidOf f.data w 1) (vidOf f.data w 2))
      (∀ r, (walk s f.data (fld (s.r2 A.ingGraph) 0 6)).2 = some r → k0 = none →
        bit (s.r2 (A.ingExcCfg (fld (s.r2 (A.ingPortCtrl p)) 4 5))) 10 = false →
        let h := fld (s.r2 (A.ingPortCtrl p)) 4 5
        let n := tgetD s.ing.taken h 0
        let s2 := if max 1 (fld (s.r2 (A.ingExcRate h)) 16 8) ≤ n then s1
          else s1.setIng { s1.ing with taken := tset s1.ing.taken h (n + 1) }
        exec (.ingestFrameClassify p) s = .next (finish s (s2.cnt2 (A.ingExcDrop h) 0 31))) ∧
      (∀ i y, (walk s f.data (fld (s.r2 A.ingGraph) 0 6)).2 = none → k0 = some i → s.ing.t1 = [] →
        (∀ j, j < 1024 → bit (s.r2 (t3Addr j + 0x64)) 0 = false) → actKind (t0Word s i 3) = 1 → bit (t0Word s i 3) 13 = false →
        bit (t0Word s i 3) 26 = false → s.chan (actChan (t0Word s i 3)) = some y → y.hold = t0Hold s i → y.st = .opened →
        exec (.ingestFrameClassify p) s =
          .next (finish s (toChannel s1 (actChan (t0Word s i 3)) (slice f.data w.pos (w.enc - w.pos)) f.arrive).2))) ∧
    (∀ c y pay t k, s.chan c = some y → y.st = .opened → (s.fifo (fin_ c)).pend = none →
      fifoUsed (s.fifo (fin_ c)) + itemCells pay.length ≤ y.blk.fifoCells →
      (allocChain s y.hold (itemCells pay.length)).1 = some k →
      ∃ u it, toChannel s c pay t = (true, u) ∧ (u.fifo (fin_ c)).items = (s.fifo (fin_ c)).items ++ [it] ∧ it.data = pay ∧
        it.time = t ∧ it.gap = false ∧ it.len = pay.length) ∧
    (∀ h, 0 < tgetD s.ing.taken h 0 → fld (s.r2 (A.ingExcRate h)) 0 16 ≠ 0 →
      ∃ u, exec (.excTokenRefill h) s = .next u ∧
        tgetD u.ing.taken h 0 = min (tgetD s.ing.taken h 0) (max 1 (fld (s.r2 (A.ingExcRate h)) 16 8)) - 1 ∧
        u = { s with ing := { s.ing with taken := u.ing.taken } }) ∧
    (∀ t x e q, tget s.ing.flow t = some x → x.e = some e → e < x.mod → x.held = [q] → q.num = (e + 1) % x.mod →
      ∃ u y, exec (.reorderHoleTimeout t) s = .next (finish s u) ∧ tget u.ing.flow t = some y ∧
        y.e = some ((e + 2) % x.mod) ∧ y.held = [] ∧ y.run = 0 ∧ u.rch x.chan B.ingLoss = evInc (s.rch x.chan B.ingLoss) 0 16 ∧
        u.job = s.job) ∧
    (∀ t x i, tget s.ing.flow t = some x → i < 2 → x.up.testBit i = true →
      let y := { x with up := x.up - 2 ^ i }
      exec (.pathDownTimeout t i) s = .next (showPath (s.setFlow t y) y))

/-- A table word is written while the ports it concerns are paused, and refused and counted otherwise (R333); meter words wait
for the commit, which PIR below CIR refuses (R332). INSERT adds a T1 entry and DELETE removes it, READ returns it; a RESULT
says what came of it, and BUSY clears when the command completes (R325). -/
def Obligations.IngestTables : Prop :=
  ∀ (s : State) (w : Nat) (v : Word), Admin s w →
    (∀ a m, a % 4 = 0 → meterWord a = false →
      (tableWord s a v = some (m, true, false) → exec (.ingTableWrite w a v) s = .next (finish s (s.w2 a (v &&& BitVec.ofNat 32 m)))) ∧
      (tableWord s a v = some (m, false, false) → exec (.ingTableWrite w a v) s = .next (finish s (s.cnt2 A.ingWrRefused 0 31)))) ∧
    (∀ a, a % 4 = 0 → meterWord a = true → exec (.ingTableWrite w a v) s =
      .next (finish s (s.setIng { s.ing with munc := tset s.ing.munc a (v &&& 0xFFFFFFF) }))) ∧
    (∀ m, m < 4096 → fld (meterNow s (A.ingMeter m)) 0 28 ≤ fld (meterNow s (A.ingMeter m + 4)) 0 28 →
      ∃ u, exec (.meterCommit w m v) s = .next (finish s u) ∧ u.r2 (A.ingMeter m) = meterNow s (A.ingMeter m) ∧
        u.r2 (A.ingMeter m + 4) = meterNow s (A.ingMeter m + 4) ∧ u.r2 (A.ingMeter m + 8) = meterNow s (A.ingMeter m + 8) ∧
        u.r2 (A.ingMeter m + 12) = v &&& 0x3FFFFFFF ∧ (∀ j, j ≠ m → tget u.ing.mbkt j = tget s.ing.mbkt j) ∧ u.job = s.job) ∧
    (∀ m, m < 4096 → fld (meterNow s (A.ingMeter m + 4)) 0 28 < fld (meterNow s (A.ingMeter m)) 0 28 →
      ∃ u, exec (.meterCommit w m v) s = .next (finish s u) ∧ u.b2 = s.b2 ∧ u = { s with ing := { s.ing with munc := u.ing.munc } }) ∧
    (s.ing.cmd = none → bit v 2 = false → let e := tblT1 s (fld v 3 2)
      (kindReserved (tblData s 13) = false → maskPaused s e.ports = true → s.ing.t1.any e.same = false →
        s.ing.t1.length < 16384 → ∃ u, exec (.ingTblInsert w v) s = .next (finish s u) ∧ u.ing.t1 = s.ing.t1 ++ [e] ∧
          u.ing.cmd = some { result := 0 } ∧ bit (u.r2 A.ingTblCmd) 31 = true ∧ u.ing.t2 = s.ing.t2 ∧ u.job = s.job) ∧
      (kindReserved (tblData s 13) = false → maskPaused s e.ports = true → s.ing.t1.any e.same = true →
        ∃ u, exec (.ingTblInsert w v) s = .next (finish s u) ∧ u.ing = { s.ing with cmd := some { result := 1 } }) ∧
      (∀ x, s.ing.t1.find? (fun y => decide (y.prof = fld v 3 2) && decide (y.key = tblKey s)) = some x →
        maskPaused s x.ports = true →
        (∃ u, exec (.ingTblDelete w v) s = .next (finish s u) ∧
          u.ing.t1 = s.ing.t1.filter (fun y => !(decide (y.prof = fld v 3 2) && decide (y.key = tblKey s))) ∧
          u.ing.cmd = some { result := 0 } ∧ u.ing.t2 = s.ing.t2 ∧ u.job = s.job) ∧
        (∃ u, exec (.ingTblRead w v) s = .next (finish s u) ∧ u.ing = { s.ing with cmd := some { result := 0 } } ∧
          (∀ j, j < 14 → tblData u j = (t1Words x).getD j 0) ∧ u.job = s.job)) ∧
      (s.ing.t1.find? (fun y => decide (y.prof = fld v 3 2) && decide (y.key = tblKey s)) = none →
        ∃ u, exec (.ingTblRead w v) s = .next (finish s u) ∧ u.ing = { s.ing with cmd := some { result := 3 } } ∧
          u.job = s.job)) ∧
    (∀ c, s.ing.cmd = some c → c.result < 16 → ∃ u, exec .ingTblCmdComplete s = .next u ∧ u.ing = { s.ing with cmd := none } ∧
      bit (u.r2 A.ingTblCmd) 31 = false ∧ fld (u.r2 A.ingTblCmd) 24 4 = c.result ∧ u = { s with ing := u.ing, b2 := u.b2 })

/-! The external memory controller (R388 to R407), and spill cells (R343). -/

/-- The Collector's source `n` is named in `u` besides those of `s`. -/
def Sys2Proof.Machine.Named (s u : State) (n : Nat) : Prop :=
  ∃ f, f.src = n ∧ u.flt.fired = s.flt.fired ++ [f]

/-- A read that returns, and the scrubber's (R400), correct and count a single error, poison a burst of DATA with an uncorrectable
one, and freeze the controller in a CRITICAL granule (R402 to R405); so does an error of a command (R404). A write that the
link loses leaves its burst open. A frozen controller does nothing; DRC_DIAG is released only while it is not (R407). An address
beyond memory is a fault of the model's own (log 47). -/
def Obligations.DramErrors : Prop :=
  ∀ (s : State) (a : Nat) (r : DramIn), dramServes s = true →
    (devGranules s * granule ≤ a → exec (.dramReadReturn a r) s = .fault (.noSuchBurst a)) ∧
    (a < devGranules s * granule → a / 32 ∉ s.drm.poison →
      (r.err = 0 → exec (.dramReadReturn a r) s = .next (finish s (openRow s (dramLoc s.drm.ranks a))) ∧
        exec (.scrubBurst a r) s = .next (finish s (openRow s (dramLoc s.drm.ranks a)))) ∧
      (r.err = 1 → ∃ u v, exec (.dramReadReturn a r) s = .next (finish s u) ∧ exec (.scrubBurst a r) s = .next (finish s v) ∧
        Named s u 5 ∧ Named s v 5 ∧ u.r2 A.drcErr = evInc (s.r2 A.drcErr) 0 16 ∧ v.r2 A.drcErr = evInc (s.r2 A.drcErr) 0 16 ∧
        bit (u.r2 A.drcEvent) 0 = true ∧ u.drm.poison = s.drm.poison ∧ u.drm.mem = s.drm.mem ∧ v.drm.mem = s.drm.mem) ∧
      (critical s a = false → (r.err = 2 → ∃ u v, exec (.dramReadReturn a r) s = .next (finish s u) ∧
          exec (.scrubBurst a r) s = .next (finish s v) ∧ u.drm.poison = insNat s.drm.poison (a / 32) ∧
          v.drm.poison = insNat s.drm.poison (a / 32) ∧ Named s u 6 ∧ Named s v 6 ∧ bit (u.r2 A.drcEvent) 1 = true ∧
          u.drm.mem = s.drm.mem ∧ u.drm.frozen = false ∧ u.job = s.job) ∧
        (∀ ch, ∃ u, exec (.commandCheckError (some a) ch r) s = .next (finish s u) ∧
          u.drm.poison = insNat s.drm.poison (a / 32) ∧ Named s u 6 ∧ u.drm.mem = s.drm.mem ∧ u.job = s.job) ∧
        (∀ ch, ∃ u, exec (.writeLinkEccError (some a) ch r) s = .next (finish s u) ∧
          (∀ b, b / 32 ≠ a / 32 → readByte u.drm.mem b = readByte s.drm.mem b) ∧ u.drm.poison = s.drm.poison ∧
          u.job = s.job ∧ u.vid = s.vid)) ∧
      (critical s a = true → (r.err = 2 → ∃ u, exec (.dramReadReturn a r) s = .next (finish s u) ∧ u.drm.frozen = true ∧
          Named s u 1 ∧ 1 ∈ u.flt.cause ∧ bit (u.r2 A.drcEvent) 2 = true ∧ u.drm.mem = s.drm.mem) ∧
        (∀ ch, ∃ u, exec (.commandCheckError (some a) ch r) s = .next (finish s u) ∧ u.drm.frozen = true ∧ Named s u 1 ∧
          u.drm.mem = s.drm.mem) ∧
        (∀ ch, ∃ u, exec (.writeLinkEccError (some a) ch r) s = .next (finish s u) ∧ u.drm.frozen = true ∧ Named s u 1 ∧
          u.drm.mem = s.drm.mem))) ∧
    (∀ w, Admin s w → ∃ u, exec (.drcDiagRelease w) s = .next (finish s u) ∧ bit (u.r2 A.drcDiagInfo) 0 = false ∧
      (∀ b, b ≠ A.drcDiagInfo → u.r2 b = s.r2 b) ∧ u = { s with b2 := u.b2 })

/-- Each bank owes a refresh more at its interval, at most eight; a bank that owes six or more, or that is not busy, is refreshed
(R396). MR4 is kept. A rank powers down with its rows closed (R397). A channel whose time or temperature asks for it retrains
(R399), with new values or a fault. A granule is mapped with its bytes zero (R390). GRN_SPILL is written when its cells and the
sums allow it (R343). -/
def Obligations.DramUpkeep : Prop :=
  ∀ (s : State) (ch rk : Nat),
    (ch < 16 → rk < s.drm.ranks → s.drm.raw ≠ 0 → s.drm.self = false →
      let key := fun b => (ch * 2 + rk) * 16 + b
      (∀ banks busy : List Nat,
        let n := fun b => if b ∈ banks then min 8 (owedOf s.drm (key b) + 1) else owedOf s.drm (key b)
        ((List.range 16).filter fun b => decide (6 ≤ n b)).length < 8 →
        ∃ u, exec (.refreshDue ch rk banks busy) s = .next (finish s u) ∧
          (∀ b, b < 16 → owedOf u.drm (key b) = if 6 ≤ n b ∨ (1 ≤ n b ∧ b ∉ busy) then n b - 1 else n b) ∧
          (∀ k, k / 16 ≠ ch * 2 + rk → owedOf u.drm k = owedOf s.drm k) ∧ u.drm.mem = s.drm.mem ∧ u.drm.map = s.drm.map ∧
          u.job = s.job ∧ u.vid = s.vid) ∧
      (∀ v, exec (.mr4Poll ch rk v) s = .next (s.setDrm { s.drm with mr4 := tset s.drm.mr4 (ch * 2 + rk) (v % 256) })) ∧
      (fld (s.r2 A.drcCtrl) 0 8 ≠ 0 → (∀ b, b < 16 → owedOf s.drm (key b) ≤ 5) →
        ∃ u, exec (.rankPowerDown ch rk) s = .next u ∧ (∀ b, b < 16 → tget u.drm.row (key b) = none) ∧
          u.drm.pd = insNat s.drm.pd (ch * 2 + rk) ∧ u = { s with drm := { s.drm with pd := u.drm.pd, row := u.drm.row } })) ∧
    (∀ t, ch < 16 → dramServes s = true → s.drm.retrain = none →
      (ch ∈ s.drm.due ∨ 10 < t - trainTemp s ch ∨ t - trainTemp s ch < -10 →
        exec (.dramRetrainStart ch t) s =
          .next (s.setDrm { s.drm with retrain := some ch, lastCh := ch, due := insNat s.drm.due ch })) ∧
      (ch ∉ s.drm.due → -10 ≤ t - trainTemp s ch → t - trainTemp s ch ≤ 10 → exec (.dramRetrainStart ch t) s = .next s)) ∧
    (∀ t, s.drm.retrain = some ch →
      (-128 ≤ t → t < 128 → ∃ u, exec (.dramRetrainDone true t) s = .next u ∧ u.drm.retrain = none ∧
        u.drm.due = remNat s.drm.due ch ∧ trainTemp u ch = t ∧ u.drm.mem = s.drm.mem ∧ u.job = s.job) ∧
      (∃ u, exec (.dramRetrainDone false t) s = .next (finish s u) ∧ u.drm.retrain = none ∧ u.drm.due = s.drm.due ∧
        trainTemp u ch = trainTemp s ch ∧ Named s u 7 ∧ bit (u.r2 A.drcEvent) 3 = true ∧ u.job = s.job)) ∧
    (∀ h g d, h < 32 → (s.hd h).enable = true → g < (s.hd h).qDram → tget s.drm.map (4096 * h + g) = none → d < dramAvail s →
      (∀ p ∈ s.drm.map, p.2 ≠ d) → dramServes s = true →
      ∃ u, exec (.granuleZeroDone h g d) s = .next u ∧ tget u.drm.map (4096 * h + g) = some d ∧
        (∀ k, k ≠ 4096 * h + g → tget u.drm.map k = tget s.drm.map k) ∧
        (∀ i, i < granule → readDev u h (g * granule + i) 1 = [0]) ∧
        (∀ a, a / granule ≠ d → readByte u.drm.mem a = readByte s.drm.mem a) ∧ u = { s with drm := u.drm }) ∧
    (∀ (w : Nat) (v : Word), Admin s w → let t := s.put2 A.grnSpill 0 7 (fld v 0 7)
      (v.toNat % 128 ≤ 64 → (∀ p ∈ s.grn.cells, p.1 < 65536) → sumsRefuse t = 0 → (∀ p ∈ s.drm.map, p.2 < dramAvail t) →
        exec (.grnSpillWrite w v) s = .next (finish s t)) ∧
      (64 < v.toNat % 128 ∨ (∃ p ∈ s.grn.cells, 65536 ≤ p.1) →
        exec (.grnSpillWrite w v) s = .next (finish s (devEvent s A.grnEvent 5 1319))))

/-! Rings of the DMA engine (R358 to R369). -/

/-- Descriptor and receive rings: ENABLE starts them at index 0 when their sizes are in range (R358, R366); a poke starts an idle
ring or is latched (R366); the owner changes only while the ring is off (R363). A fetched descriptor with OWN runs, one without
idles the ring unless it was poked (R366). It ends with its bytes moved, its STATUS written before OWN is cleared, and HEAD on
(R365, R367); an illegal one ends without a move. A descriptor that waits takes the cells that are free (R356); a channel that has
waited takes the next turn (R361). -/
def Obligations.DmaRings : Prop :=
  ∀ (s : State) (h r : Nat),
    (r < 32 → barOn s h = true → s.native h = true → s.active h = true →
      (bit (rxCtrl s h r) 0 = false → 4 ≤ fld (rxCtrl s h r) 1 4 → fld (rxCtrl s h r) 1 4 ≤ 12 → 11 ≤ fld (rxCtrl s h r) 5 4 →
        fld (rxCtrl s h r) 5 4 ≤ 14 →
        ∃ u, exec (.rxrEnable h r) s = .next u ∧ bit (rxCtrl u h r) 0 = true ∧ u.r0 h (B.rxr r + 12) = 0 ∧
          (tgetD u.dma.rx (32 * h + r) {}).pi = 0 ∧ (∀ k, k ≠ 32 * h + r → tget u.dma.rx k = tget s.dma.rx k) ∧ u.job = s.job) ∧
      (∀ v : Word, let n := v.toNat % 65536
        let size := 2 ^ fld (rxCtrl s h r) 1 4
        let pi := (tgetD s.dma.rx (32 * h + r) {}).pi
        (n % 0x8000 < size → idxDist size pi n ≤ idxDist size pi (fld (s.r0 h (B.rxr r + 12)) 0 16) →
          exec (.rxrCiWrite h r v) s = .next (s.w0 h (B.rxr r + 12) (BitVec.ofNat 32 n))) ∧
        (size ≤ n % 0x8000 ∨ idxDist size pi (fld (s.r0 h (B.rxr r + 12)) 0 16) < idxDist size pi n →
          exec (.rxrCiWrite h r v) s = .next s))) ∧
    (∀ w v, Admin s w → r < 16 →
      (bit (ringCtrl s r) 0 = false → exec (.dmaRingOwnerWrite w r v) s = .next (finish s (s.w2 (A.dmaRingOwner r) (v &&& 0x3F)))) ∧
      (bit (ringCtrl s r) 0 = true → exec (.dmaRingOwnerWrite w r v) s = .next (finish s s))) ∧
    (ringMine s h r = true →
      (bit (ringCtrl s r) 0 = false → 4 ≤ fld (ringCtrl s r) 1 4 → fld (ringCtrl s r) 1 4 ≤ 12 → s.active h = true →
        ∃ u, exec (.dmarEnable h r) s = .next u ∧ bit (ringCtrl u r) 0 = true ∧ u.ring r = { head := 0, run := true } ∧
          (∀ q, q ≠ r → u.ring q = s.ring q) ∧ u.job = s.job) ∧
      (bit (ringCtrl s r) 0 = true →
        (∃ u, exec (.dmarDisable h r) s = .next u ∧ bit (ringCtrl u r) 0 = false ∧
          u.ring r = { s.ring r with run := (s.ring r).cur.isSome, latch := false } ∧ (∀ q, q ≠ r → u.ring q = s.ring q)) ∧
        exec (.dmarPoke h r) s =
          .next (s.setRing r (if (s.ring r).run then { s.ring r with latch := true } else { s.ring r with run := true, latch := false }))) ∧
      (bit (ringCtrl s r) 0 = false → exec (.dmarPoke h r) s = .next s)) ∧
    (ringOwner s r = some h → r < 16 → s.flt.safe = false → s.active h = true →
      (∀ d : List Word, d.length = 8 → (s.ring r).run = true → (s.ring r).cur = none →
        (bit (d.getD 0 0) 0 = true →
          exec (.dmaDescriptorFetch r d) s = .next (s.setRing r { s.ring r with cur := some { w := d }, latch := false })) ∧
        (bit (d.getD 0 0) 0 = false →
          exec (.dmaDescriptorFetch r d) s = .next (s.setRing r { s.ring r with run := (s.ring r).latch, latch := false }))) ∧
      (∀ d m, (s.ring r).cur = some d → (s.ring r).chain = none → bit (d.wd 0) 2 = false →
        let a := (s.q0 32 (B.dmar r)).toNat % 2 ^ 62 + (s.ring r).head * 32
        let own := fun (moved code : Nat) => Out.hostWrite h a (toLE 4 (d.wd 0 &&& ~~~1#32).toNat) ::
          Out.hostWrite h (a + 0x18) (toLE 4 moved ++ toLE 4 code) :: s.out
        let next : DRing :=
          { head := ((s.ring r).head + 1) % 2 ^ fld (ringCtrl s r) 1 4, run := bit (ringCtrl s r) 0 }
        (∀ code, descCheck s h d = .error code → ∃ u, exec (.dmaDescriptorDone r m) s = .next (finish s u) ∧
          u.out = own 0 code ∧ u.ring r = next ∧ u.drm = s.drm ∧ u.job = s.job) ∧
        (∀ p q, descCheck s h d = .ok (.at_ (.dev q), .at_ (.dev p)) → devMapped s h q d.len = true →
          devMapped s h p d.len = true → devPoison s h q d.len = false → overlaps (.dev q) (.dev p) d.len = false →
          overlaps (.dev p) (.dev q) d.len = false → Apart s h p d.len →
          ∃ u, exec (.dmaDescriptorDone r m) s = .next (finish s u) ∧ Stored s u h p (readDev s h q d.len) ∧
            u.out = own d.len 0 ∧ u.ring r = next ∧ u.job = s.job)) ∧
      (∀ d p c y k s1, (s.ring r).cur = some d → (s.ring r).wait = true → (s.ring r).chain = none → (s.ring r).cells = 0 →
        descCheck s h d = .ok (.at_ p, .fifo c) → itemCells d.len = 1 → s.chan c = some y →
        fifoUsed (s.fifo (fin_ c)) < y.blk.fifoCells → growChain s h none = some (k, s1) →
        exec (.granaryWaitResume true r) s =
          .next (finish s (s1.setRing r { s.ring r with chain := some k, cells := 1, wait := false })))) ∧
    (∀ c, s.flt.safe = false → s.chan c = none → exec (.granaryWaitResume false c) s = .next (finish s s)) ∧
    (r < 16 → (s.ring r).cur.isSome = true →
      exec (.dmaStarvationTurn (16 + r)) s = .next { s with dma := { s.dma with turn := insNat s.dma.turn (16 + r) } })

/-! Egress (R373 to R384). -/

/-- Egress takes an item when its one flow has room and cells for its packets, and reads past a gap marker (R356, R373, R380); the
host's producer index of a feed is taken while it goes on by at most the ring (R374); a datagram closes after HOLD_US (R379); a PCR
that falls due goes into a packet, or waits for the first picture (R377); PSI is repeated from its template, or its last copy
(R375). A port sends the datagram that the shaper chose, or discards it when it does not transmit (R380, R382). Depths are
sampled, and marks cleared (R383). -/
def Obligations.Egress : Prop :=
  ∀ (s : State),
    (∀ c i rest, s.flt.safe = false → egrFlowsOf s c ≠ [] → (s.fifo (fout c)).items = i :: rest →
      let s1 := s.setFifo (fout c) { s.fifo (fout c) with items := rest }
      (i.gap = true → exec (.egressItemTake c) s = .next (finish s (decRef s1 i.cell 1))) ∧
      (∀ e x y, i.gap = false → egrFlowsOf s c = [e] → tget s.egr.flow e = some x → x.pcrDue = false → s.chan c = some y →
        let ps := (takeItem y.blk.live x i).1
        queueRoom x ps.length = true → (cellsFor s x.hold ps.length).1.isSome = true →
          (cellsFor s1 x.hold ps.length).1.isSome = true →
        ∃ u z, exec (.egressItemTake c) s = .next (finish s u) ∧ tget u.egr.flow e = some z ∧
          z.packets.length = x.packets.length + ps.length ∧ z.rest = (takeItem y.blk.live x i).2.rest ∧ z.curPic = (takeItem y.blk.live x i).2.curPic ∧
          (u.fifo (fout c)).items = rest ∧ (∀ d, d ≠ e → tget u.egr.flow d = tget s.egr.flow d) ∧ u.job = s.job)) ∧
    (∀ h slot e x (v : Word), barOn s h = true → s.native h = true → feedFlow s h slot = some e → tget s.egr.flow e = some x →
      x.hold = h → x.feed = some slot →
      let dist := fun (n : Nat) => (n + 2 ^ 32 - (s.r0 h (B.egfCi slot)).toNat) % 2 ^ 32
      (dist v.toNat ≤ 2 ^ x.feedLog2 → dist (s.r0 h (B.egfPi slot)).toNat ≤ dist v.toNat → s.flt.safe = true ∨ dist v.toNat < 8 →
        exec (.egfPiWrite h slot v) s =
          .next (finish s ((s.w0 h (B.egfPi slot) v).setEflow e { x with feedTime := s.tim.dtb }))) ∧
      (2 ^ x.feedLog2 < dist v.toNat ∨ dist v.toNat < dist (s.r0 h (B.egfPi slot)).toNat →
        exec (.egfPiWrite h slot v) s = .next s)) ∧
    (∀ e x, tget s.egr.flow e = some x → x.dgram ≠ [] → x.ready = [] →
      exec (.datagramHoldExpiry e) s = .next (s.setEflow e { x with dgram := [], ready := x.dgram })) ∧
    (∀ e x, tget s.egr.flow e = some x → x.closing = false → ∃ u z, exec (.pcrIntervalExpiry e) s = .next (finish s u) ∧
      tget u.egr.flow e = some z ∧ (x.offset = none → z.pcrDue = true) ∧
      (x.offset ≠ none → z.pcrDue = false ∧ ∃ p ∈ z.packets, p.pcr = true) ∧
      (∀ d, d ≠ e → tget u.egr.flow d = tget s.egr.flow d) ∧ u.job = s.job ∧ u.vid = s.vid ∧ u.grn = s.grn) ∧
    (∀ e t x p, tget s.egr.flow e = some x → x.psi[t]? = some p → p.en = true → x.closing = false → s.flt.safe = false →
      psiMapped s x.hold p = true →
      (psiRead s x.hold p = none → p.copy = none →
        exec (.psiRepeatDue e t) s = .next (s.setEflow e { x with psi := x.psi.set t p })) ∧
      (∀ b, psiRead s x.hold p = some b → let ps := psiPackets p.pid (if p.crc then withCrcs b.length b else b)
        queueRoom x ps.length = true → (cellsFor s x.hold ps.length).1.isSome = true →
        ∃ u z, exec (.psiRepeatDue e t) s = .next (finish s u) ∧ tget u.egr.flow e = some z ∧
          z.packets.length = x.packets.length + ps.length ∧ z.psi = x.psi.set t { p with copy := some b } ∧ u.job = s.job ∧
          u.vid = s.vid)) ∧
    (∀ p k, p < 8 → s.flt.safe = false → choose s p = some k → k.c.x.feed = none → k.c.x.closing = false →
      (bit (s.r2 (A.egrPort p)) 0 = true → linkUp s p = true →
        ∃ u fr, exec (.egressFrameStart p) s = .next (finish s u) ∧ u.out = .frame p fr :: s.out ∧
          u.q2 (A.egrFlow k.c.e) = s.q2 (A.egrFlow k.c.e) + BitVec.ofNat 64 k.c.d.length ∧ u.job = s.job ∧ u.vid = s.vid) ∧
      (bit (s.r2 (A.egrPort p)) 0 = false ∨ linkUp s p = false →
        ∃ u, exec (.egressFrameStart p) s = .next (finish s u) ∧ u.out = s.out ∧
          u.q2 (A.egrFlow k.c.e) = s.q2 (A.egrFlow k.c.e) ∧ bit (u.r2 A.egrEvent) 2 = true ∧ u.job = s.job ∧ u.vid = s.vid)) ∧
    (s.egr.flow.length ≤ 64 → ∃ u, exec .egressDepthSample s = .next u ∧
      (∀ e x, (e, x) ∈ s.egr.flow → (∀ q ∈ s.egr.flow, q.1 = e → q.2 = x) →
        u.r2 (A.egrFlow e + 8) = BitVec.ofNat 32 (sat32 (depthOf x))) ∧ u = { s with b2 := u.b2 }) ∧
    (64 < s.egr.flow.length → exec .egressDepthSample s = .next s) ∧
    (∀ w (v : Word), Admin s w → let e := v.toNat % 256
      exec (.egrObsClr w v) s = .next (finish s ((s.w2 (A.egrFlow e + 0x10) 0).w2 (A.egrFlow e + 0x14) 0)))

/-! The Yoke, clocks and power levels (R408 to R430). -/

/-- A request that fits under the ceiling is admitted and charged, one beyond its quota that does not fit waits (R419 to R422). A
recalled grant goes and RECALL sets (R424). The ramp covers its oldest cost (R421). The ceiling is written between 320 and 1200
where the quotas allow it (R419). A measured current above the ledger is an overdraw; CAL follows the current (R418). Fallow tasks
start and end (R426, R427). A temperature is noted, and at 120 °C it trips (R428, R430). -/
def Obligations.YokeLedger : Prop :=
  ∀ (s : State),
    (∀ r, s.yoke.reqs = [r] → s.yoke.change = none → envActive s ≠ 2 →
      (ledger s + paidSum (reqPaid s r) ≤ ceiling s → exec (.yokeGrantAdmit []) s = .next (finish s (admitReq s r)) ∧
        ((∀ g ∈ s.yoke.grants, g.key ≠ r.key) → ledger (admitReq s r) = ledger s + paidSum (reqPaid s r) ∧
          (admitReq s r).yoke.reqs = [] ∧ ∃ g ∈ (admitReq s r).yoke.grants, g.key = r.key ∧ g.hold = r.hold ∧ g.paid = reqPaid s r)) ∧
      (ceiling s < ledger s + paidSum (reqPaid s r) → reqGroup s r = 4 → exec (.yokeGrantAdmit []) s = .next (finish s s))) ∧
    (∀ k, k ∈ s.yoke.recalls → s.yoke.change = none → ∃ u, exec (.yokeRecallDone k) s = .next (finish s u) ∧
      (∀ g ∈ u.yoke.grants, g.key ≠ k) ∧ bit (u.r2 A.yokeEvent) 1 = true ∧ u.vid = s.vid ∧ u.hold = s.hold ∧ u.drm = s.drm) ∧
    (∀ r rest, s.yoke.ramp = r :: rest → r.key = none →
      (8 ≤ r.unit → exec .rampStep s =
        .next (finish s (s.setYoke { s.yoke with ramp := rest, plls := insNat s.yoke.plls r.unit }))) ∧
      (r.unit < 8 → r.clk ≠ 0 → ∃ u, exec .rampStep s = .next (finish s u) ∧ u.yoke.ramp = rest ∧
        (u.fs r.unit).clk = min r.clk (targetClk s (envActive s) r.unit) ∧ (∀ g, g ≠ r.unit → u.fs g = s.fs g) ∧ u.job = s.job)) ∧
    (∀ (w : Nat) (v : Word), Admin s w → bit (s.r2 A.bkPoolCtrl) 0 = false →
      let c := max 320 (min 1200 (v.toNat % 2048))
      let sum := s.hold.foldl (fun n p => if p.2.enable then n + p.2.qYoke else n) 0
      (sum + 208 ≤ c → ledger s ≤ c → exec (.yokeCeilingWrite w v) s = .next (finish s (s.put2 A.yokeCeiling 0 11 c))) ∧
      (c < sum + 208 → exec (.yokeCeilingWrite w v) s = .next (finish s s))) ∧
    (∀ cu, let s1 := s.w2 A.yokeIout (BitVec.ofNat 32 (cu % 2048))
      (cu ≤ ledger s → exec (.ioutSample cu) s = .next (finish s s1)) ∧
      (ledger s < cu → exec (.ioutSample cu) s = .next (finish s ((devEvent s1 A.yokeEvent 3 1316).raise { src := 4 })))) ∧
    (let i := fld (s.r2 A.yokeIout) 0 11
      let c := if 95 * ledger s < 100 * i then min 72 (s.yoke.cal + 1)
        else if 100 * i < 80 * ledger s then max 56 (s.yoke.cal - 1) else s.yoke.cal
      exec .yokeCalUpdate s = .next (s.setYoke { s.yoke with cal := c })) ∧
    (∀ k n, k ≠ 2 → k ≠ 5 → k * 32 + n ∉ s.yoke.fallow → ∀ b, exec (.fallowTaskStart k n b) s =
      .next (s.setYoke { s.yoke with fallow := insNat s.yoke.fallow (k * 32 + n) })) ∧
    (∀ n, n < 8 → (∀ x ∈ s.yoke.fallow, x / 32 ≠ 5) → (∀ q ∈ s.yoke.reqs, q.key ≠ 256 + n) →
      ∃ u, exec (.fallowTaskStart 5 n true) s = .next u ∧ u.yoke.reqs = s.yoke.reqs ++
        [{ key := 256 + n, field := n, hold := 32, cls := 7, live := false, fallow := 1 }] ∧ (u.fs n).test = 1 ∧
        u.yoke.fallow = insNat s.yoke.fallow (160 + n) ∧ u = { s with yoke := u.yoke }) ∧
    (∀ l, exec (.laneRecal l) s = .next (s.setYoke { s.yoke with fallow := remNat s.yoke.fallow (64 + l) })) ∧
    (∀ f, 160 + f ∈ s.yoke.fallow → (∃ g ∈ s.yoke.grants, g.key = 256 + f) → (∀ w ∈ s.job.work, w.2.engine = false ∨ w.2.ctx / 32 ≠ f) →
      exec (.fieldSelftestStart f) s = .next (s.modFs f fun x => { x with test := if x.test = 1 then 2 else 3 })) ∧
    (∀ t : List Int, sensorOut s = none →
      (tempTop t < (fld (s.r2 A.tempCfg) 0 8 : Nat) → tempTop t < (min 110 (fld (s.r2 A.tempCfg) 8 8) : Nat) → tempTop t < 120 →
        s.yoke.hot = false → (∀ f, f < 8 → (s.fs f).throttle = 0) → ∃ u, exec (.tempSample t) s = .next (finish s u) ∧
          u.r2 A.tempStatus = BitVec.ofNat 32 ((tempTop t % 256).toNat + min 8 (t.findIdx (· == tempTop t)) * 256) ∧
          (∀ a, a ≠ A.tempStatus → u.r2 a = s.r2 a) ∧ 2 ∉ u.flt.cause ∧ u.flt.fired = s.flt.fired ∧ u.yoke = s.yoke ∧
          u.job = s.job) ∧
      (120 ≤ tempTop t → 2 ∉ s.flt.cause → ∃ u, exec (.tempSample t) s = .next (finish s u) ∧ 2 ∈ u.flt.cause ∧ Named s u 2 ∧
        u.job = s.job ∧ u.vid = s.vid))

/-- Fields fall asleep and wake (R410); PLLs stop 10 µs after their last user, lose lock and lock again (R408, R409). The uncore
enters a deeper level whose condition holds, and wakes from it, with DTB_COARSE after PL4 (R411 to R413). An envelope change
asks for its voltage when the new figures fit, and ends with ENV_DONE, or abandons with ENV_FAIL (R414, R415). -/
def Obligations.PowerLevels : Prop :=
  ∀ (s : State),
    (∀ f l, f < 8 → 2 ≤ l → l ≤ 4 → fieldGranted s f = false → drillBusy s f = false → (s.fs f).waking = false →
      (s.fs f).fs < min l (deepestFs s f) → exec (.fieldIdleTimer f l) s =
        .next (s.modFs f fun x => { x with fs := min l (deepestFs s f), pllStop := x.clk ≠ 0 })) ∧
    (∀ f, (s.fs f).waking = true → ∃ u, exec (.fieldWakeDone f) s = .next u ∧ u.fs f = { s.fs f with waking := false, fs := 1 } ∧
      (∀ g, g ≠ f → u.fs g = s.fs g) ∧ (∀ k, k / 32 ≠ f → u.ctx k = s.ctx k) ∧ SameParts { s with yoke := u.yoke } u ∧ SameRegs s u) ∧
    (∀ i, i < 8 → (s.fs i).pllStop = true → fieldGranted s i = false →
      exec (.pllStopTimer i) s = .next (s.modFs i fun x => { x with clk := 0, pllStop := false })) ∧
    (∀ i, 8 ≤ i → i ∈ s.yoke.plls → pllUser s i = false → exec (.pllStopTimer i) s =
      .next (s.setYoke { s.yoke with plls := remNat s.yoke.plls i, pllIdle := remNat s.yoke.pllIdle i })) ∧
    (∀ i, pllRuns s i = true → i ∉ s.yoke.unlocked → ∃ u, exec (.pllLockLoss i) s = .next (finish s u) ∧
      u.yoke = { s.yoke with unlocked := insNat s.yoke.unlocked i } ∧ 3 ∈ u.flt.cause ∧
      u.flt.fired = s.flt.fired ++ [{ src := 3, info1 := i }] ∧ u.job = s.job ∧ u.vid = s.vid) ∧
    (∀ i, s.yoke.unlocked = [i] → ∃ u, exec (.pllRelock i) s = .next u ∧ u.yoke = { s.yoke with unlocked := [] } ∧
      3 ∉ u.flt.cause ∧ u.job = s.job ∧ u.vid = s.vid) ∧
    (∀ l, s.yoke.pl < l → l ≤ deepestPl s → plCond s l = true → s.yoke.wake = none → ∃ u, exec (.uncoreLevelEntry l) s = .next u ∧
      u.yoke.pl = l ∧ (3 ≤ l → s.yoke.pl < 3 → u.drm.self = true) ∧ (l < 3 → u = s.setYoke { s.yoke with pl := l }) ∧
      u.drm.mem = s.drm.mem ∧ u.job = s.job ∧ u.vid = s.vid ∧ u.b2 = s.b2) ∧
    (∀ l, l < s.yoke.pl → s.yoke.wake = none → exec (.uncoreWake l) s = .next (s.setYoke { s.yoke with wake := some l })) ∧
    (∀ l, s.yoke.wake = some l → ∃ u, exec .uncoreWakeDone s = .next (finish s u) ∧ u.yoke.pl = l ∧ u.yoke.wake = none ∧
      (3 ≤ s.yoke.pl → l < 3 → u.drm.self = false) ∧ (s.yoke.pl = 4 → l < 4 → bit (u.r2 A.yokeEvent) 7 = true) ∧
      u.drm.mem = s.drm.mem ∧ u.job = s.job ∧ u.vid = s.vid) ∧
    (∀ (w : Nat) (v : Word), Admin s w → (bit (s.r2 A.pwrEnvelope) 3 = false → v.toNat % 4 ≠ 3 → s.yoke.fast = [] →
        ∃ u, exec (.envelopeChange w v) s = .next (finish s u) ∧ fld (u.r2 A.pwrEnvelope) 0 2 = v.toNat % 4 ∧
          bit (u.r2 A.pwrEnvelope) 3 = true ∧ envActive u = envActive s ∧
          (envTotal s (v.toNat % 4) ≤ ceiling s → u.yoke.change = some (v.toNat % 4, 3) ∧
            u.out = .vout (envVolt (v.toNat % 4)) :: s.out) ∧
          (ceiling s < envTotal s (v.toNat % 4) → u.yoke.change = some (v.toNat % 4, 1) ∧ u.out = s.out) ∧ u.job = s.job ∧
          u.vid = s.vid) ∧
      (bit (s.r2 A.pwrEnvelope) 3 = true ∨ v.toNat % 4 = 3 → exec (.envelopeChange w v) s = .next (finish s s))) ∧
    (∀ e, s.yoke.change = some (e, 1) → ∃ u, exec .envelopeFitTimeout s = .next (finish s u) ∧ u.yoke = { s.yoke with change := none } ∧
      bit (u.r2 A.pwrEnvelope) 3 = false ∧ bit (u.r2 A.yokeEvent) 5 = true ∧ u.out = s.out ∧ u.job = s.job ∧ u.vid = s.vid) ∧
    (∀ e mv, s.yoke.change = some (e, 3) → (mv ≤ envVolt e + 10 → envVolt e ≤ mv + 10 →
        ∃ u, exec (.voutPoll mv) s = .next u ∧ u.yoke.change = some (e, 4) ∧ u.yoke.grants = s.yoke.grants ∧ u.job = s.job ∧
          u.vid = s.vid ∧ u.out = s.out) ∧
      (envVolt e + 10 < mv ∨ mv + 10 < envVolt e → exec (.voutPoll mv) s = .next s)) ∧
    (∀ e, s.yoke.change = some (e, 3) → ∃ u, exec .voutSettleTimeout s = .next (finish s u) ∧ u.yoke.change = none ∧
      bit (u.r2 A.yokeEvent) 5 = true ∧ bit (u.r2 A.yokeEvent) 6 = true ∧ bit (u.r2 A.pwrEnvelope) 3 = false ∧
      envActive u = envActive s ∧ u.out = .vout (envVolt (envActive s)) :: s.out ∧ u.job = s.job ∧ u.vid = s.vid) ∧
    (∀ e, e < 3 → s.yoke.change = some (e, 4) → ∃ u, exec .envelopeChangeDone s = .next (finish s u) ∧ u.yoke.change = none ∧
      envActive u = e ∧ bit (u.r2 A.pwrEnvelope) 3 = false ∧ bit (u.r2 A.yokeEvent) 4 = true ∧ u.out = s.out ∧ u.job = s.job ∧
      u.vid = s.vid)

/-! Self-tests and boot (R451 to R473). -/

/-- ST_CMD as a start of test `k` of target `n` leaves it. -/
def Sys2Proof.Machine.stCmdSet (s : State) (k n : Nat) : State := (s.put2 A.stCmd 0 3 k).put2 A.stCmd 8 5 n

/-- A self-test on command starts when none runs, and is refused and counted while one does (R471); a lane whose port is enabled is
BUSY; far-end loopback lasts until it is stopped (R468). A test that ends leaves its result and ST_EVENT, and a failed one its
fault (R467, R472); a repair burn makes the soft repairs fuses, where the entries suffice (R470). -/
def Obligations.SelfTests : Prop :=
  ∀ (s : State) (w : Nat),
    (Admin s w → s.sys.stRun = none → dueFieldTest s = false →
      (∀ f, f < 8 → (∀ g, g < 8 → 160 + g ∉ s.yoke.fallow) → (∀ q ∈ s.yoke.reqs, q.key ≠ 256 + f) →
        ∃ u, exec (.selftestField w f) s = .next (finish s u) ∧ u.sys = { s.sys with stRun := some (0, f) } ∧
          (u.fs f).test = 1 ∧ u.yoke.fallow = insNat s.yoke.fallow (160 + f) ∧ u.yoke.reqs = s.yoke.reqs ++
            [{ key := 256 + f, field := f, hold := 32, cls := 7, live := false, fallow := 1 }] ∧ u.job = s.job ∧ u.vid = s.vid) ∧
      (∀ l, l < 20 → lanePortOn s l = false →
        exec (.selftestSerdesNear w l) s = .next (finish s (stBegin (stCmdSet s 1 l) 1 l)) ∧
        exec (.selftestSerdesFar w l) s =
          .next (finish s { stCmdSet s 2 l with sys := { s.sys with farLoop := insNat s.sys.farLoop l } })) ∧
      (∀ l, l < 20 → lanePortOn s l = true → ∃ u, exec (.selftestSerdesNear w l) s = .next (finish s u) ∧ u.sys = s.sys ∧
        u.r2 (A.stResult (8 + l)) = 5 ∧ bit (u.r2 A.stEvent) 0 = true ∧ u.job = s.job) ∧
      (∀ l, exec (.selftestSerdesFarStop w l) s =
        .next (finish s { stCmdSet s 2 l with sys := { s.sys with farLoop := remNat s.sys.farLoop l } })) ∧
      exec (.selftestPll w) s = .next (finish s (stBegin (stCmdSet s 3 0) 3 0)) ∧
      exec (.selftestTemp w) s = .next (finish s (stBegin (stCmdSet s 4 0) 4 0)) ∧
      exec (.selftestRepairBurn w) s = .next (finish s (stBegin (stCmdSet s 7 0) 7 0))) ∧
    (Admin s w → s.sys.stRun ≠ none → exec (.selftestPll w) s = .next (finish s (stRefuse s)) ∧
      exec (.selftestTemp w) s = .next (finish s (stRefuse s)) ∧ exec (.selftestRepairBurn w) s = .next (finish s (stRefuse s)) ∧
      ∀ f, exec (.selftestField w f) s = .next (finish s (stRefuse s))) ∧
    (∀ (r : TestRes) n l, s.sys.stRun = some (1, l) → l < 20 → r.unit = 8 + l →
      (r.res = 1 → ∃ u, exec (.selftestDone r n) s = .next (finish s u) ∧ u.sys = { s.sys with stRun := none } ∧
        u.r2 (A.stResult r.unit) = BitVec.ofNat 32 (1 + r.detail % 256 * 256 + min r.dur 65535 * 65536) ∧
        bit (u.r2 A.stEvent) 0 = true ∧ u.flt = s.flt ∧ u.job = s.job) ∧
      (r.res = 3 → ∃ u, exec (.selftestDone r n) s = .next (finish s u) ∧ u.sys = { s.sys with stRun := none } ∧
        fld (u.r2 (A.stResult r.unit)) 0 3 = 3 ∧ bit (u.r2 A.stEvent) 1 = true ∧ Named s u 19 ∧ u.job = s.job)) ∧
    (∀ (r : TestRes) n, s.sys.stRun = some (7, 0) → r.unit = 32 → r.res = 1 → ∃ u, exec (.selftestDone r n) s = .next (finish s u) ∧
      u.sys.stRun = none ∧ u.job = s.job ∧
      (s.sys.repairUsed + s.sys.softRepairs ≤ 128 → u.sys.repairUsed = s.sys.repairUsed + s.sys.softRepairs ∧
        u.sys.softRepairs = 0 ∧ fld (u.r2 (A.stResult 32)) 0 3 = 1) ∧
      (128 < s.sys.repairUsed + s.sys.softRepairs → u.sys.repairUsed = s.sys.repairUsed ∧ fld (u.r2 (A.stResult 32)) 0 3 = 6))

/-- The resets and the boot (R442, R451 to R459, R472, R508, R509): PORST_N leaves nothing but fuses and pins, SYSRST_N keeps the
fault log and memory; a boot from good flash images runs to RUN with the board's ceiling and memory, and the administrative role
with holding 0 (R30); a bad directory or a reserved boot mode halts it with a code and opens the window; the window takes the
item that is wanted and refuses another with code 0x0A; the watchdog reports. -/
def Obligations.ResetsAndBoot : Prop :=
  (∀ (s : State) (up : Bool), ∃ u v, exec (.powerOnReset up) s = .next u ∧ exec .powerLoss s = .next v ∧
    (u.b2 = [] ∧ u.b0 = [] ∧ u.bc = [] ∧ u.hold = State.reset.hold ∧ u.job = {} ∧ u.vid = {} ∧ u.drm = {} ∧ u.yoke = {} ∧
      u.tim = {} ∧ u.flt.log = [] ∧ u.sys.porst = true ∧ u.pending = s.pending ∧ FuseGrows s u ∧ FuseGrows u s) ∧
    (up = true → u.sys.powerGood = true) ∧
    (v.b2 = [] ∧ v.b0 = [] ∧ v.job = {} ∧ v.vid = {} ∧ v.drm = {} ∧ v.sys.porst = true ∧ v.sys.powerGood = false ∧
      FuseGrows s v)) ∧
  (∀ s : State, s.sys.porst = false → s.sys.powerGood = true → ∃ u, exec .sysrstN s = .next u ∧ u.sys.sysrst = true ∧ u.b0 = [] ∧
    u.job = {} ∧ u.vid = {} ∧ u.yoke = {} ∧ u.hold = State.reset.hold ∧ u.flt.log = s.flt.log ∧ u.flt.seq = s.flt.seq ∧
    u.flt.safe = false ∧ u.flt.status = [] ∧ u.drm.mem = s.drm.mem ∧ u.tim.aon = s.tim.aon ∧ u.sys.trained = s.sys.trained ∧
    u.pending = s.pending) ∧
  (∀ s : State, s.sys.porst = true → exec .sysrstN s = .next { s with sys := { s.sys with sysrst := true } }) ∧
  (∀ (s : State) (b : BootIn), s.sys.porst = true → s.sys.powerGood = true → s.sys.sysrst = false →
    (b.mode = 3 → b.testN = false → exec (.bootStart b) s = .refused .factoryTest) ∧
    (b.mode = 2 → ∃ u, exec (.bootStart b) s = .next (finish s u) ∧ fld (u.r2 A.bootStatus) 0 4 = 7 ∧
      fld (u.r2 A.bootStatus) 8 8 = 1 ∧ u.sys.bwOpen = true) ∧
    (b.mode = 1 → ∃ u, exec (.bootStart b) s = .next (finish s u) ∧ bit (u.r2 A.bootStatus) 16 = true ∧
      fld (u.r2 A.bootStatus) 17 2 = 0 ∧ u.sys.bwOpen = true) ∧
    (b.mode = 0 → b.dirOk = false → ∃ u, exec (.bootStart b) s = .next (finish s u) ∧ fld (u.r2 A.bootStatus) 0 4 = 7 ∧
      fld (u.r2 A.bootStatus) 8 8 = 2 ∧ u.sys.bwOpen = true) ∧
    (∀ i c n, b.mode = 0 → b.dirOk = true → b.fwA = some i → fwOk s i = true → b.board = some c → boardOk c = true →
      b.vrOk = true → b.dramOk = true → b.tests = [] → b.bunA = none → b.bunB = none → c.flags = 0 → b.links = [] →
      b.pv16 = false → (∀ p, (s.hp p).up = false) → rawGranules c.density c.ranks = some n →
      ∃ u, exec (.bootStart b) s = .next (finish s u) ∧ fld (u.r2 A.bootStatus) 0 4 = 6 ∧ u.sys.bwOpen = false ∧
        u.r2 A.bootVersion = i.version ∧ ceiling u = c.ceiling ∧ u.drm.raw = n ∧ u.drm.ranks = c.ranks ∧ u.drm.self = false ∧
        u.adm.owner = some 0 ∧ u.adm.lease = true ∧ (u.hd 0).enable = true ∧ u.sys.board = some c ∧ Named s u 17)) ∧
  (∀ (s : State) (b : BootIn), s.sys.porst = false → exec (.bootStart b) s = .next s) ∧
  (∀ (s : State) (b : BootIn), s.sys.sysrst = true →
    (s.sys.porst = true → exec (.sysrstNRelease b) s = .next { s with sys := { s.sys with sysrst := false } }) ∧
    (s.sys.porst = false → s.sys.powerGood = true → s.sys.bootMode = 1 → ∃ u, exec (.sysrstNRelease b) s = .next (finish s u) ∧
      bit (u.r2 A.bootStatus) 16 = true ∧ u.sys.bwOpen = true ∧ u.sys.sysrst = false ∧ u.drm = s.drm)) ∧
  (∀ (s : State) (v : Word) (i : BootItem) (b : BootIn), s.sys.bwOpen = true → (s.hp 0).up = true →
    (bit (s.r2 A.bootStatus) 16 = false → exec (.bootWindowGo 0 v i b) s = .next (s.w0 0 B.bwCtrl (v &&& 0xFFFFFF))) ∧
    (bit (s.r2 A.bootStatus) 16 = true → fld v 22 2 ≠ fld (s.r2 A.bootStatus) 17 2 →
      exec (.bootWindowGo 0 v i b) s = .next (setCode (s.w0 0 B.bwCtrl (v &&& 0xFFFFFF)) 0x0A)) ∧
    (∀ x, bit (s.r2 A.bootStatus) 16 = true → fld (s.r2 A.bootStatus) 17 2 = 0 → fld v 22 2 = 0 → i = .image x → fwOk s x = true →
      304 + x.length ≤ fld v 0 22 → fld v 0 22 ≤ 1048880 → b.board = none →
      ∃ u, exec (.bootWindowGo 0 v i b) s = .next (finish s u) ∧ u.r2 A.bootVersion = x.version ∧
        fld (u.r2 A.bootStatus) 0 4 = 2 ∧ bit (u.r2 A.bootStatus) 16 = true ∧ fld (u.r2 A.bootStatus) 17 2 = 1 ∧ u.drm = s.drm)) ∧
  (∀ s : State, 2 ≤ fld (s.r2 A.bootStatus) 0 4 → fld (s.r2 A.bootStatus) 0 4 ≤ 6 →
    exec .mpWatchdog s = .next (finish s ((bootEvent s 3).raise { src := 23 })))

/-! Baulk (R474 to R487). -/

/-- The head of frame `h` is for this device, and the next of port `p`, which is up. -/
def Sys2Proof.Machine.Next (s : State) (p : Nat) (h : BkHdr) : Prop :=
  (s.bp p).up = true ∧ h.dst = s.sys.baulkId ∧ h.seq % 4096 = (s.bp p).rx

/-- `u` has applied the frame of number `n` and acknowledges it with the room of `len` bytes and an answer. -/
def Sys2Proof.Machine.Acked (s u : State) (p len : Nat) (ans : Option Nat) (sent : List Out) : Prop :=
  u.out = .baulk p 7 (s.bp p).rx (toLE 8 (16 + len) ++ (match ans with | some a => toLE 8 a | none => [])) :: (sent ++ s.out) ∧
    (u.bp p).rx = ((s.bp p).rx + 1) % 4096 ∧ (u.bp p).up = true

/-- A Baulk link comes up with the peer that the wiring names, and reports another (R474, R476); a frame for another device is dropped and
counted (R475); it is lost with its lock or
without ACKs (R478). A peer's WRITE is applied or refused with nothing written, its READ_REQ answered with the bytes or
MEMORY_REMOTE, its SIGNAL added to the semaphore, its FLUSH acknowledged (R477, R480 to R482); an ACK frees the replay buffer, a
NAK replays it, a damaged frame is NAKed (R477). The tables of exports and imports change only where they are not VALID (R479). -/
def Obligations.BaulkLinks : Prop :=
  ∀ (s : State) (p : Nat),
    (∀ w, Admin s w → p < 3 → bkOn s p = false →
      exec (.baulkPortEnable w p) s = .next (finish s (claimPll (s.put2 (A.bkPortCtrl p) 0 1 1) 12))) ∧
    (bkReady s p = true → (s.bp p).up = false →
      exec (.baulkBringupRetry p) s = .next (s.emit (linkFrame s p)) ∧
      (∃ u, exec (.link p s.sys.baulkId ((s.sys.baulkId + p + 1) % 4) (2 - p)) s = .next (finish s u) ∧
        u.bp p = { up := true, credit := 262144 } ∧ u.out = linkFrame s p :: s.out ∧
        fld (u.r2 (A.bkPortStatus p)) 1 2 = (s.sys.baulkId + p + 1) % 4 ∧ bit (u.r2 (A.bkPortStatus p)) 8 = true ∧
        u.flt.fired = s.flt.fired ∧ u.job = s.job) ∧
      (∀ i q, i ≠ (s.sys.baulkId + p + 1) % 4 ∨ q ≠ 2 - p → ∃ u, exec (.link p s.sys.baulkId i q) s = .next (finish s u) ∧
        u.bp p = s.bp p ∧ bit (u.r2 (A.bkPortStatus p)) 10 = true ∧ Named s u 25 ∧ u.job = s.job)) ∧
    ((s.bp p).up = true → (s.bp p).wait = [] →
      (∃ u, exec (.baulkLaneLockLoss p) s = .next (finish s u) ∧ u.bp p = {} ∧ bit (u.r2 (A.bkPortStatus p)) 9 = true ∧ Named s u 24 ∧
        u.job = s.job) ∧
      ((s.bp p).replay ≠ [] → ∃ u, exec (.baulkAckTimeout p) s = .next (finish s u) ∧ u.bp p = {} ∧ Named s u 24 ∧ u.job = s.job)) ∧
    (∀ (h : BkHdr) e off len data r st j n ans, (s.bp p).up = true → h.dst ≠ s.sys.baulkId →
      let drop : Res := .next (s.cnt2 (A.bkPortErr p) 16 14)
      exec (.write p h e off data) s = drop ∧ exec (.readReq p h e off len) s = drop ∧ exec (.readData p h r st data) s = drop ∧
        exec (.signalFrame p h e j n) s = drop ∧ exec (.flush p h) s = drop ∧ exec (.ack p h n ans) s = drop ∧
        exec (.nak p h) s = drop) ∧
    (∀ d i q, bkReady s p = true → (s.bp p).up = false → d ≠ s.sys.baulkId →
      exec (.link p d i q) s = .next (s.cnt2 (A.bkPortErr p) 16 14)) ∧
    (∀ h e off data g a, Next s p h → s.flt.safe = false → exportAt s p e off data.length = some (g, a) →
      devMapped s g a data.length = true → Apart s g a data.length →
      ∃ u, exec (.write p h e off data) s = .next (finish s u) ∧ Stored s u g a data ∧ Acked s u p data.length none [] ∧
        u.job = s.job) ∧
    (∀ h e off data, Next s p h → s.flt.safe = false → exportAt s p e off data.length = none →
      ∃ u, exec (.write p h e off data) s = .next (finish s u) ∧ u.drm = s.drm ∧ Acked s u p data.length none [] ∧ u.job = s.job) ∧
    (∀ h e off len, Next s p h → s.flt.safe = false → 1 ≤ len → len ≤ 256 → (s.bp p).replay.length < 64 →
      len + 32 ≤ (s.bp p).credit →
      (∀ g a, exportAt s p e off len = some (g, a) → devMapped s g a len = true → devPoison s g a len = false →
        ∃ u, exec (.readReq p h e off len) s = .next (finish s u) ∧ u.drm = s.drm ∧
          Acked s u p 0 none [.baulk p 4 (s.bp p).tx (toLE 8 h.seq ++ toLE 8 0 ++ readDev s g a len)] ∧ u.job = s.job) ∧
      (exportAt s p e off len = none → ∃ u, exec (.readReq p h e off len) s = .next (finish s u) ∧ u.drm = s.drm ∧
        Acked s u p 0 none [.baulk p 4 (s.bp p).tx (toLE 8 h.seq ++ toLE 8 0x0402)] ∧ u.job = s.job)) ∧
    (∀ h r st data, Next s p h → (s.bp p).wait = [] → ∃ u, exec (.readData p h r st data) s = .next (finish s u) ∧
      Acked s u p data.length none [] ∧ u.job = s.job ∧ u.drm = s.drm) ∧
    (∀ h e j n, Next s p h → exportAt s p e 0 0 = none → ∃ u, exec (.signalFrame p h e j n) s = .next (finish s u) ∧
      Acked s u p 0 (some 0x0402) [] ∧ u.job = s.job) ∧
    (∀ h e j n g a o m, Next s p h → exportAt s p e 0 0 = some (g, a) → tget s.job.obj (0x800000 + j % 65536) = some o → o.hold = g →
      tget s.job.sem o.ref = some m → m.waiters = [] → m.count + n < 2 ^ 32 →
      ∃ u, exec (.signalFrame p h e j n) s = .next (finish s u) ∧ Acked s u p 0 (some 0) [] ∧
        tget u.job.sem o.ref = some { m with count := m.count + n } ∧ u.job.ctx = s.job.ctx) ∧
    (∀ h, Next s p h → ∃ u, exec (.flush p h) s = .next (finish s u) ∧ Acked s u p 0 (some 0) [] ∧ u.job = s.job ∧ u.drm = s.drm) ∧
    (∀ h n f rest, (s.bp p).up = true → h.dst = s.sys.baulkId → (s.bp p).replay = f :: rest → f.1 = h.seq →
      (∃ u, exec (.ack p h n none) s = .next (finish s u) ∧ (u.bp p).replay = rest ∧
        (u.bp p).credit = min 262144 ((s.bp p).credit + n) ∧ u.out = s.out ∧ u.job = s.job) ∧
      ((s.bp p).nreplay = 0 → rest = [] → ∃ u, exec (.nak p h) s = .next (finish s u) ∧ u.out = .baulk p f.2.1 f.1 f.2.2 :: s.out ∧
        (u.bp p).replay = (s.bp p).replay ∧ (u.bp p).nreplay = 1 ∧ Named s u 26 ∧ u.job = s.job) ∧
      ((s.bp p).nreplay = 8 → (s.bp p).naked = h.seq → (s.bp p).wait = [] → ∃ u, exec (.nak p h) s = .next (finish s u) ∧
        u.bp p = {} ∧ Named s u 24)) ∧
    ((s.bp p).up = true → exec (.baulkFrameCrcError p) s = .next (s.emit (.baulk p 8 (s.bp p).rx []))) ∧
    (∀ w e v, Admin s w → e < 64 →
      (bit (s.r2 (0xC01000 + 16 * e)) 7 = false → exec (.baulkExportWrite w (16 * e) v) s =
        .next (finish s (s.w2 (0xC01000 + 16 * e) (v &&& 0xFF)))) ∧
      (bit (s.r2 (0xC01000 + 16 * e)) 7 = true → exec (.baulkExportWrite w (16 * e + 4) v) s = .next (finish s s)) ∧
      (bit (s.r2 (0xC02000 + 16 * e)) 13 = false → bit v 13 = true →
        ∃ u, exec (.baulkImportWrite w (16 * e) v) s = .next (finish s u) ∧ u.r2 (0xC02000 + 16 * e) = v &&& 0x3FFF ∧
          u.r2 (0xC02000 + 16 * e + 8) =
            BitVec.ofNat 32 (0xA0000000 + (tgetD s.baulk.gen e 0 + 1) % 256 * 2 ^ 20 + e) ∧ u.job = s.job))

/-- The board pool and BK_SYNC (R483 to R486): a device that takes part asks the leader for its ceiling, or grants it to itself
as leader; more WANT asks for the difference; heartbeats tell ceiling and share; a grant sets the share and a recall lowers it,
with YOKE_CEILING never above it; a leader lost is a fault, and the lowest device present leads. The leader drives BK_SYNC; a
follower steps by more than 1 µs and steers by less; without edges it loses lock. -/
def Obligations.BaulkPool : Prop :=
  ∀ (s : State),
    (∀ w (v : Word), Admin s w → poolOn s = false → bit v 0 = true → s.sys.baulkId = 2 → s.baulk.present = [1] → 640 ≤ fld v 16 13 →
      1 ≤ ceiling s → ∃ u, exec (.poolEnable w v) s = .next (finish s u) ∧ poolOn u = true ∧ budget u = fld v 16 13 ∧
        leads u = false ∧ u.out = .bus 1 1 (ceiling s) :: s.out ∧ fld (u.r2 A.bkPoolStatus) 12 2 = 1 ∧ u.job = s.job) ∧
    (∀ w (v : Word), Admin s w → poolOn s = false →
      exec (.poolWantWrite w v) s = .next (finish s (s.put2 A.bkPoolWant 0 11 (max 320 (min 1200 (v.toNat % 2048)))))) ∧
    (∀ w (v : Word) l, Admin s w → poolOn s = true → poolLeader s = some l → l ≠ s.sys.baulkId →
      share s < max 320 (min 1200 (v.toNat % 2048)) → ∃ u, exec (.poolWantWrite w v) s = .next (finish s u) ∧
        u.out = .bus 1 l (max 320 (min 1200 (v.toNat % 2048)) - share s) :: s.out ∧ u.job = s.job) ∧
    (poolOn s = true → exec .poolHeartbeat s = .next (s.emit (.bus 0 4 (ceiling s + 2048 * share s)))) ∧
    (∀ i n, i < 4 → i ≠ s.sys.baulkId → poolOn s = true → ceiling s ≤ n → n < 2048 →
      exec (.poolMessage i 2 s.sys.baulkId n) s = .next (finish s (if n = share s then s
        else devEvent (s.put2 A.bkPoolStatus 0 11 n) A.bkPoolStatus 15 1332))) ∧
    (∀ i n, i < 4 → i ≠ s.sys.baulkId → poolOn s = true → n < ceiling s → 320 ≤ n →
      ∃ u, exec (.poolMessage i 3 s.sys.baulkId n) s = .next (finish s u) ∧ share u = n ∧ ceiling u = n ∧ u.job = s.job ∧
        u.vid = s.vid) ∧
    (leads s = true → s.baulk.gather = true → s.baulk.want = [] →
      (poolMembers s).foldl (fun n i => n + shareOf s i) 0 ≤ budget s →
      exec .poolGatherEnd s = .next (finish s (s.setBk { s.baulk with gather := false }))) ∧
    (∀ l, poolOn s = true → poolLeader s = some l → l < s.sys.baulkId → s.baulk.present = [l] →
      ∃ u, exec .poolLeaderLost s = .next (finish s u) ∧ 27 ∉ u.flt.cause ∧ Named s u 27 ∧ bit (u.r2 A.bkPoolStatus) 14 = true ∧
        leads u = true ∧ u.baulk.gather = true ∧ u.job = s.job) ∧
    (syncLeads s = true → bit (s.r2 A.bkSyncCtrl) 0 = true → exec .bkSyncDrive s = .next (s.emit .bkSync)) ∧
    (follows s = true → (1000 < syncDiff s ∨ syncDiff s < -1000) → ∃ u, exec .bkSyncEdge s = .next (finish s u) ∧
      u.tim = { s.tim with dtb := s.tim.dtb - BitVec.ofInt 64 (syncDiff s) } ∧ u.baulk.diff = syncDiff s ∧
      bit (u.r2 A.bkSyncCtrl) 2 = false ∧ 28 ∉ u.flt.cause ∧ u.job = s.job) ∧
    (follows s = true → -1000 ≤ syncDiff s → syncDiff s ≤ 1000 → ∃ u, exec .bkSyncEdge s = .next (finish s u) ∧ u.tim = s.tim ∧
      u.baulk.diff = syncDiff s ∧ (bit (u.r2 A.bkSyncCtrl) 2 = true ↔ -20 ≤ syncDiff s ∧ syncDiff s ≤ 20) ∧
      -4294967 ≤ u.baulk.steer ∧ u.baulk.steer ≤ 4294967 ∧ u.job = s.job) ∧
    (follows s = true → ∃ u, exec .bkSyncLost s = .next (finish s u) ∧ bit (u.r2 A.bkSyncCtrl) 2 = false ∧ 28 ∈ u.flt.cause ∧
      Named s u 28 ∧ u.job = s.job)

/-! PV16 (R489 to R497). -/

/-- Context `c` of Field `f` runs an internal job of operation `op` with nothing outstanding; `x` is the context. -/
def Sys2Proof.Machine.PvRuns (s : State) (f c op : Nat) (x : Ctx) (j : PvJob) : Prop :=
  s.ctx (ckey f c) = some x ∧ x.pv = some j ∧ j.op = op ∧ x.ended = none ∧ x.wait = .none ∧ drillRuns s f = true ∧
    s.active x.hold = true ∧ ∀ p ∈ s.job.work, p.2.ctx ≠ ckey f c

/-- The job has ended with a status, RESULT, PICTURE and flags. -/
def Sys2Proof.Machine.PvEnds (u : State) (f c st result : Nat) (pic : Word) (flags : Nat) : Prop :=
  ∃ y i, u.ctx (ckey f c) = some y ∧ y.ended = some (st, BitVec.ofNat 64 result) ∧ y.pv = some i ∧ i.pic = pic ∧ i.flags = flags

/-- An instruction of the job is outstanding on the engines, and the job remembers it. -/
def Sys2Proof.Machine.PvIssues (s u : State) (f c : Nat) (x : Ctx) (j : PvJob) (w : Work) : Prop :=
  tget u.job.work s.job.nextWork = some w ∧ ∃ y i, u.ctx (ckey f c) = some y ∧ y.ended = none ∧ y.pv = some i ∧
    i.step = j.step + 1 ∧ i.op = j.op ∧ y.hold = x.hold

/-- The DEC.PIC and the PACK that a job issues (R494). -/
def Sys2Proof.Machine.pvDecWork (f c : Nat) (x : Ctx) (n : Nat) (hnd : Word) : Work :=
  { ctx := ckey f c, hold := x.hold, d := 0, engine := true, fcls := 1, kind := .decPic n (some (hSlot hnd)) false false }

def Sys2Proof.Machine.pvPackWork (f c : Nat) (x : Ctx) (j : PvJob) (p : Nat) : Work :=
  { ctx := ckey f c, hold := x.hold, d := 1, engine := true, fcls := 2, uses := [p],
    kind := .pack p (BitVec.ofNat 64 j.ap) j.stride false false 0 }

/-- The registers of a PV16 function and its queues (R489 to R496): RUN; RESET, which tears down as a Function Level Reset; a
tail or head index below its ring's size is accepted; the descriptor of the queue that the arbiter has come to becomes a job
where its PHASE is right, and is read again where not; the interrupt registers; port enables; and the assignment of ports. -/
def Obligations.Pv16Registers : Prop :=
  ∀ (s : State) (h : Nat),
    (pvOn s h = true →
      (∀ b : Bool, exec (.pvRun h b) s = .next (s.put0 h 4 0 1 (b2n b))) ∧
      ((s.hd h).st ≠ .resetting → (s.hd h).d3 = false → AtRest s h →
        ∃ u, exec (.pvReset h) s = .next (finish s u) ∧ Resets s u h .flr) ∧
      (∀ q (v : Word), s.active h = true → q < 16 → v.toNat % 1024 < pvSqSize s h q →
        exec (.pvSqTailWrite h q v) s = .next (s.setPvq h { s.pvq h with
          sqTail := tset (s.pvq h).sqTail q (v.toNat % 1024), halt := remNat (s.pvq h).halt q })) ∧
      (∀ q (v : Word), pvSqSize s h q ≤ v.toNat % 1024 → exec (.pvSqTailWrite h q v) s = .next s) ∧
      (∀ v : Word, s.active h = true → v.toNat % 4096 < pvCqSize s h → (s.pvq h).hold = [] → s.flt.safe = false →
        exec (.pvCqHeadWrite h v) s = .next (finish s (s.setPvq h { s.pvq h with head := v.toNat % 4096 }))) ∧
      (∀ v : Word, pvCqSize s h ≤ v.toNat % 4096 → exec (.pvCqHeadWrite h v) s = .next s) ∧
      (∃ u, exec (.pvIntStatusClear h 0) s = .next (finish s u) ∧ u.r0 h 0x10 = s.r0 h 0x10 ∧ u.intr = s.intr ∧ u.hold = s.hold) ∧
      (bit (s.r0 h 0x10) 0 = true → ∃ u, exec (.pvIntStatusClear h 1) s = .next (finish s u) ∧
        u.r0 h 0x10 = s.r0 h 0x10 &&& ~~~ 1#32 ∧ (u.src (pvCqNum s h)).act = false ∧ u.hold = s.hold ∧ u.job = s.job) ∧
      (∀ v : Word, s.r0 h 0x10 &&& s.r0 h 0x14 &&& ~~~ v = 0 →
        exec (.pvIntMaskWrite h v) s = .next (s.w0 h 0x14 (v &&& 0x03FFFF03))) ∧
      (∀ v : Word, (s.src (pvCqNum s h)).ev = 0 → exec (.pvIntCoalWrite h v) s = .next (finish s (s.setSrc (pvCqNum s h)
        { s.src (pvCqNum s h) with cnt := v.toNat % 256, time := v.toNat / 256 % 65536 }))) ∧
      (∀ p, p < 4 → pvPortHold s p = some h → portExists s p = true →
        (portOn s p = false → ∃ u, exec (.pvPortEnable h p true) s = .next (finish s u) ∧ portOn u p = true ∧
          bit (u.r2 (A.egrPort p)) 0 = true ∧ u.job = s.job ∧ u.vid = s.vid) ∧
        (portOn s p = true → linkUp s p = false → (∀ q ∈ s.ing.flow, q.2.port ≠ p ∧ q.2.portB ≠ p) →
          ∃ u, exec (.pvPortEnable h p false) s = .next (finish s u) ∧ portOn u p = false ∧ bit (u.r2 (A.egrPort p)) 0 = false ∧
            u.job = s.job ∧ u.vid = s.vid))) ∧
    (∀ d v f k, pvNext s h = some v → tget (s.pvq h).fetched v.2.1 = none → d.length = 8 → firstInLine s 1 = true →
      chooseField s h 1 ((s.hd h).pvChans.getD v.2.1 0) = some f → lowestFree s.job.ctx (f * 32) 32 = some k →
      (bit (d.getD 0 0) 31 ≠ pvPhase (s.pvq h) v.2.1 →
        exec (.pvDescriptorTake h d) s = .next (s.setPvq h { s.pvq h with retry := insNat (s.pvq h).retry v.2.1 })) ∧
      (bit (d.getD 0 0) 31 = pvPhase (s.pvq h) v.2.1 → ∃ u y, exec (.pvDescriptorTake h d) s = .next (finish s u) ∧
        u.ctx k = some y ∧ y.hold = h ∧ y.sqid = v.2.1 ∧ y.tag = fld (d.getD 0 0) 16 15 ∧ y.pv = some (pvJobOf d) ∧
        (fld (d.getD 0 0) 0 8 ∉ pvOps → y.ended = some (0x0100, 0)) ∧ (fld (d.getD 0 0) 0 8 ∈ pvOps → y.ended = none) ∧
        tgetD (u.pvq h).sqHead v.2.1 0 =
          (if pvSqSize s h v.2.1 ≤ tgetD (s.pvq h).sqHead v.2.1 0 + 1 then 0 else tgetD (s.pvq h).sqHead v.2.1 0 + 1) ∧
        (∀ m, m ≠ k → ∀ z, s.ctx m = some z → (u.ctx m).isSome = true))) ∧
    (∀ w (v : Word), Admin s w → h < 32 →
      ((s.hd h).pv = true → fld (s.r2 (A.ingQuad 0)) 0 2 = 1 → (∀ p ∈ s.hold, p.1 ≠ h → p.2.pvPorts &&& BitVec.ofNat 4 (v.toNat % 16) = 0) →
        ∃ u, exec (.pv16PortsWrite w h v) s = .next (finish s u) ∧ (u.hd h).pvPorts = BitVec.ofNat 4 (v.toNat % 16) ∧
          (∀ j, j ≠ h → u.hd j = s.hd j) ∧ u.job = s.job ∧ u.vid = s.vid) ∧
      ((s.hd h).pv = false ∨ fld (s.r2 (A.ingQuad 0)) 0 2 ≠ 1 →
        exec (.pv16PortsWrite w h v) s = .next (finish s { s with adm := { s.adm with refuse := 0x17 } })))

/-- The operations of a PV16 queue (R493, R494). NOP ends. OPEN refuses an open channel and what it does not support, and opens
the channel of its registers. CLOSE drains it. BS_IN commits the host's bytes as one item, BS_OUT writes the items that fit to the
host. DECODE, ENCODE and XCODE issue DEC.PIC, PACK.IN, PACK and ENC.PIC in their turn, refuse a frame outside the aperture, and end
with the picture's number and flags; without an open channel all of them but OPEN and NOP end with BAD_STATE. -/
def Obligations.Pv16Operations : Prop :=
  ∀ (s : State) (f c : Nat) (x : Ctx) (j : PvJob),
    (PvRuns s f c 0x00 x j → ∃ u, exec (.pvNop f c) s = .next (finish s u) ∧ PvEnds u f c 0 0 0xFFFFFFFF 0 ∧ u.vid = s.vid ∧
      OtherCtx s u (ckey f c)) ∧
    (PvRuns s f c 0x01 x j → let b := pvBlk s x.hold x.sqid
      (thas s.vid.chan (pvDevChan s x.hold x.sqid) = true → ∃ u, exec (.pvOpen f c) s = .next (finish s u) ∧
        PvEnds u f c 0x0106 0 0xFFFFFFFF 0 ∧ u.vid = s.vid) ∧
      (thas s.vid.chan (pvDevChan s x.hold x.sqid) = false → pvUnsupported s x.hold x.sqid b = true →
        ∃ u, exec (.pvOpen f c) s = .next (finish s u) ∧ PvEnds u f c St.format 0 0xFFFFFFFF 0 ∧ u.vid = s.vid) ∧
      (∀ n m z s1, thas s.vid.chan (pvDevChan s x.hold x.sqid) = false → pvUnsupported s x.hold x.sqid b = false →
        pvPool s x.hold x.sqid b = some n → blkOk { b with pool := n } (b2n (!b.live)) = true →
        bit (pvReg s x.hold x.sqid 0x20) 2 = false → bit (pvReg s x.hold x.sqid 0x30) 2 = false →
        openChannel s x.hold { b with pool := n } f [pvDevChan s x.hold x.sqid] = (some (m, z), s1) →
        ∃ u, exec (.pvOpen f c) s = .next (finish s u) ∧ PvEnds u f c 0 0 0xFFFFFFFF 0 ∧ u.vid = s1.vid)) ∧
    (∀ n y, pvChan s x = some (n, y) →
      (PvRuns s f c 0x02 x j → ∃ u z, exec (.pvClose f c) s = .next (finish s u) ∧ PvEnds u f c 0 0 0xFFFFFFFF 0 ∧
        u.chan n = some { y with st := .draining, slot := 0 } ∧ u.ctx (ckey f c) = some z ∧ n ∈ z.drains) ∧
      (∀ m : MoveIn, PvRuns s f c 0x10 x j → ingFlowOf s n = none → 0 < j.len → j.len ≤ 16777215 → j.addr < 2 ^ 62 →
        m.data.length = j.len → fifoUsed (s.fifo (fin_ n)) + itemCells j.len ≤ y.blk.fifoCells → (s.fifo (fin_ n)).pend = none →
        (allocChain s x.hold (itemCells j.len)).1.isSome = true →
        ∃ u it, exec (.pvBsIn f c m) s = .next (finish s u) ∧ PvEnds u f c 0 j.len 0xFFFFFFFF 0 ∧
          (u.fifo (fin_ n)).items = (s.fifo (fin_ n)).items ++ [it] ∧ it.data = m.data ∧ it.gap = false) ∧
      (∀ m : MoveIn, PvRuns s f c 0x10 x j → ingFlowOf s n ≠ none → ∃ u, exec (.pvBsIn f c m) s = .next (finish s u) ∧
        PvEnds u f c 0x0106 0 0xFFFFFFFF 0 ∧ u.grn = s.grn) ∧
      (PvRuns s f c 0x11 x j → egrFlowsOf s n = [] → 0 < j.len → j.addr < 2 ^ 62 →
        let r := itemsIn j.len (s.fifo (fout n)).items
        ∃ u, exec (.pvBsOut f c) s = .next (finish s u) ∧ PvEnds u f c 0 r.2.length 0xFFFFFFFF 0 ∧
          (u.fifo (fout n)).items = (s.fifo (fout n)).items.drop r.1 ∧
          u.out = (if r.2.isEmpty then s.out else .hostWrite x.hold j.addr r.2 :: s.out)) ∧
      (PvRuns s f c 0x20 x j → j.step = 0 → let span := packSpan (pvFrame x.hold y.blk) j.stride
        (pvFrameBad s x.hold j.ap span = true → ∃ u, exec (.pvDecode f c) s = .next (finish s u) ∧ PvEnds u f c St.bounds 0 0xFFFFFFFF 0 ∧
          u.vid = s.vid) ∧
        (∀ hnd s1, pvFrameBad s x.hold j.ap span = false → y.blk.dec = true → y.st ≠ .failed → 2 ≤ x.cls → x.granted = true →
          addEmpty s x.hold true = some (hnd, s1) → ∃ u, exec (.pvDecode f c) s = .next (finish s u) ∧
          PvIssues s u f c x j (pvDecWork f c x n hnd))) ∧
      (∀ p b, PvRuns s f c 0x20 x j → j.step = 1 → pvPicture s x = some (p, b) → b.empty = false →
        (packRows b j.stride).any (fun r => decide (r.2.1 < r.1)) = false → pvFrameBad s x.hold j.ap (packSpan b j.stride) = false →
        ∃ u, exec (.pvDecode f c) s = .next (finish s u) ∧ PvIssues s u f c x j (pvPackWork f c x j p)) ∧
      (∀ p b, PvRuns s f c 0x20 x j → j.step = 2 → pvPicture s x = some (p, b) → stOf (x.gr 1) = 0 →
        ∃ u, exec (.pvDecode f c) s = .next (finish s u) ∧ PvEnds u f c j.code (packSpan b j.stride) j.pic j.flags) ∧
      (PvRuns s f c 0x21 x j → j.step = 2 → ∃ u, exec (.pvEncode f c) s = .next (finish s u) ∧
        PvEnds u f c (stOf (x.gr 1)) (packSpan (pvFrame x.hold y.blk) j.stride) (hiW (x.gr 1))
          (b2n (bit (x.gr 1) 16) * 2 + b2n (stOf (x.gr 1) = St.stubble) * 4)) ∧
      (PvRuns s f c 0x21 x j → j.step = 0 → pvFrameBad s x.hold j.ap (packSpan (pvFrame x.hold y.blk) j.stride) = true →
        ∃ u, exec (.pvEncode f c) s = .next (finish s u) ∧ PvEnds u f c St.bounds 0 0xFFFFFFFF 0 ∧ u.vid = s.vid) ∧
      (∀ p b, PvRuns s f c 0x21 x j → j.step = 1 → stOf (x.gr 0) = 0 → pvPicture s x = some (p, b) → y.blk.enc = true →
        srcOk b = true → y.st ≠ .failed → srcChroma s p b = y.blk.chroma → 3 ≤ x.cls → x.granted = true → s.buf p = some b →
        ∃ u w, exec (.pvEncode f c) s = .next (finish s u) ∧ PvIssues s u f c x j w ∧ w.engine = true ∧ w.d = 1 ∧ w.fcls = 3) ∧
      (∀ hnd s1, PvRuns s f c 0x22 x j → j.step = 0 → y.blk.dir = 2 → y.blk.dec = true → y.st ≠ .failed → 2 ≤ x.cls →
        x.granted = true → addEmpty s x.hold true = some (hnd, s1) → ∃ u, exec (.pvXcode f c) s = .next (finish s u) ∧
          PvIssues s u f c x j (pvDecWork f c x n hnd)) ∧
      (PvRuns s f c 0x22 x j → j.step = 2 → ∃ u, exec (.pvXcode f c) s = .next (finish s u) ∧
        PvEnds u f c (worseOf j.code (stOf (x.gr 1))) 0 (hiW (x.gr 1))
          (j.flags % 2 + b2n (bit (x.gr 1) 16) * 2 + b2n (stOf (x.gr 1) = St.stubble) * 4))) ∧
    (pvChan s x = none →
      (PvRuns s f c 0x02 x j → ∃ u, exec (.pvClose f c) s = .next (finish s u) ∧ PvEnds u f c 0x0106 0 0xFFFFFFFF 0) ∧
      (PvRuns s f c 0x20 x j → ∃ u, exec (.pvDecode f c) s = .next (finish s u) ∧ PvEnds u f c 0x0106 0 0xFFFFFFFF 0) ∧
      (PvRuns s f c 0x21 x j → ∃ u, exec (.pvEncode f c) s = .next (finish s u) ∧ PvEnds u f c 0x0106 0 0xFFFFFFFF 0) ∧
      (PvRuns s f c 0x22 x j → ∃ u, exec (.pvXcode f c) s = .next (finish s u) ∧ PvEnds u f c 0x0106 0 0xFFFFFFFF 0))
end

