-- ==== Sys2Proof/Laws/State.lean ====
section
/-! SUPPORT. What each update of the state leaves: one lemma per field per update, each true by unfolding. -/

namespace Sys2Proof.Machine

@[simp] theorem w2_sys (s : State) (a : Nat) (v : Word) : (s.w2 a v).sys = s.sys := (rfl)
@[simp] theorem w2_tim (s : State) (a : Nat) (v : Word) : (s.w2 a v).tim = s.tim := (rfl)
@[simp] theorem w2_b0 (s : State) (a : Nat) (v : Word) : (s.w2 a v).b0 = s.b0 := (rfl)
@[simp] theorem w2_bc (s : State) (a : Nat) (v : Word) : (s.w2 a v).bc = s.bc := (rfl)
@[simp] theorem w2_hold (s : State) (a : Nat) (v : Word) : (s.w2 a v).hold = s.hold := (rfl)
@[simp] theorem w2_adm (s : State) (a : Nat) (v : Word) : (s.w2 a v).adm = s.adm := (rfl)
@[simp] theorem w2_hport (s : State) (a : Nat) (v : Word) : (s.w2 a v).hport = s.hport := (rfl)
@[simp] theorem w2_intr (s : State) (a : Nat) (v : Word) : (s.w2 a v).intr = s.intr := (rfl)
@[simp] theorem w2_flt (s : State) (a : Nat) (v : Word) : (s.w2 a v).flt = s.flt := (rfl)
@[simp] theorem w2_job (s : State) (a : Nat) (v : Word) : (s.w2 a v).job = s.job := (rfl)
@[simp] theorem w2_vid (s : State) (a : Nat) (v : Word) : (s.w2 a v).vid = s.vid := (rfl)
@[simp] theorem w2_grn (s : State) (a : Nat) (v : Word) : (s.w2 a v).grn = s.grn := (rfl)
@[simp] theorem w2_dma (s : State) (a : Nat) (v : Word) : (s.w2 a v).dma = s.dma := (rfl)
@[simp] theorem w2_ing (s : State) (a : Nat) (v : Word) : (s.w2 a v).ing = s.ing := (rfl)
@[simp] theorem w2_egr (s : State) (a : Nat) (v : Word) : (s.w2 a v).egr = s.egr := (rfl)
@[simp] theorem w2_drm (s : State) (a : Nat) (v : Word) : (s.w2 a v).drm = s.drm := (rfl)
@[simp] theorem w2_yoke (s : State) (a : Nat) (v : Word) : (s.w2 a v).yoke = s.yoke := (rfl)
@[simp] theorem w2_baulk (s : State) (a : Nat) (v : Word) : (s.w2 a v).baulk = s.baulk := (rfl)
@[simp] theorem w2_pv (s : State) (a : Nat) (v : Word) : (s.w2 a v).pv = s.pv := (rfl)
@[simp] theorem w2_out (s : State) (a : Nat) (v : Word) : (s.w2 a v).out = s.out := (rfl)
@[simp] theorem w2_readData (s : State) (a : Nat) (v : Word) : (s.w2 a v).readData = s.readData := (rfl)
@[simp] theorem w2_free (s : State) (a : Nat) (v : Word) : (s.w2 a v).free = s.free := (rfl)
@[simp] theorem w2_pending (s : State) (a : Nat) (v : Word) : (s.w2 a v).pending = s.pending := (rfl)

@[simp] theorem w0_sys (s : State) (h a : Nat) (v : Word) : (s.w0 h a v).sys = s.sys := by unfold State.w0; rfl
@[simp] theorem w0_tim (s : State) (h a : Nat) (v : Word) : (s.w0 h a v).tim = s.tim := by unfold State.w0; rfl
@[simp] theorem w0_b2 (s : State) (h a : Nat) (v : Word) : (s.w0 h a v).b2 = s.b2 := by unfold State.w0; rfl
@[simp] theorem w0_bc (s : State) (h a : Nat) (v : Word) : (s.w0 h a v).bc = s.bc := by unfold State.w0; rfl
@[simp] theorem w0_hold (s : State) (h a : Nat) (v : Word) : (s.w0 h a v).hold = s.hold := by unfold State.w0; rfl
@[simp] theorem w0_adm (s : State) (h a : Nat) (v : Word) : (s.w0 h a v).adm = s.adm := by unfold State.w0; rfl
@[simp] theorem w0_hport (s : State) (h a : Nat) (v : Word) : (s.w0 h a v).hport = s.hport := by unfold State.w0; rfl
@[simp] theorem w0_intr (s : State) (h a : Nat) (v : Word) : (s.w0 h a v).intr = s.intr := by unfold State.w0; rfl
@[simp] theorem w0_flt (s : State) (h a : Nat) (v : Word) : (s.w0 h a v).flt = s.flt := by unfold State.w0; rfl
@[simp] theorem w0_job (s : State) (h a : Nat) (v : Word) : (s.w0 h a v).job = s.job := by unfold State.w0; rfl
@[simp] theorem w0_vid (s : State) (h a : Nat) (v : Word) : (s.w0 h a v).vid = s.vid := by unfold State.w0; rfl
@[simp] theorem w0_grn (s : State) (h a : Nat) (v : Word) : (s.w0 h a v).grn = s.grn := by unfold State.w0; rfl
@[simp] theorem w0_dma (s : State) (h a : Nat) (v : Word) : (s.w0 h a v).dma = s.dma := by unfold State.w0; rfl
@[simp] theorem w0_ing (s : State) (h a : Nat) (v : Word) : (s.w0 h a v).ing = s.ing := by unfold State.w0; rfl
@[simp] theorem w0_egr (s : State) (h a : Nat) (v : Word) : (s.w0 h a v).egr = s.egr := by unfold State.w0; rfl
@[simp] theorem w0_drm (s : State) (h a : Nat) (v : Word) : (s.w0 h a v).drm = s.drm := by unfold State.w0; rfl
@[simp] theorem w0_yoke (s : State) (h a : Nat) (v : Word) : (s.w0 h a v).yoke = s.yoke := by unfold State.w0; rfl
@[simp] theorem w0_baulk (s : State) (h a : Nat) (v : Word) : (s.w0 h a v).baulk = s.baulk := by unfold State.w0; rfl
@[simp] theorem w0_pv (s : State) (h a : Nat) (v : Word) : (s.w0 h a v).pv = s.pv := by unfold State.w0; rfl
@[simp] theorem w0_out (s : State) (h a : Nat) (v : Word) : (s.w0 h a v).out = s.out := by unfold State.w0; rfl
@[simp] theorem w0_readData (s : State) (h a : Nat) (v : Word) : (s.w0 h a v).readData = s.readData := by unfold State.w0; rfl
@[simp] theorem w0_free (s : State) (h a : Nat) (v : Word) : (s.w0 h a v).free = s.free := by unfold State.w0; rfl
@[simp] theorem w0_pending (s : State) (h a : Nat) (v : Word) : (s.w0 h a v).pending = s.pending := by unfold State.w0; rfl

@[simp] theorem wch_sys (s : State) (c a : Nat) (v : Word) : (s.wch c a v).sys = s.sys := (rfl)
@[simp] theorem wch_tim (s : State) (c a : Nat) (v : Word) : (s.wch c a v).tim = s.tim := (rfl)
@[simp] theorem wch_b2 (s : State) (c a : Nat) (v : Word) : (s.wch c a v).b2 = s.b2 := (rfl)
@[simp] theorem wch_b0 (s : State) (c a : Nat) (v : Word) : (s.wch c a v).b0 = s.b0 := (rfl)
@[simp] theorem wch_hold (s : State) (c a : Nat) (v : Word) : (s.wch c a v).hold = s.hold := (rfl)
@[simp] theorem wch_adm (s : State) (c a : Nat) (v : Word) : (s.wch c a v).adm = s.adm := (rfl)
@[simp] theorem wch_hport (s : State) (c a : Nat) (v : Word) : (s.wch c a v).hport = s.hport := (rfl)
@[simp] theorem wch_intr (s : State) (c a : Nat) (v : Word) : (s.wch c a v).intr = s.intr := (rfl)
@[simp] theorem wch_flt (s : State) (c a : Nat) (v : Word) : (s.wch c a v).flt = s.flt := (rfl)
@[simp] theorem wch_job (s : State) (c a : Nat) (v : Word) : (s.wch c a v).job = s.job := (rfl)
@[simp] theorem wch_vid (s : State) (c a : Nat) (v : Word) : (s.wch c a v).vid = s.vid := (rfl)
@[simp] theorem wch_grn (s : State) (c a : Nat) (v : Word) : (s.wch c a v).grn = s.grn := (rfl)
@[simp] theorem wch_dma (s : State) (c a : Nat) (v : Word) : (s.wch c a v).dma = s.dma := (rfl)
@[simp] theorem wch_ing (s : State) (c a : Nat) (v : Word) : (s.wch c a v).ing = s.ing := (rfl)
@[simp] theorem wch_egr (s : State) (c a : Nat) (v : Word) : (s.wch c a v).egr = s.egr := (rfl)
@[simp] theorem wch_drm (s : State) (c a : Nat) (v : Word) : (s.wch c a v).drm = s.drm := (rfl)
@[simp] theorem wch_yoke (s : State) (c a : Nat) (v : Word) : (s.wch c a v).yoke = s.yoke := (rfl)
@[simp] theorem wch_baulk (s : State) (c a : Nat) (v : Word) : (s.wch c a v).baulk = s.baulk := (rfl)
@[simp] theorem wch_pv (s : State) (c a : Nat) (v : Word) : (s.wch c a v).pv = s.pv := (rfl)
@[simp] theorem wch_out (s : State) (c a : Nat) (v : Word) : (s.wch c a v).out = s.out := (rfl)
@[simp] theorem wch_readData (s : State) (c a : Nat) (v : Word) : (s.wch c a v).readData = s.readData := (rfl)
@[simp] theorem wch_free (s : State) (c a : Nat) (v : Word) : (s.wch c a v).free = s.free := (rfl)
@[simp] theorem wch_pending (s : State) (c a : Nat) (v : Word) : (s.wch c a v).pending = s.pending := (rfl)

@[simp] theorem or2_sys (s : State) (a : Nat) (v : Word) : (s.or2 a v).sys = s.sys := (rfl)
@[simp] theorem or2_tim (s : State) (a : Nat) (v : Word) : (s.or2 a v).tim = s.tim := (rfl)
@[simp] theorem or2_b0 (s : State) (a : Nat) (v : Word) : (s.or2 a v).b0 = s.b0 := (rfl)
@[simp] theorem or2_bc (s : State) (a : Nat) (v : Word) : (s.or2 a v).bc = s.bc := (rfl)
@[simp] theorem or2_hold (s : State) (a : Nat) (v : Word) : (s.or2 a v).hold = s.hold := (rfl)
@[simp] theorem or2_adm (s : State) (a : Nat) (v : Word) : (s.or2 a v).adm = s.adm := (rfl)
@[simp] theorem or2_hport (s : State) (a : Nat) (v : Word) : (s.or2 a v).hport = s.hport := (rfl)
@[simp] theorem or2_intr (s : State) (a : Nat) (v : Word) : (s.or2 a v).intr = s.intr := (rfl)
@[simp] theorem or2_flt (s : State) (a : Nat) (v : Word) : (s.or2 a v).flt = s.flt := (rfl)
@[simp] theorem or2_job (s : State) (a : Nat) (v : Word) : (s.or2 a v).job = s.job := (rfl)
@[simp] theorem or2_vid (s : State) (a : Nat) (v : Word) : (s.or2 a v).vid = s.vid := (rfl)
@[simp] theorem or2_grn (s : State) (a : Nat) (v : Word) : (s.or2 a v).grn = s.grn := (rfl)
@[simp] theorem or2_dma (s : State) (a : Nat) (v : Word) : (s.or2 a v).dma = s.dma := (rfl)
@[simp] theorem or2_ing (s : State) (a : Nat) (v : Word) : (s.or2 a v).ing = s.ing := (rfl)
@[simp] theorem or2_egr (s : State) (a : Nat) (v : Word) : (s.or2 a v).egr = s.egr := (rfl)
@[simp] theorem or2_drm (s : State) (a : Nat) (v : Word) : (s.or2 a v).drm = s.drm := (rfl)
@[simp] theorem or2_yoke (s : State) (a : Nat) (v : Word) : (s.or2 a v).yoke = s.yoke := (rfl)
@[simp] theorem or2_baulk (s : State) (a : Nat) (v : Word) : (s.or2 a v).baulk = s.baulk := (rfl)
@[simp] theorem or2_pv (s : State) (a : Nat) (v : Word) : (s.or2 a v).pv = s.pv := (rfl)
@[simp] theorem or2_out (s : State) (a : Nat) (v : Word) : (s.or2 a v).out = s.out := (rfl)
@[simp] theorem or2_readData (s : State) (a : Nat) (v : Word) : (s.or2 a v).readData = s.readData := (rfl)
@[simp] theorem or2_free (s : State) (a : Nat) (v : Word) : (s.or2 a v).free = s.free := (rfl)
@[simp] theorem or2_pending (s : State) (a : Nat) (v : Word) : (s.or2 a v).pending = s.pending := (rfl)

@[simp] theorem orch_sys (s : State) (c a : Nat) (v : Word) : (s.orch c a v).sys = s.sys := (rfl)
@[simp] theorem orch_tim (s : State) (c a : Nat) (v : Word) : (s.orch c a v).tim = s.tim := (rfl)
@[simp] theorem orch_b2 (s : State) (c a : Nat) (v : Word) : (s.orch c a v).b2 = s.b2 := (rfl)
@[simp] theorem orch_b0 (s : State) (c a : Nat) (v : Word) : (s.orch c a v).b0 = s.b0 := (rfl)
@[simp] theorem orch_hold (s : State) (c a : Nat) (v : Word) : (s.orch c a v).hold = s.hold := (rfl)
@[simp] theorem orch_adm (s : State) (c a : Nat) (v : Word) : (s.orch c a v).adm = s.adm := (rfl)
@[simp] theorem orch_hport (s : State) (c a : Nat) (v : Word) : (s.orch c a v).hport = s.hport := (rfl)
@[simp] theorem orch_intr (s : State) (c a : Nat) (v : Word) : (s.orch c a v).intr = s.intr := (rfl)
@[simp] theorem orch_flt (s : State) (c a : Nat) (v : Word) : (s.orch c a v).flt = s.flt := (rfl)
@[simp] theorem orch_job (s : State) (c a : Nat) (v : Word) : (s.orch c a v).job = s.job := (rfl)
@[simp] theorem orch_vid (s : State) (c a : Nat) (v : Word) : (s.orch c a v).vid = s.vid := (rfl)
@[simp] theorem orch_grn (s : State) (c a : Nat) (v : Word) : (s.orch c a v).grn = s.grn := (rfl)
@[simp] theorem orch_dma (s : State) (c a : Nat) (v : Word) : (s.orch c a v).dma = s.dma := (rfl)
@[simp] theorem orch_ing (s : State) (c a : Nat) (v : Word) : (s.orch c a v).ing = s.ing := (rfl)
@[simp] theorem orch_egr (s : State) (c a : Nat) (v : Word) : (s.orch c a v).egr = s.egr := (rfl)
@[simp] theorem orch_drm (s : State) (c a : Nat) (v : Word) : (s.orch c a v).drm = s.drm := (rfl)
@[simp] theorem orch_yoke (s : State) (c a : Nat) (v : Word) : (s.orch c a v).yoke = s.yoke := (rfl)
@[simp] theorem orch_baulk (s : State) (c a : Nat) (v : Word) : (s.orch c a v).baulk = s.baulk := (rfl)
@[simp] theorem orch_pv (s : State) (c a : Nat) (v : Word) : (s.orch c a v).pv = s.pv := (rfl)
@[simp] theorem orch_out (s : State) (c a : Nat) (v : Word) : (s.orch c a v).out = s.out := (rfl)
@[simp] theorem orch_readData (s : State) (c a : Nat) (v : Word) : (s.orch c a v).readData = s.readData := (rfl)
@[simp] theorem orch_free (s : State) (c a : Nat) (v : Word) : (s.orch c a v).free = s.free := (rfl)
@[simp] theorem orch_pending (s : State) (c a : Nat) (v : Word) : (s.orch c a v).pending = s.pending := (rfl)

@[simp] theorem put2_sys (s : State) (a lo len v : Nat) : (s.put2 a lo len v).sys = s.sys := (rfl)
@[simp] theorem put2_tim (s : State) (a lo len v : Nat) : (s.put2 a lo len v).tim = s.tim := (rfl)
@[simp] theorem put2_b0 (s : State) (a lo len v : Nat) : (s.put2 a lo len v).b0 = s.b0 := (rfl)
@[simp] theorem put2_bc (s : State) (a lo len v : Nat) : (s.put2 a lo len v).bc = s.bc := (rfl)
@[simp] theorem put2_hold (s : State) (a lo len v : Nat) : (s.put2 a lo len v).hold = s.hold := (rfl)
@[simp] theorem put2_adm (s : State) (a lo len v : Nat) : (s.put2 a lo len v).adm = s.adm := (rfl)
@[simp] theorem put2_hport (s : State) (a lo len v : Nat) : (s.put2 a lo len v).hport = s.hport := (rfl)
@[simp] theorem put2_intr (s : State) (a lo len v : Nat) : (s.put2 a lo len v).intr = s.intr := (rfl)
@[simp] theorem put2_flt (s : State) (a lo len v : Nat) : (s.put2 a lo len v).flt = s.flt := (rfl)
@[simp] theorem put2_job (s : State) (a lo len v : Nat) : (s.put2 a lo len v).job = s.job := (rfl)
@[simp] theorem put2_vid (s : State) (a lo len v : Nat) : (s.put2 a lo len v).vid = s.vid := (rfl)
@[simp] theorem put2_grn (s : State) (a lo len v : Nat) : (s.put2 a lo len v).grn = s.grn := (rfl)
@[simp] theorem put2_dma (s : State) (a lo len v : Nat) : (s.put2 a lo len v).dma = s.dma := (rfl)
@[simp] theorem put2_ing (s : State) (a lo len v : Nat) : (s.put2 a lo len v).ing = s.ing := (rfl)
@[simp] theorem put2_egr (s : State) (a lo len v : Nat) : (s.put2 a lo len v).egr = s.egr := (rfl)
@[simp] theorem put2_drm (s : State) (a lo len v : Nat) : (s.put2 a lo len v).drm = s.drm := (rfl)
@[simp] theorem put2_yoke (s : State) (a lo len v : Nat) : (s.put2 a lo len v).yoke = s.yoke := (rfl)
@[simp] theorem put2_baulk (s : State) (a lo len v : Nat) : (s.put2 a lo len v).baulk = s.baulk := (rfl)
@[simp] theorem put2_pv (s : State) (a lo len v : Nat) : (s.put2 a lo len v).pv = s.pv := (rfl)
@[simp] theorem put2_out (s : State) (a lo len v : Nat) : (s.put2 a lo len v).out = s.out := (rfl)
@[simp] theorem put2_readData (s : State) (a lo len v : Nat) : (s.put2 a lo len v).readData = s.readData := (rfl)
@[simp] theorem put2_free (s : State) (a lo len v : Nat) : (s.put2 a lo len v).free = s.free := (rfl)
@[simp] theorem put2_pending (s : State) (a lo len v : Nat) : (s.put2 a lo len v).pending = s.pending := (rfl)

@[simp] theorem put0_sys (s : State) (h a lo len v : Nat) : (s.put0 h a lo len v).sys = s.sys := w0_sys ..
@[simp] theorem put0_tim (s : State) (h a lo len v : Nat) : (s.put0 h a lo len v).tim = s.tim := w0_tim ..
@[simp] theorem put0_b2 (s : State) (h a lo len v : Nat) : (s.put0 h a lo len v).b2 = s.b2 := w0_b2 ..
@[simp] theorem put0_bc (s : State) (h a lo len v : Nat) : (s.put0 h a lo len v).bc = s.bc := w0_bc ..
@[simp] theorem put0_hold (s : State) (h a lo len v : Nat) : (s.put0 h a lo len v).hold = s.hold := w0_hold ..
@[simp] theorem put0_adm (s : State) (h a lo len v : Nat) : (s.put0 h a lo len v).adm = s.adm := w0_adm ..
@[simp] theorem put0_hport (s : State) (h a lo len v : Nat) : (s.put0 h a lo len v).hport = s.hport := w0_hport ..
@[simp] theorem put0_intr (s : State) (h a lo len v : Nat) : (s.put0 h a lo len v).intr = s.intr := w0_intr ..
@[simp] theorem put0_flt (s : State) (h a lo len v : Nat) : (s.put0 h a lo len v).flt = s.flt := w0_flt ..
@[simp] theorem put0_job (s : State) (h a lo len v : Nat) : (s.put0 h a lo len v).job = s.job := w0_job ..
@[simp] theorem put0_vid (s : State) (h a lo len v : Nat) : (s.put0 h a lo len v).vid = s.vid := w0_vid ..
@[simp] theorem put0_grn (s : State) (h a lo len v : Nat) : (s.put0 h a lo len v).grn = s.grn := w0_grn ..
@[simp] theorem put0_dma (s : State) (h a lo len v : Nat) : (s.put0 h a lo len v).dma = s.dma := w0_dma ..
@[simp] theorem put0_ing (s : State) (h a lo len v : Nat) : (s.put0 h a lo len v).ing = s.ing := w0_ing ..
@[simp] theorem put0_egr (s : State) (h a lo len v : Nat) : (s.put0 h a lo len v).egr = s.egr := w0_egr ..
@[simp] theorem put0_drm (s : State) (h a lo len v : Nat) : (s.put0 h a lo len v).drm = s.drm := w0_drm ..
@[simp] theorem put0_yoke (s : State) (h a lo len v : Nat) : (s.put0 h a lo len v).yoke = s.yoke := w0_yoke ..
@[simp] theorem put0_baulk (s : State) (h a lo len v : Nat) : (s.put0 h a lo len v).baulk = s.baulk := w0_baulk ..
@[simp] theorem put0_pv (s : State) (h a lo len v : Nat) : (s.put0 h a lo len v).pv = s.pv := w0_pv ..
@[simp] theorem put0_out (s : State) (h a lo len v : Nat) : (s.put0 h a lo len v).out = s.out := w0_out ..
@[simp] theorem put0_readData (s : State) (h a lo len v : Nat) : (s.put0 h a lo len v).readData = s.readData := w0_readData ..
@[simp] theorem put0_free (s : State) (h a lo len v : Nat) : (s.put0 h a lo len v).free = s.free := w0_free ..
@[simp] theorem put0_pending (s : State) (h a lo len v : Nat) : (s.put0 h a lo len v).pending = s.pending := w0_pending ..

@[simp] theorem putch_sys (s : State) (c a lo len v : Nat) : (s.putch c a lo len v).sys = s.sys := (rfl)
@[simp] theorem putch_tim (s : State) (c a lo len v : Nat) : (s.putch c a lo len v).tim = s.tim := (rfl)
@[simp] theorem putch_b2 (s : State) (c a lo len v : Nat) : (s.putch c a lo len v).b2 = s.b2 := (rfl)
@[simp] theorem putch_b0 (s : State) (c a lo len v : Nat) : (s.putch c a lo len v).b0 = s.b0 := (rfl)
@[simp] theorem putch_hold (s : State) (c a lo len v : Nat) : (s.putch c a lo len v).hold = s.hold := (rfl)
@[simp] theorem putch_adm (s : State) (c a lo len v : Nat) : (s.putch c a lo len v).adm = s.adm := (rfl)
@[simp] theorem putch_hport (s : State) (c a lo len v : Nat) : (s.putch c a lo len v).hport = s.hport := (rfl)
@[simp] theorem putch_intr (s : State) (c a lo len v : Nat) : (s.putch c a lo len v).intr = s.intr := (rfl)
@[simp] theorem putch_flt (s : State) (c a lo len v : Nat) : (s.putch c a lo len v).flt = s.flt := (rfl)
@[simp] theorem putch_job (s : State) (c a lo len v : Nat) : (s.putch c a lo len v).job = s.job := (rfl)
@[simp] theorem putch_vid (s : State) (c a lo len v : Nat) : (s.putch c a lo len v).vid = s.vid := (rfl)
@[simp] theorem putch_grn (s : State) (c a lo len v : Nat) : (s.putch c a lo len v).grn = s.grn := (rfl)
@[simp] theorem putch_dma (s : State) (c a lo len v : Nat) : (s.putch c a lo len v).dma = s.dma := (rfl)
@[simp] theorem putch_ing (s : State) (c a lo len v : Nat) : (s.putch c a lo len v).ing = s.ing := (rfl)
@[simp] theorem putch_egr (s : State) (c a lo len v : Nat) : (s.putch c a lo len v).egr = s.egr := (rfl)
@[simp] theorem putch_drm (s : State) (c a lo len v : Nat) : (s.putch c a lo len v).drm = s.drm := (rfl)
@[simp] theorem putch_yoke (s : State) (c a lo len v : Nat) : (s.putch c a lo len v).yoke = s.yoke := (rfl)
@[simp] theorem putch_baulk (s : State) (c a lo len v : Nat) : (s.putch c a lo len v).baulk = s.baulk := (rfl)
@[simp] theorem putch_pv (s : State) (c a lo len v : Nat) : (s.putch c a lo len v).pv = s.pv := (rfl)
@[simp] theorem putch_out (s : State) (c a lo len v : Nat) : (s.putch c a lo len v).out = s.out := (rfl)
@[simp] theorem putch_readData (s : State) (c a lo len v : Nat) : (s.putch c a lo len v).readData = s.readData := (rfl)
@[simp] theorem putch_free (s : State) (c a lo len v : Nat) : (s.putch c a lo len v).free = s.free := (rfl)
@[simp] theorem putch_pending (s : State) (c a lo len v : Nat) : (s.putch c a lo len v).pending = s.pending := (rfl)

@[simp] theorem cnt2_sys (s : State) (a lo len : Nat) : (s.cnt2 a lo len).sys = s.sys := (rfl)
@[simp] theorem cnt2_tim (s : State) (a lo len : Nat) : (s.cnt2 a lo len).tim = s.tim := (rfl)
@[simp] theorem cnt2_b0 (s : State) (a lo len : Nat) : (s.cnt2 a lo len).b0 = s.b0 := (rfl)
@[simp] theorem cnt2_bc (s : State) (a lo len : Nat) : (s.cnt2 a lo len).bc = s.bc := (rfl)
@[simp] theorem cnt2_hold (s : State) (a lo len : Nat) : (s.cnt2 a lo len).hold = s.hold := (rfl)
@[simp] theorem cnt2_adm (s : State) (a lo len : Nat) : (s.cnt2 a lo len).adm = s.adm := (rfl)
@[simp] theorem cnt2_hport (s : State) (a lo len : Nat) : (s.cnt2 a lo len).hport = s.hport := (rfl)
@[simp] theorem cnt2_intr (s : State) (a lo len : Nat) : (s.cnt2 a lo len).intr = s.intr := (rfl)
@[simp] theorem cnt2_flt (s : State) (a lo len : Nat) : (s.cnt2 a lo len).flt = s.flt := (rfl)
@[simp] theorem cnt2_job (s : State) (a lo len : Nat) : (s.cnt2 a lo len).job = s.job := (rfl)
@[simp] theorem cnt2_vid (s : State) (a lo len : Nat) : (s.cnt2 a lo len).vid = s.vid := (rfl)
@[simp] theorem cnt2_grn (s : State) (a lo len : Nat) : (s.cnt2 a lo len).grn = s.grn := (rfl)
@[simp] theorem cnt2_dma (s : State) (a lo len : Nat) : (s.cnt2 a lo len).dma = s.dma := (rfl)
@[simp] theorem cnt2_ing (s : State) (a lo len : Nat) : (s.cnt2 a lo len).ing = s.ing := (rfl)
@[simp] theorem cnt2_egr (s : State) (a lo len : Nat) : (s.cnt2 a lo len).egr = s.egr := (rfl)
@[simp] theorem cnt2_drm (s : State) (a lo len : Nat) : (s.cnt2 a lo len).drm = s.drm := (rfl)
@[simp] theorem cnt2_yoke (s : State) (a lo len : Nat) : (s.cnt2 a lo len).yoke = s.yoke := (rfl)
@[simp] theorem cnt2_baulk (s : State) (a lo len : Nat) : (s.cnt2 a lo len).baulk = s.baulk := (rfl)
@[simp] theorem cnt2_pv (s : State) (a lo len : Nat) : (s.cnt2 a lo len).pv = s.pv := (rfl)
@[simp] theorem cnt2_out (s : State) (a lo len : Nat) : (s.cnt2 a lo len).out = s.out := (rfl)
@[simp] theorem cnt2_readData (s : State) (a lo len : Nat) : (s.cnt2 a lo len).readData = s.readData := (rfl)
@[simp] theorem cnt2_free (s : State) (a lo len : Nat) : (s.cnt2 a lo len).free = s.free := (rfl)
@[simp] theorem cnt2_pending (s : State) (a lo len : Nat) : (s.cnt2 a lo len).pending = s.pending := (rfl)

@[simp] theorem cnt0_sys (s : State) (h a : Nat) : (s.cnt0 h a).sys = s.sys := w0_sys ..
@[simp] theorem cnt0_tim (s : State) (h a : Nat) : (s.cnt0 h a).tim = s.tim := w0_tim ..
@[simp] theorem cnt0_b2 (s : State) (h a : Nat) : (s.cnt0 h a).b2 = s.b2 := w0_b2 ..
@[simp] theorem cnt0_bc (s : State) (h a : Nat) : (s.cnt0 h a).bc = s.bc := w0_bc ..
@[simp] theorem cnt0_hold (s : State) (h a : Nat) : (s.cnt0 h a).hold = s.hold := w0_hold ..
@[simp] theorem cnt0_adm (s : State) (h a : Nat) : (s.cnt0 h a).adm = s.adm := w0_adm ..
@[simp] theorem cnt0_hport (s : State) (h a : Nat) : (s.cnt0 h a).hport = s.hport := w0_hport ..
@[simp] theorem cnt0_intr (s : State) (h a : Nat) : (s.cnt0 h a).intr = s.intr := w0_intr ..
@[simp] theorem cnt0_flt (s : State) (h a : Nat) : (s.cnt0 h a).flt = s.flt := w0_flt ..
@[simp] theorem cnt0_job (s : State) (h a : Nat) : (s.cnt0 h a).job = s.job := w0_job ..
@[simp] theorem cnt0_vid (s : State) (h a : Nat) : (s.cnt0 h a).vid = s.vid := w0_vid ..
@[simp] theorem cnt0_grn (s : State) (h a : Nat) : (s.cnt0 h a).grn = s.grn := w0_grn ..
@[simp] theorem cnt0_dma (s : State) (h a : Nat) : (s.cnt0 h a).dma = s.dma := w0_dma ..
@[simp] theorem cnt0_ing (s : State) (h a : Nat) : (s.cnt0 h a).ing = s.ing := w0_ing ..
@[simp] theorem cnt0_egr (s : State) (h a : Nat) : (s.cnt0 h a).egr = s.egr := w0_egr ..
@[simp] theorem cnt0_drm (s : State) (h a : Nat) : (s.cnt0 h a).drm = s.drm := w0_drm ..
@[simp] theorem cnt0_yoke (s : State) (h a : Nat) : (s.cnt0 h a).yoke = s.yoke := w0_yoke ..
@[simp] theorem cnt0_baulk (s : State) (h a : Nat) : (s.cnt0 h a).baulk = s.baulk := w0_baulk ..
@[simp] theorem cnt0_pv (s : State) (h a : Nat) : (s.cnt0 h a).pv = s.pv := w0_pv ..
@[simp] theorem cnt0_out (s : State) (h a : Nat) : (s.cnt0 h a).out = s.out := w0_out ..
@[simp] theorem cnt0_readData (s : State) (h a : Nat) : (s.cnt0 h a).readData = s.readData := w0_readData ..
@[simp] theorem cnt0_free (s : State) (h a : Nat) : (s.cnt0 h a).free = s.free := w0_free ..
@[simp] theorem cnt0_pending (s : State) (h a : Nat) : (s.cnt0 h a).pending = s.pending := w0_pending ..

@[simp] theorem cntch_sys (s : State) (c a lo len : Nat) : (s.cntch c a lo len).sys = s.sys := (rfl)
@[simp] theorem cntch_tim (s : State) (c a lo len : Nat) : (s.cntch c a lo len).tim = s.tim := (rfl)
@[simp] theorem cntch_b2 (s : State) (c a lo len : Nat) : (s.cntch c a lo len).b2 = s.b2 := (rfl)
@[simp] theorem cntch_b0 (s : State) (c a lo len : Nat) : (s.cntch c a lo len).b0 = s.b0 := (rfl)
@[simp] theorem cntch_hold (s : State) (c a lo len : Nat) : (s.cntch c a lo len).hold = s.hold := (rfl)
@[simp] theorem cntch_adm (s : State) (c a lo len : Nat) : (s.cntch c a lo len).adm = s.adm := (rfl)
@[simp] theorem cntch_hport (s : State) (c a lo len : Nat) : (s.cntch c a lo len).hport = s.hport := (rfl)
@[simp] theorem cntch_intr (s : State) (c a lo len : Nat) : (s.cntch c a lo len).intr = s.intr := (rfl)
@[simp] theorem cntch_flt (s : State) (c a lo len : Nat) : (s.cntch c a lo len).flt = s.flt := (rfl)
@[simp] theorem cntch_job (s : State) (c a lo len : Nat) : (s.cntch c a lo len).job = s.job := (rfl)
@[simp] theorem cntch_vid (s : State) (c a lo len : Nat) : (s.cntch c a lo len).vid = s.vid := (rfl)
@[simp] theorem cntch_grn (s : State) (c a lo len : Nat) : (s.cntch c a lo len).grn = s.grn := (rfl)
@[simp] theorem cntch_dma (s : State) (c a lo len : Nat) : (s.cntch c a lo len).dma = s.dma := (rfl)
@[simp] theorem cntch_ing (s : State) (c a lo len : Nat) : (s.cntch c a lo len).ing = s.ing := (rfl)
@[simp] theorem cntch_egr (s : State) (c a lo len : Nat) : (s.cntch c a lo len).egr = s.egr := (rfl)
@[simp] theorem cntch_drm (s : State) (c a lo len : Nat) : (s.cntch c a lo len).drm = s.drm := (rfl)
@[simp] theorem cntch_yoke (s : State) (c a lo len : Nat) : (s.cntch c a lo len).yoke = s.yoke := (rfl)
@[simp] theorem cntch_baulk (s : State) (c a lo len : Nat) : (s.cntch c a lo len).baulk = s.baulk := (rfl)
@[simp] theorem cntch_pv (s : State) (c a lo len : Nat) : (s.cntch c a lo len).pv = s.pv := (rfl)
@[simp] theorem cntch_out (s : State) (c a lo len : Nat) : (s.cntch c a lo len).out = s.out := (rfl)
@[simp] theorem cntch_readData (s : State) (c a lo len : Nat) : (s.cntch c a lo len).readData = s.readData := (rfl)
@[simp] theorem cntch_free (s : State) (c a lo len : Nat) : (s.cntch c a lo len).free = s.free := (rfl)
@[simp] theorem cntch_pending (s : State) (c a lo len : Nat) : (s.cntch c a lo len).pending = s.pending := (rfl)

@[simp] theorem addch_sys (s : State) (c a lo len n : Nat) : (s.addch c a lo len n).sys = s.sys := (rfl)
@[simp] theorem addch_tim (s : State) (c a lo len n : Nat) : (s.addch c a lo len n).tim = s.tim := (rfl)
@[simp] theorem addch_b2 (s : State) (c a lo len n : Nat) : (s.addch c a lo len n).b2 = s.b2 := (rfl)
@[simp] theorem addch_b0 (s : State) (c a lo len n : Nat) : (s.addch c a lo len n).b0 = s.b0 := (rfl)
@[simp] theorem addch_hold (s : State) (c a lo len n : Nat) : (s.addch c a lo len n).hold = s.hold := (rfl)
@[simp] theorem addch_adm (s : State) (c a lo len n : Nat) : (s.addch c a lo len n).adm = s.adm := (rfl)
@[simp] theorem addch_hport (s : State) (c a lo len n : Nat) : (s.addch c a lo len n).hport = s.hport := (rfl)
@[simp] theorem addch_intr (s : State) (c a lo len n : Nat) : (s.addch c a lo len n).intr = s.intr := (rfl)
@[simp] theorem addch_flt (s : State) (c a lo len n : Nat) : (s.addch c a lo len n).flt = s.flt := (rfl)
@[simp] theorem addch_job (s : State) (c a lo len n : Nat) : (s.addch c a lo len n).job = s.job := (rfl)
@[simp] theorem addch_vid (s : State) (c a lo len n : Nat) : (s.addch c a lo len n).vid = s.vid := (rfl)
@[simp] theorem addch_grn (s : State) (c a lo len n : Nat) : (s.addch c a lo len n).grn = s.grn := (rfl)
@[simp] theorem addch_dma (s : State) (c a lo len n : Nat) : (s.addch c a lo len n).dma = s.dma := (rfl)
@[simp] theorem addch_ing (s : State) (c a lo len n : Nat) : (s.addch c a lo len n).ing = s.ing := (rfl)
@[simp] theorem addch_egr (s : State) (c a lo len n : Nat) : (s.addch c a lo len n).egr = s.egr := (rfl)
@[simp] theorem addch_drm (s : State) (c a lo len n : Nat) : (s.addch c a lo len n).drm = s.drm := (rfl)
@[simp] theorem addch_yoke (s : State) (c a lo len n : Nat) : (s.addch c a lo len n).yoke = s.yoke := (rfl)
@[simp] theorem addch_baulk (s : State) (c a lo len n : Nat) : (s.addch c a lo len n).baulk = s.baulk := (rfl)
@[simp] theorem addch_pv (s : State) (c a lo len n : Nat) : (s.addch c a lo len n).pv = s.pv := (rfl)
@[simp] theorem addch_out (s : State) (c a lo len n : Nat) : (s.addch c a lo len n).out = s.out := (rfl)
@[simp] theorem addch_readData (s : State) (c a lo len n : Nat) : (s.addch c a lo len n).readData = s.readData := (rfl)
@[simp] theorem addch_free (s : State) (c a lo len n : Nat) : (s.addch c a lo len n).free = s.free := (rfl)
@[simp] theorem addch_pending (s : State) (c a lo len n : Nat) : (s.addch c a lo len n).pending = s.pending := (rfl)

@[simp] theorem wq2_sys (s : State) (a : Nat) (v : DWord) : (s.wq2 a v).sys = s.sys := (rfl)
@[simp] theorem wq2_tim (s : State) (a : Nat) (v : DWord) : (s.wq2 a v).tim = s.tim := (rfl)
@[simp] theorem wq2_b0 (s : State) (a : Nat) (v : DWord) : (s.wq2 a v).b0 = s.b0 := (rfl)
@[simp] theorem wq2_bc (s : State) (a : Nat) (v : DWord) : (s.wq2 a v).bc = s.bc := (rfl)
@[simp] theorem wq2_hold (s : State) (a : Nat) (v : DWord) : (s.wq2 a v).hold = s.hold := (rfl)
@[simp] theorem wq2_adm (s : State) (a : Nat) (v : DWord) : (s.wq2 a v).adm = s.adm := (rfl)
@[simp] theorem wq2_hport (s : State) (a : Nat) (v : DWord) : (s.wq2 a v).hport = s.hport := (rfl)
@[simp] theorem wq2_intr (s : State) (a : Nat) (v : DWord) : (s.wq2 a v).intr = s.intr := (rfl)
@[simp] theorem wq2_flt (s : State) (a : Nat) (v : DWord) : (s.wq2 a v).flt = s.flt := (rfl)
@[simp] theorem wq2_job (s : State) (a : Nat) (v : DWord) : (s.wq2 a v).job = s.job := (rfl)
@[simp] theorem wq2_vid (s : State) (a : Nat) (v : DWord) : (s.wq2 a v).vid = s.vid := (rfl)
@[simp] theorem wq2_grn (s : State) (a : Nat) (v : DWord) : (s.wq2 a v).grn = s.grn := (rfl)
@[simp] theorem wq2_dma (s : State) (a : Nat) (v : DWord) : (s.wq2 a v).dma = s.dma := (rfl)
@[simp] theorem wq2_ing (s : State) (a : Nat) (v : DWord) : (s.wq2 a v).ing = s.ing := (rfl)
@[simp] theorem wq2_egr (s : State) (a : Nat) (v : DWord) : (s.wq2 a v).egr = s.egr := (rfl)
@[simp] theorem wq2_drm (s : State) (a : Nat) (v : DWord) : (s.wq2 a v).drm = s.drm := (rfl)
@[simp] theorem wq2_yoke (s : State) (a : Nat) (v : DWord) : (s.wq2 a v).yoke = s.yoke := (rfl)
@[simp] theorem wq2_baulk (s : State) (a : Nat) (v : DWord) : (s.wq2 a v).baulk = s.baulk := (rfl)
@[simp] theorem wq2_pv (s : State) (a : Nat) (v : DWord) : (s.wq2 a v).pv = s.pv := (rfl)
@[simp] theorem wq2_out (s : State) (a : Nat) (v : DWord) : (s.wq2 a v).out = s.out := (rfl)
@[simp] theorem wq2_readData (s : State) (a : Nat) (v : DWord) : (s.wq2 a v).readData = s.readData := (rfl)
@[simp] theorem wq2_free (s : State) (a : Nat) (v : DWord) : (s.wq2 a v).free = s.free := (rfl)
@[simp] theorem wq2_pending (s : State) (a : Nat) (v : DWord) : (s.wq2 a v).pending = s.pending := (rfl)

@[simp] theorem wq0_sys (s : State) (h a : Nat) (v : DWord) : (s.wq0 h a v).sys = s.sys := (w0_sys ..).trans (w0_sys ..)
@[simp] theorem wq0_tim (s : State) (h a : Nat) (v : DWord) : (s.wq0 h a v).tim = s.tim := (w0_tim ..).trans (w0_tim ..)
@[simp] theorem wq0_b2 (s : State) (h a : Nat) (v : DWord) : (s.wq0 h a v).b2 = s.b2 := (w0_b2 ..).trans (w0_b2 ..)
@[simp] theorem wq0_bc (s : State) (h a : Nat) (v : DWord) : (s.wq0 h a v).bc = s.bc := (w0_bc ..).trans (w0_bc ..)
@[simp] theorem wq0_hold (s : State) (h a : Nat) (v : DWord) : (s.wq0 h a v).hold = s.hold := (w0_hold ..).trans (w0_hold ..)
@[simp] theorem wq0_adm (s : State) (h a : Nat) (v : DWord) : (s.wq0 h a v).adm = s.adm := (w0_adm ..).trans (w0_adm ..)
@[simp] theorem wq0_hport (s : State) (h a : Nat) (v : DWord) : (s.wq0 h a v).hport = s.hport := (w0_hport ..).trans (w0_hport ..)
@[simp] theorem wq0_intr (s : State) (h a : Nat) (v : DWord) : (s.wq0 h a v).intr = s.intr := (w0_intr ..).trans (w0_intr ..)
@[simp] theorem wq0_flt (s : State) (h a : Nat) (v : DWord) : (s.wq0 h a v).flt = s.flt := (w0_flt ..).trans (w0_flt ..)
@[simp] theorem wq0_job (s : State) (h a : Nat) (v : DWord) : (s.wq0 h a v).job = s.job := (w0_job ..).trans (w0_job ..)
@[simp] theorem wq0_vid (s : State) (h a : Nat) (v : DWord) : (s.wq0 h a v).vid = s.vid := (w0_vid ..).trans (w0_vid ..)
@[simp] theorem wq0_grn (s : State) (h a : Nat) (v : DWord) : (s.wq0 h a v).grn = s.grn := (w0_grn ..).trans (w0_grn ..)
@[simp] theorem wq0_dma (s : State) (h a : Nat) (v : DWord) : (s.wq0 h a v).dma = s.dma := (w0_dma ..).trans (w0_dma ..)
@[simp] theorem wq0_ing (s : State) (h a : Nat) (v : DWord) : (s.wq0 h a v).ing = s.ing := (w0_ing ..).trans (w0_ing ..)
@[simp] theorem wq0_egr (s : State) (h a : Nat) (v : DWord) : (s.wq0 h a v).egr = s.egr := (w0_egr ..).trans (w0_egr ..)
@[simp] theorem wq0_drm (s : State) (h a : Nat) (v : DWord) : (s.wq0 h a v).drm = s.drm := (w0_drm ..).trans (w0_drm ..)
@[simp] theorem wq0_yoke (s : State) (h a : Nat) (v : DWord) : (s.wq0 h a v).yoke = s.yoke := (w0_yoke ..).trans (w0_yoke ..)
@[simp] theorem wq0_baulk (s : State) (h a : Nat) (v : DWord) : (s.wq0 h a v).baulk = s.baulk := (w0_baulk ..).trans (w0_baulk ..)
@[simp] theorem wq0_pv (s : State) (h a : Nat) (v : DWord) : (s.wq0 h a v).pv = s.pv := (w0_pv ..).trans (w0_pv ..)
@[simp] theorem wq0_out (s : State) (h a : Nat) (v : DWord) : (s.wq0 h a v).out = s.out := (w0_out ..).trans (w0_out ..)
@[simp] theorem wq0_readData (s : State) (h a : Nat) (v : DWord) : (s.wq0 h a v).readData = s.readData := (w0_readData ..).trans (w0_readData ..)
@[simp] theorem wq0_free (s : State) (h a : Nat) (v : DWord) : (s.wq0 h a v).free = s.free := (w0_free ..).trans (w0_free ..)
@[simp] theorem wq0_pending (s : State) (h a : Nat) (v : DWord) : (s.wq0 h a v).pending = s.pending := (w0_pending ..).trans (w0_pending ..)

@[simp] theorem wqch_sys (s : State) (c a : Nat) (v : DWord) : (s.wqch c a v).sys = s.sys := (rfl)
@[simp] theorem wqch_tim (s : State) (c a : Nat) (v : DWord) : (s.wqch c a v).tim = s.tim := (rfl)
@[simp] theorem wqch_b2 (s : State) (c a : Nat) (v : DWord) : (s.wqch c a v).b2 = s.b2 := (rfl)
@[simp] theorem wqch_b0 (s : State) (c a : Nat) (v : DWord) : (s.wqch c a v).b0 = s.b0 := (rfl)
@[simp] theorem wqch_hold (s : State) (c a : Nat) (v : DWord) : (s.wqch c a v).hold = s.hold := (rfl)
@[simp] theorem wqch_adm (s : State) (c a : Nat) (v : DWord) : (s.wqch c a v).adm = s.adm := (rfl)
@[simp] theorem wqch_hport (s : State) (c a : Nat) (v : DWord) : (s.wqch c a v).hport = s.hport := (rfl)
@[simp] theorem wqch_intr (s : State) (c a : Nat) (v : DWord) : (s.wqch c a v).intr = s.intr := (rfl)
@[simp] theorem wqch_flt (s : State) (c a : Nat) (v : DWord) : (s.wqch c a v).flt = s.flt := (rfl)
@[simp] theorem wqch_job (s : State) (c a : Nat) (v : DWord) : (s.wqch c a v).job = s.job := (rfl)
@[simp] theorem wqch_vid (s : State) (c a : Nat) (v : DWord) : (s.wqch c a v).vid = s.vid := (rfl)
@[simp] theorem wqch_grn (s : State) (c a : Nat) (v : DWord) : (s.wqch c a v).grn = s.grn := (rfl)
@[simp] theorem wqch_dma (s : State) (c a : Nat) (v : DWord) : (s.wqch c a v).dma = s.dma := (rfl)
@[simp] theorem wqch_ing (s : State) (c a : Nat) (v : DWord) : (s.wqch c a v).ing = s.ing := (rfl)
@[simp] theorem wqch_egr (s : State) (c a : Nat) (v : DWord) : (s.wqch c a v).egr = s.egr := (rfl)
@[simp] theorem wqch_drm (s : State) (c a : Nat) (v : DWord) : (s.wqch c a v).drm = s.drm := (rfl)
@[simp] theorem wqch_yoke (s : State) (c a : Nat) (v : DWord) : (s.wqch c a v).yoke = s.yoke := (rfl)
@[simp] theorem wqch_baulk (s : State) (c a : Nat) (v : DWord) : (s.wqch c a v).baulk = s.baulk := (rfl)
@[simp] theorem wqch_pv (s : State) (c a : Nat) (v : DWord) : (s.wqch c a v).pv = s.pv := (rfl)
@[simp] theorem wqch_out (s : State) (c a : Nat) (v : DWord) : (s.wqch c a v).out = s.out := (rfl)
@[simp] theorem wqch_readData (s : State) (c a : Nat) (v : DWord) : (s.wqch c a v).readData = s.readData := (rfl)
@[simp] theorem wqch_free (s : State) (c a : Nat) (v : DWord) : (s.wqch c a v).free = s.free := (rfl)
@[simp] theorem wqch_pending (s : State) (c a : Nat) (v : DWord) : (s.wqch c a v).pending = s.pending := (rfl)

@[simp] theorem addq2_sys (s : State) (a n : Nat) : (s.addq2 a n).sys = s.sys := (rfl)
@[simp] theorem addq2_tim (s : State) (a n : Nat) : (s.addq2 a n).tim = s.tim := (rfl)
@[simp] theorem addq2_b0 (s : State) (a n : Nat) : (s.addq2 a n).b0 = s.b0 := (rfl)
@[simp] theorem addq2_bc (s : State) (a n : Nat) : (s.addq2 a n).bc = s.bc := (rfl)
@[simp] theorem addq2_hold (s : State) (a n : Nat) : (s.addq2 a n).hold = s.hold := (rfl)
@[simp] theorem addq2_adm (s : State) (a n : Nat) : (s.addq2 a n).adm = s.adm := (rfl)
@[simp] theorem addq2_hport (s : State) (a n : Nat) : (s.addq2 a n).hport = s.hport := (rfl)
@[simp] theorem addq2_intr (s : State) (a n : Nat) : (s.addq2 a n).intr = s.intr := (rfl)
@[simp] theorem addq2_flt (s : State) (a n : Nat) : (s.addq2 a n).flt = s.flt := (rfl)
@[simp] theorem addq2_job (s : State) (a n : Nat) : (s.addq2 a n).job = s.job := (rfl)
@[simp] theorem addq2_vid (s : State) (a n : Nat) : (s.addq2 a n).vid = s.vid := (rfl)
@[simp] theorem addq2_grn (s : State) (a n : Nat) : (s.addq2 a n).grn = s.grn := (rfl)
@[simp] theorem addq2_dma (s : State) (a n : Nat) : (s.addq2 a n).dma = s.dma := (rfl)
@[simp] theorem addq2_ing (s : State) (a n : Nat) : (s.addq2 a n).ing = s.ing := (rfl)
@[simp] theorem addq2_egr (s : State) (a n : Nat) : (s.addq2 a n).egr = s.egr := (rfl)
@[simp] theorem addq2_drm (s : State) (a n : Nat) : (s.addq2 a n).drm = s.drm := (rfl)
@[simp] theorem addq2_yoke (s : State) (a n : Nat) : (s.addq2 a n).yoke = s.yoke := (rfl)
@[simp] theorem addq2_baulk (s : State) (a n : Nat) : (s.addq2 a n).baulk = s.baulk := (rfl)
@[simp] theorem addq2_pv (s : State) (a n : Nat) : (s.addq2 a n).pv = s.pv := (rfl)
@[simp] theorem addq2_out (s : State) (a n : Nat) : (s.addq2 a n).out = s.out := (rfl)
@[simp] theorem addq2_readData (s : State) (a n : Nat) : (s.addq2 a n).readData = s.readData := (rfl)
@[simp] theorem addq2_free (s : State) (a n : Nat) : (s.addq2 a n).free = s.free := (rfl)
@[simp] theorem addq2_pending (s : State) (a n : Nat) : (s.addq2 a n).pending = s.pending := (rfl)

@[simp] theorem addq0_sys (s : State) (h a n : Nat) : (s.addq0 h a n).sys = s.sys := wq0_sys ..
@[simp] theorem addq0_tim (s : State) (h a n : Nat) : (s.addq0 h a n).tim = s.tim := wq0_tim ..
@[simp] theorem addq0_b2 (s : State) (h a n : Nat) : (s.addq0 h a n).b2 = s.b2 := wq0_b2 ..
@[simp] theorem addq0_bc (s : State) (h a n : Nat) : (s.addq0 h a n).bc = s.bc := wq0_bc ..
@[simp] theorem addq0_hold (s : State) (h a n : Nat) : (s.addq0 h a n).hold = s.hold := wq0_hold ..
@[simp] theorem addq0_adm (s : State) (h a n : Nat) : (s.addq0 h a n).adm = s.adm := wq0_adm ..
@[simp] theorem addq0_hport (s : State) (h a n : Nat) : (s.addq0 h a n).hport = s.hport := wq0_hport ..
@[simp] theorem addq0_intr (s : State) (h a n : Nat) : (s.addq0 h a n).intr = s.intr := wq0_intr ..
@[simp] theorem addq0_flt (s : State) (h a n : Nat) : (s.addq0 h a n).flt = s.flt := wq0_flt ..
@[simp] theorem addq0_job (s : State) (h a n : Nat) : (s.addq0 h a n).job = s.job := wq0_job ..
@[simp] theorem addq0_vid (s : State) (h a n : Nat) : (s.addq0 h a n).vid = s.vid := wq0_vid ..
@[simp] theorem addq0_grn (s : State) (h a n : Nat) : (s.addq0 h a n).grn = s.grn := wq0_grn ..
@[simp] theorem addq0_dma (s : State) (h a n : Nat) : (s.addq0 h a n).dma = s.dma := wq0_dma ..
@[simp] theorem addq0_ing (s : State) (h a n : Nat) : (s.addq0 h a n).ing = s.ing := wq0_ing ..
@[simp] theorem addq0_egr (s : State) (h a n : Nat) : (s.addq0 h a n).egr = s.egr := wq0_egr ..
@[simp] theorem addq0_drm (s : State) (h a n : Nat) : (s.addq0 h a n).drm = s.drm := wq0_drm ..
@[simp] theorem addq0_yoke (s : State) (h a n : Nat) : (s.addq0 h a n).yoke = s.yoke := wq0_yoke ..
@[simp] theorem addq0_baulk (s : State) (h a n : Nat) : (s.addq0 h a n).baulk = s.baulk := wq0_baulk ..
@[simp] theorem addq0_pv (s : State) (h a n : Nat) : (s.addq0 h a n).pv = s.pv := wq0_pv ..
@[simp] theorem addq0_out (s : State) (h a n : Nat) : (s.addq0 h a n).out = s.out := wq0_out ..
@[simp] theorem addq0_readData (s : State) (h a n : Nat) : (s.addq0 h a n).readData = s.readData := wq0_readData ..
@[simp] theorem addq0_free (s : State) (h a n : Nat) : (s.addq0 h a n).free = s.free := wq0_free ..
@[simp] theorem addq0_pending (s : State) (h a n : Nat) : (s.addq0 h a n).pending = s.pending := wq0_pending ..

@[simp] theorem addqch_sys (s : State) (c a n : Nat) : (s.addqch c a n).sys = s.sys := (rfl)
@[simp] theorem addqch_tim (s : State) (c a n : Nat) : (s.addqch c a n).tim = s.tim := (rfl)
@[simp] theorem addqch_b2 (s : State) (c a n : Nat) : (s.addqch c a n).b2 = s.b2 := (rfl)
@[simp] theorem addqch_b0 (s : State) (c a n : Nat) : (s.addqch c a n).b0 = s.b0 := (rfl)
@[simp] theorem addqch_hold (s : State) (c a n : Nat) : (s.addqch c a n).hold = s.hold := (rfl)
@[simp] theorem addqch_adm (s : State) (c a n : Nat) : (s.addqch c a n).adm = s.adm := (rfl)
@[simp] theorem addqch_hport (s : State) (c a n : Nat) : (s.addqch c a n).hport = s.hport := (rfl)
@[simp] theorem addqch_intr (s : State) (c a n : Nat) : (s.addqch c a n).intr = s.intr := (rfl)
@[simp] theorem addqch_flt (s : State) (c a n : Nat) : (s.addqch c a n).flt = s.flt := (rfl)
@[simp] theorem addqch_job (s : State) (c a n : Nat) : (s.addqch c a n).job = s.job := (rfl)
@[simp] theorem addqch_vid (s : State) (c a n : Nat) : (s.addqch c a n).vid = s.vid := (rfl)
@[simp] theorem addqch_grn (s : State) (c a n : Nat) : (s.addqch c a n).grn = s.grn := (rfl)
@[simp] theorem addqch_dma (s : State) (c a n : Nat) : (s.addqch c a n).dma = s.dma := (rfl)
@[simp] theorem addqch_ing (s : State) (c a n : Nat) : (s.addqch c a n).ing = s.ing := (rfl)
@[simp] theorem addqch_egr (s : State) (c a n : Nat) : (s.addqch c a n).egr = s.egr := (rfl)
@[simp] theorem addqch_drm (s : State) (c a n : Nat) : (s.addqch c a n).drm = s.drm := (rfl)
@[simp] theorem addqch_yoke (s : State) (c a n : Nat) : (s.addqch c a n).yoke = s.yoke := (rfl)
@[simp] theorem addqch_baulk (s : State) (c a n : Nat) : (s.addqch c a n).baulk = s.baulk := (rfl)
@[simp] theorem addqch_pv (s : State) (c a n : Nat) : (s.addqch c a n).pv = s.pv := (rfl)
@[simp] theorem addqch_out (s : State) (c a n : Nat) : (s.addqch c a n).out = s.out := (rfl)
@[simp] theorem addqch_readData (s : State) (c a n : Nat) : (s.addqch c a n).readData = s.readData := (rfl)
@[simp] theorem addqch_free (s : State) (c a n : Nat) : (s.addqch c a n).free = s.free := (rfl)
@[simp] theorem addqch_pending (s : State) (c a n : Nat) : (s.addqch c a n).pending = s.pending := (rfl)

@[simp] theorem emit_sys (s : State) (o : Out) : (s.emit o).sys = s.sys := (rfl)
@[simp] theorem emit_tim (s : State) (o : Out) : (s.emit o).tim = s.tim := (rfl)
@[simp] theorem emit_b2 (s : State) (o : Out) : (s.emit o).b2 = s.b2 := (rfl)
@[simp] theorem emit_b0 (s : State) (o : Out) : (s.emit o).b0 = s.b0 := (rfl)
@[simp] theorem emit_bc (s : State) (o : Out) : (s.emit o).bc = s.bc := (rfl)
@[simp] theorem emit_hold (s : State) (o : Out) : (s.emit o).hold = s.hold := (rfl)
@[simp] theorem emit_adm (s : State) (o : Out) : (s.emit o).adm = s.adm := (rfl)
@[simp] theorem emit_hport (s : State) (o : Out) : (s.emit o).hport = s.hport := (rfl)
@[simp] theorem emit_intr (s : State) (o : Out) : (s.emit o).intr = s.intr := (rfl)
@[simp] theorem emit_flt (s : State) (o : Out) : (s.emit o).flt = s.flt := (rfl)
@[simp] theorem emit_job (s : State) (o : Out) : (s.emit o).job = s.job := (rfl)
@[simp] theorem emit_vid (s : State) (o : Out) : (s.emit o).vid = s.vid := (rfl)
@[simp] theorem emit_grn (s : State) (o : Out) : (s.emit o).grn = s.grn := (rfl)
@[simp] theorem emit_dma (s : State) (o : Out) : (s.emit o).dma = s.dma := (rfl)
@[simp] theorem emit_ing (s : State) (o : Out) : (s.emit o).ing = s.ing := (rfl)
@[simp] theorem emit_egr (s : State) (o : Out) : (s.emit o).egr = s.egr := (rfl)
@[simp] theorem emit_drm (s : State) (o : Out) : (s.emit o).drm = s.drm := (rfl)
@[simp] theorem emit_yoke (s : State) (o : Out) : (s.emit o).yoke = s.yoke := (rfl)
@[simp] theorem emit_baulk (s : State) (o : Out) : (s.emit o).baulk = s.baulk := (rfl)
@[simp] theorem emit_pv (s : State) (o : Out) : (s.emit o).pv = s.pv := (rfl)
@[simp] theorem emit_readData (s : State) (o : Out) : (s.emit o).readData = s.readData := (rfl)
@[simp] theorem emit_free (s : State) (o : Out) : (s.emit o).free = s.free := (rfl)
@[simp] theorem emit_pending (s : State) (o : Out) : (s.emit o).pending = s.pending := (rfl)

@[simp] theorem setHd_sys (s : State) (h : Nat) (x : Holding) : (s.setHd h x).sys = s.sys := (rfl)
@[simp] theorem setHd_tim (s : State) (h : Nat) (x : Holding) : (s.setHd h x).tim = s.tim := (rfl)
@[simp] theorem setHd_b2 (s : State) (h : Nat) (x : Holding) : (s.setHd h x).b2 = s.b2 := (rfl)
@[simp] theorem setHd_b0 (s : State) (h : Nat) (x : Holding) : (s.setHd h x).b0 = s.b0 := (rfl)
@[simp] theorem setHd_bc (s : State) (h : Nat) (x : Holding) : (s.setHd h x).bc = s.bc := (rfl)
@[simp] theorem setHd_adm (s : State) (h : Nat) (x : Holding) : (s.setHd h x).adm = s.adm := (rfl)
@[simp] theorem setHd_hport (s : State) (h : Nat) (x : Holding) : (s.setHd h x).hport = s.hport := (rfl)
@[simp] theorem setHd_intr (s : State) (h : Nat) (x : Holding) : (s.setHd h x).intr = s.intr := (rfl)
@[simp] theorem setHd_flt (s : State) (h : Nat) (x : Holding) : (s.setHd h x).flt = s.flt := (rfl)
@[simp] theorem setHd_job (s : State) (h : Nat) (x : Holding) : (s.setHd h x).job = s.job := (rfl)
@[simp] theorem setHd_vid (s : State) (h : Nat) (x : Holding) : (s.setHd h x).vid = s.vid := (rfl)
@[simp] theorem setHd_grn (s : State) (h : Nat) (x : Holding) : (s.setHd h x).grn = s.grn := (rfl)
@[simp] theorem setHd_dma (s : State) (h : Nat) (x : Holding) : (s.setHd h x).dma = s.dma := (rfl)
@[simp] theorem setHd_ing (s : State) (h : Nat) (x : Holding) : (s.setHd h x).ing = s.ing := (rfl)
@[simp] theorem setHd_egr (s : State) (h : Nat) (x : Holding) : (s.setHd h x).egr = s.egr := (rfl)
@[simp] theorem setHd_drm (s : State) (h : Nat) (x : Holding) : (s.setHd h x).drm = s.drm := (rfl)
@[simp] theorem setHd_yoke (s : State) (h : Nat) (x : Holding) : (s.setHd h x).yoke = s.yoke := (rfl)
@[simp] theorem setHd_baulk (s : State) (h : Nat) (x : Holding) : (s.setHd h x).baulk = s.baulk := (rfl)
@[simp] theorem setHd_pv (s : State) (h : Nat) (x : Holding) : (s.setHd h x).pv = s.pv := (rfl)
@[simp] theorem setHd_out (s : State) (h : Nat) (x : Holding) : (s.setHd h x).out = s.out := (rfl)
@[simp] theorem setHd_readData (s : State) (h : Nat) (x : Holding) : (s.setHd h x).readData = s.readData := (rfl)
@[simp] theorem setHd_free (s : State) (h : Nat) (x : Holding) : (s.setHd h x).free = s.free := (rfl)
@[simp] theorem setHd_pending (s : State) (h : Nat) (x : Holding) : (s.setHd h x).pending = s.pending := (rfl)

@[simp] theorem modHd_sys (s : State) (h : Nat) (f : Holding → Holding) : (s.modHd h f).sys = s.sys := (rfl)
@[simp] theorem modHd_tim (s : State) (h : Nat) (f : Holding → Holding) : (s.modHd h f).tim = s.tim := (rfl)
@[simp] theorem modHd_b2 (s : State) (h : Nat) (f : Holding → Holding) : (s.modHd h f).b2 = s.b2 := (rfl)
@[simp] theorem modHd_b0 (s : State) (h : Nat) (f : Holding → Holding) : (s.modHd h f).b0 = s.b0 := (rfl)
@[simp] theorem modHd_bc (s : State) (h : Nat) (f : Holding → Holding) : (s.modHd h f).bc = s.bc := (rfl)
@[simp] theorem modHd_adm (s : State) (h : Nat) (f : Holding → Holding) : (s.modHd h f).adm = s.adm := (rfl)
@[simp] theorem modHd_hport (s : State) (h : Nat) (f : Holding → Holding) : (s.modHd h f).hport = s.hport := (rfl)
@[simp] theorem modHd_intr (s : State) (h : Nat) (f : Holding → Holding) : (s.modHd h f).intr = s.intr := (rfl)
@[simp] theorem modHd_flt (s : State) (h : Nat) (f : Holding → Holding) : (s.modHd h f).flt = s.flt := (rfl)
@[simp] theorem modHd_job (s : State) (h : Nat) (f : Holding → Holding) : (s.modHd h f).job = s.job := (rfl)
@[simp] theorem modHd_vid (s : State) (h : Nat) (f : Holding → Holding) : (s.modHd h f).vid = s.vid := (rfl)
@[simp] theorem modHd_grn (s : State) (h : Nat) (f : Holding → Holding) : (s.modHd h f).grn = s.grn := (rfl)
@[simp] theorem modHd_dma (s : State) (h : Nat) (f : Holding → Holding) : (s.modHd h f).dma = s.dma := (rfl)
@[simp] theorem modHd_ing (s : State) (h : Nat) (f : Holding → Holding) : (s.modHd h f).ing = s.ing := (rfl)
@[simp] theorem modHd_egr (s : State) (h : Nat) (f : Holding → Holding) : (s.modHd h f).egr = s.egr := (rfl)
@[simp] theorem modHd_drm (s : State) (h : Nat) (f : Holding → Holding) : (s.modHd h f).drm = s.drm := (rfl)
@[simp] theorem modHd_yoke (s : State) (h : Nat) (f : Holding → Holding) : (s.modHd h f).yoke = s.yoke := (rfl)
@[simp] theorem modHd_baulk (s : State) (h : Nat) (f : Holding → Holding) : (s.modHd h f).baulk = s.baulk := (rfl)
@[simp] theorem modHd_pv (s : State) (h : Nat) (f : Holding → Holding) : (s.modHd h f).pv = s.pv := (rfl)
@[simp] theorem modHd_out (s : State) (h : Nat) (f : Holding → Holding) : (s.modHd h f).out = s.out := (rfl)
@[simp] theorem modHd_readData (s : State) (h : Nat) (f : Holding → Holding) : (s.modHd h f).readData = s.readData := (rfl)
@[simp] theorem modHd_free (s : State) (h : Nat) (f : Holding → Holding) : (s.modHd h f).free = s.free := (rfl)
@[simp] theorem modHd_pending (s : State) (h : Nat) (f : Holding → Holding) : (s.modHd h f).pending = s.pending := (rfl)

@[simp] theorem modHp_sys (s : State) (p : Nat) (f : HPort → HPort) : (s.modHp p f).sys = s.sys := (rfl)
@[simp] theorem modHp_tim (s : State) (p : Nat) (f : HPort → HPort) : (s.modHp p f).tim = s.tim := (rfl)
@[simp] theorem modHp_b2 (s : State) (p : Nat) (f : HPort → HPort) : (s.modHp p f).b2 = s.b2 := (rfl)
@[simp] theorem modHp_b0 (s : State) (p : Nat) (f : HPort → HPort) : (s.modHp p f).b0 = s.b0 := (rfl)
@[simp] theorem modHp_bc (s : State) (p : Nat) (f : HPort → HPort) : (s.modHp p f).bc = s.bc := (rfl)
@[simp] theorem modHp_hold (s : State) (p : Nat) (f : HPort → HPort) : (s.modHp p f).hold = s.hold := (rfl)
@[simp] theorem modHp_adm (s : State) (p : Nat) (f : HPort → HPort) : (s.modHp p f).adm = s.adm := (rfl)
@[simp] theorem modHp_intr (s : State) (p : Nat) (f : HPort → HPort) : (s.modHp p f).intr = s.intr := (rfl)
@[simp] theorem modHp_flt (s : State) (p : Nat) (f : HPort → HPort) : (s.modHp p f).flt = s.flt := (rfl)
@[simp] theorem modHp_job (s : State) (p : Nat) (f : HPort → HPort) : (s.modHp p f).job = s.job := (rfl)
@[simp] theorem modHp_vid (s : State) (p : Nat) (f : HPort → HPort) : (s.modHp p f).vid = s.vid := (rfl)
@[simp] theorem modHp_grn (s : State) (p : Nat) (f : HPort → HPort) : (s.modHp p f).grn = s.grn := (rfl)
@[simp] theorem modHp_dma (s : State) (p : Nat) (f : HPort → HPort) : (s.modHp p f).dma = s.dma := (rfl)
@[simp] theorem modHp_ing (s : State) (p : Nat) (f : HPort → HPort) : (s.modHp p f).ing = s.ing := (rfl)
@[simp] theorem modHp_egr (s : State) (p : Nat) (f : HPort → HPort) : (s.modHp p f).egr = s.egr := (rfl)
@[simp] theorem modHp_drm (s : State) (p : Nat) (f : HPort → HPort) : (s.modHp p f).drm = s.drm := (rfl)
@[simp] theorem modHp_yoke (s : State) (p : Nat) (f : HPort → HPort) : (s.modHp p f).yoke = s.yoke := (rfl)
@[simp] theorem modHp_baulk (s : State) (p : Nat) (f : HPort → HPort) : (s.modHp p f).baulk = s.baulk := (rfl)
@[simp] theorem modHp_pv (s : State) (p : Nat) (f : HPort → HPort) : (s.modHp p f).pv = s.pv := (rfl)
@[simp] theorem modHp_out (s : State) (p : Nat) (f : HPort → HPort) : (s.modHp p f).out = s.out := (rfl)
@[simp] theorem modHp_readData (s : State) (p : Nat) (f : HPort → HPort) : (s.modHp p f).readData = s.readData := (rfl)
@[simp] theorem modHp_free (s : State) (p : Nat) (f : HPort → HPort) : (s.modHp p f).free = s.free := (rfl)
@[simp] theorem modHp_pending (s : State) (p : Nat) (f : HPort → HPort) : (s.modHp p f).pending = s.pending := (rfl)

@[simp] theorem modFs_sys (s : State) (f : Nat) (g : FieldSt → FieldSt) : (s.modFs f g).sys = s.sys := (rfl)
@[simp] theorem modFs_tim (s : State) (f : Nat) (g : FieldSt → FieldSt) : (s.modFs f g).tim = s.tim := (rfl)
@[simp] theorem modFs_b2 (s : State) (f : Nat) (g : FieldSt → FieldSt) : (s.modFs f g).b2 = s.b2 := (rfl)
@[simp] theorem modFs_b0 (s : State) (f : Nat) (g : FieldSt → FieldSt) : (s.modFs f g).b0 = s.b0 := (rfl)
@[simp] theorem modFs_bc (s : State) (f : Nat) (g : FieldSt → FieldSt) : (s.modFs f g).bc = s.bc := (rfl)
@[simp] theorem modFs_hold (s : State) (f : Nat) (g : FieldSt → FieldSt) : (s.modFs f g).hold = s.hold := (rfl)
@[simp] theorem modFs_adm (s : State) (f : Nat) (g : FieldSt → FieldSt) : (s.modFs f g).adm = s.adm := (rfl)
@[simp] theorem modFs_hport (s : State) (f : Nat) (g : FieldSt → FieldSt) : (s.modFs f g).hport = s.hport := (rfl)
@[simp] theorem modFs_intr (s : State) (f : Nat) (g : FieldSt → FieldSt) : (s.modFs f g).intr = s.intr := (rfl)
@[simp] theorem modFs_flt (s : State) (f : Nat) (g : FieldSt → FieldSt) : (s.modFs f g).flt = s.flt := (rfl)
@[simp] theorem modFs_job (s : State) (f : Nat) (g : FieldSt → FieldSt) : (s.modFs f g).job = s.job := (rfl)
@[simp] theorem modFs_vid (s : State) (f : Nat) (g : FieldSt → FieldSt) : (s.modFs f g).vid = s.vid := (rfl)
@[simp] theorem modFs_grn (s : State) (f : Nat) (g : FieldSt → FieldSt) : (s.modFs f g).grn = s.grn := (rfl)
@[simp] theorem modFs_dma (s : State) (f : Nat) (g : FieldSt → FieldSt) : (s.modFs f g).dma = s.dma := (rfl)
@[simp] theorem modFs_ing (s : State) (f : Nat) (g : FieldSt → FieldSt) : (s.modFs f g).ing = s.ing := (rfl)
@[simp] theorem modFs_egr (s : State) (f : Nat) (g : FieldSt → FieldSt) : (s.modFs f g).egr = s.egr := (rfl)
@[simp] theorem modFs_drm (s : State) (f : Nat) (g : FieldSt → FieldSt) : (s.modFs f g).drm = s.drm := (rfl)
@[simp] theorem modFs_baulk (s : State) (f : Nat) (g : FieldSt → FieldSt) : (s.modFs f g).baulk = s.baulk := (rfl)
@[simp] theorem modFs_pv (s : State) (f : Nat) (g : FieldSt → FieldSt) : (s.modFs f g).pv = s.pv := (rfl)
@[simp] theorem modFs_out (s : State) (f : Nat) (g : FieldSt → FieldSt) : (s.modFs f g).out = s.out := (rfl)
@[simp] theorem modFs_readData (s : State) (f : Nat) (g : FieldSt → FieldSt) : (s.modFs f g).readData = s.readData := (rfl)
@[simp] theorem modFs_free (s : State) (f : Nat) (g : FieldSt → FieldSt) : (s.modFs f g).free = s.free := (rfl)
@[simp] theorem modFs_pending (s : State) (f : Nat) (g : FieldSt → FieldSt) : (s.modFs f g).pending = s.pending := (rfl)

@[simp] theorem setSrc_sys (s : State) (n : Nat) (x : Src) : (s.setSrc n x).sys = s.sys := (rfl)
@[simp] theorem setSrc_tim (s : State) (n : Nat) (x : Src) : (s.setSrc n x).tim = s.tim := (rfl)
@[simp] theorem setSrc_b2 (s : State) (n : Nat) (x : Src) : (s.setSrc n x).b2 = s.b2 := (rfl)
@[simp] theorem setSrc_b0 (s : State) (n : Nat) (x : Src) : (s.setSrc n x).b0 = s.b0 := (rfl)
@[simp] theorem setSrc_bc (s : State) (n : Nat) (x : Src) : (s.setSrc n x).bc = s.bc := (rfl)
@[simp] theorem setSrc_hold (s : State) (n : Nat) (x : Src) : (s.setSrc n x).hold = s.hold := (rfl)
@[simp] theorem setSrc_adm (s : State) (n : Nat) (x : Src) : (s.setSrc n x).adm = s.adm := (rfl)
@[simp] theorem setSrc_hport (s : State) (n : Nat) (x : Src) : (s.setSrc n x).hport = s.hport := (rfl)
@[simp] theorem setSrc_flt (s : State) (n : Nat) (x : Src) : (s.setSrc n x).flt = s.flt := (rfl)
@[simp] theorem setSrc_job (s : State) (n : Nat) (x : Src) : (s.setSrc n x).job = s.job := (rfl)
@[simp] theorem setSrc_vid (s : State) (n : Nat) (x : Src) : (s.setSrc n x).vid = s.vid := (rfl)
@[simp] theorem setSrc_grn (s : State) (n : Nat) (x : Src) : (s.setSrc n x).grn = s.grn := (rfl)
@[simp] theorem setSrc_dma (s : State) (n : Nat) (x : Src) : (s.setSrc n x).dma = s.dma := (rfl)
@[simp] theorem setSrc_ing (s : State) (n : Nat) (x : Src) : (s.setSrc n x).ing = s.ing := (rfl)
@[simp] theorem setSrc_egr (s : State) (n : Nat) (x : Src) : (s.setSrc n x).egr = s.egr := (rfl)
@[simp] theorem setSrc_drm (s : State) (n : Nat) (x : Src) : (s.setSrc n x).drm = s.drm := (rfl)
@[simp] theorem setSrc_yoke (s : State) (n : Nat) (x : Src) : (s.setSrc n x).yoke = s.yoke := (rfl)
@[simp] theorem setSrc_baulk (s : State) (n : Nat) (x : Src) : (s.setSrc n x).baulk = s.baulk := (rfl)
@[simp] theorem setSrc_pv (s : State) (n : Nat) (x : Src) : (s.setSrc n x).pv = s.pv := (rfl)
@[simp] theorem setSrc_out (s : State) (n : Nat) (x : Src) : (s.setSrc n x).out = s.out := (rfl)
@[simp] theorem setSrc_readData (s : State) (n : Nat) (x : Src) : (s.setSrc n x).readData = s.readData := (rfl)
@[simp] theorem setSrc_free (s : State) (n : Nat) (x : Src) : (s.setSrc n x).free = s.free := (rfl)
@[simp] theorem setSrc_pending (s : State) (n : Nat) (x : Src) : (s.setSrc n x).pending = s.pending := (rfl)

@[simp] theorem setVac_sys (s : State) (h : Nat) (x : Vac) : (s.setVac h x).sys = s.sys := (rfl)
@[simp] theorem setVac_tim (s : State) (h : Nat) (x : Vac) : (s.setVac h x).tim = s.tim := (rfl)
@[simp] theorem setVac_b2 (s : State) (h : Nat) (x : Vac) : (s.setVac h x).b2 = s.b2 := (rfl)
@[simp] theorem setVac_b0 (s : State) (h : Nat) (x : Vac) : (s.setVac h x).b0 = s.b0 := (rfl)
@[simp] theorem setVac_bc (s : State) (h : Nat) (x : Vac) : (s.setVac h x).bc = s.bc := (rfl)
@[simp] theorem setVac_hold (s : State) (h : Nat) (x : Vac) : (s.setVac h x).hold = s.hold := (rfl)
@[simp] theorem setVac_adm (s : State) (h : Nat) (x : Vac) : (s.setVac h x).adm = s.adm := (rfl)
@[simp] theorem setVac_hport (s : State) (h : Nat) (x : Vac) : (s.setVac h x).hport = s.hport := (rfl)
@[simp] theorem setVac_flt (s : State) (h : Nat) (x : Vac) : (s.setVac h x).flt = s.flt := (rfl)
@[simp] theorem setVac_job (s : State) (h : Nat) (x : Vac) : (s.setVac h x).job = s.job := (rfl)
@[simp] theorem setVac_vid (s : State) (h : Nat) (x : Vac) : (s.setVac h x).vid = s.vid := (rfl)
@[simp] theorem setVac_grn (s : State) (h : Nat) (x : Vac) : (s.setVac h x).grn = s.grn := (rfl)
@[simp] theorem setVac_dma (s : State) (h : Nat) (x : Vac) : (s.setVac h x).dma = s.dma := (rfl)
@[simp] theorem setVac_ing (s : State) (h : Nat) (x : Vac) : (s.setVac h x).ing = s.ing := (rfl)
@[simp] theorem setVac_egr (s : State) (h : Nat) (x : Vac) : (s.setVac h x).egr = s.egr := (rfl)
@[simp] theorem setVac_drm (s : State) (h : Nat) (x : Vac) : (s.setVac h x).drm = s.drm := (rfl)
@[simp] theorem setVac_yoke (s : State) (h : Nat) (x : Vac) : (s.setVac h x).yoke = s.yoke := (rfl)
@[simp] theorem setVac_baulk (s : State) (h : Nat) (x : Vac) : (s.setVac h x).baulk = s.baulk := (rfl)
@[simp] theorem setVac_pv (s : State) (h : Nat) (x : Vac) : (s.setVac h x).pv = s.pv := (rfl)
@[simp] theorem setVac_out (s : State) (h : Nat) (x : Vac) : (s.setVac h x).out = s.out := (rfl)
@[simp] theorem setVac_readData (s : State) (h : Nat) (x : Vac) : (s.setVac h x).readData = s.readData := (rfl)
@[simp] theorem setVac_free (s : State) (h : Nat) (x : Vac) : (s.setVac h x).free = s.free := (rfl)
@[simp] theorem setVac_pending (s : State) (h : Nat) (x : Vac) : (s.setVac h x).pending = s.pending := (rfl)

@[simp] theorem raise_sys (s : State) (f : Fire) : (s.raise f).sys = s.sys := (rfl)
@[simp] theorem raise_tim (s : State) (f : Fire) : (s.raise f).tim = s.tim := (rfl)
@[simp] theorem raise_b2 (s : State) (f : Fire) : (s.raise f).b2 = s.b2 := (rfl)
@[simp] theorem raise_b0 (s : State) (f : Fire) : (s.raise f).b0 = s.b0 := (rfl)
@[simp] theorem raise_bc (s : State) (f : Fire) : (s.raise f).bc = s.bc := (rfl)
@[simp] theorem raise_hold (s : State) (f : Fire) : (s.raise f).hold = s.hold := (rfl)
@[simp] theorem raise_adm (s : State) (f : Fire) : (s.raise f).adm = s.adm := (rfl)
@[simp] theorem raise_hport (s : State) (f : Fire) : (s.raise f).hport = s.hport := (rfl)
@[simp] theorem raise_intr (s : State) (f : Fire) : (s.raise f).intr = s.intr := (rfl)
@[simp] theorem raise_job (s : State) (f : Fire) : (s.raise f).job = s.job := (rfl)
@[simp] theorem raise_vid (s : State) (f : Fire) : (s.raise f).vid = s.vid := (rfl)
@[simp] theorem raise_grn (s : State) (f : Fire) : (s.raise f).grn = s.grn := (rfl)
@[simp] theorem raise_dma (s : State) (f : Fire) : (s.raise f).dma = s.dma := (rfl)
@[simp] theorem raise_ing (s : State) (f : Fire) : (s.raise f).ing = s.ing := (rfl)
@[simp] theorem raise_egr (s : State) (f : Fire) : (s.raise f).egr = s.egr := (rfl)
@[simp] theorem raise_drm (s : State) (f : Fire) : (s.raise f).drm = s.drm := (rfl)
@[simp] theorem raise_yoke (s : State) (f : Fire) : (s.raise f).yoke = s.yoke := (rfl)
@[simp] theorem raise_baulk (s : State) (f : Fire) : (s.raise f).baulk = s.baulk := (rfl)
@[simp] theorem raise_pv (s : State) (f : Fire) : (s.raise f).pv = s.pv := (rfl)
@[simp] theorem raise_out (s : State) (f : Fire) : (s.raise f).out = s.out := (rfl)
@[simp] theorem raise_readData (s : State) (f : Fire) : (s.raise f).readData = s.readData := (rfl)
@[simp] theorem raise_free (s : State) (f : Fire) : (s.raise f).free = s.free := (rfl)
@[simp] theorem raise_pending (s : State) (f : Fire) : (s.raise f).pending = s.pending := (rfl)

@[simp] theorem setJob_sys (s : State) (j : Jobs) : (s.setJob j).sys = s.sys := (rfl)
@[simp] theorem setJob_tim (s : State) (j : Jobs) : (s.setJob j).tim = s.tim := (rfl)
@[simp] theorem setJob_b2 (s : State) (j : Jobs) : (s.setJob j).b2 = s.b2 := (rfl)
@[simp] theorem setJob_b0 (s : State) (j : Jobs) : (s.setJob j).b0 = s.b0 := (rfl)
@[simp] theorem setJob_bc (s : State) (j : Jobs) : (s.setJob j).bc = s.bc := (rfl)
@[simp] theorem setJob_hold (s : State) (j : Jobs) : (s.setJob j).hold = s.hold := (rfl)
@[simp] theorem setJob_adm (s : State) (j : Jobs) : (s.setJob j).adm = s.adm := (rfl)
@[simp] theorem setJob_hport (s : State) (j : Jobs) : (s.setJob j).hport = s.hport := (rfl)
@[simp] theorem setJob_intr (s : State) (j : Jobs) : (s.setJob j).intr = s.intr := (rfl)
@[simp] theorem setJob_flt (s : State) (j : Jobs) : (s.setJob j).flt = s.flt := (rfl)
@[simp] theorem setJob_vid (s : State) (j : Jobs) : (s.setJob j).vid = s.vid := (rfl)
@[simp] theorem setJob_grn (s : State) (j : Jobs) : (s.setJob j).grn = s.grn := (rfl)
@[simp] theorem setJob_dma (s : State) (j : Jobs) : (s.setJob j).dma = s.dma := (rfl)
@[simp] theorem setJob_ing (s : State) (j : Jobs) : (s.setJob j).ing = s.ing := (rfl)
@[simp] theorem setJob_egr (s : State) (j : Jobs) : (s.setJob j).egr = s.egr := (rfl)
@[simp] theorem setJob_drm (s : State) (j : Jobs) : (s.setJob j).drm = s.drm := (rfl)
@[simp] theorem setJob_yoke (s : State) (j : Jobs) : (s.setJob j).yoke = s.yoke := (rfl)
@[simp] theorem setJob_baulk (s : State) (j : Jobs) : (s.setJob j).baulk = s.baulk := (rfl)
@[simp] theorem setJob_pv (s : State) (j : Jobs) : (s.setJob j).pv = s.pv := (rfl)
@[simp] theorem setJob_out (s : State) (j : Jobs) : (s.setJob j).out = s.out := (rfl)
@[simp] theorem setJob_readData (s : State) (j : Jobs) : (s.setJob j).readData = s.readData := (rfl)
@[simp] theorem setJob_free (s : State) (j : Jobs) : (s.setJob j).free = s.free := (rfl)
@[simp] theorem setJob_pending (s : State) (j : Jobs) : (s.setJob j).pending = s.pending := (rfl)

@[simp] theorem setCtx_sys (s : State) (k : Nat) (x : Ctx) : (s.setCtx k x).sys = s.sys := (rfl)
@[simp] theorem setCtx_tim (s : State) (k : Nat) (x : Ctx) : (s.setCtx k x).tim = s.tim := (rfl)
@[simp] theorem setCtx_b2 (s : State) (k : Nat) (x : Ctx) : (s.setCtx k x).b2 = s.b2 := (rfl)
@[simp] theorem setCtx_b0 (s : State) (k : Nat) (x : Ctx) : (s.setCtx k x).b0 = s.b0 := (rfl)
@[simp] theorem setCtx_bc (s : State) (k : Nat) (x : Ctx) : (s.setCtx k x).bc = s.bc := (rfl)
@[simp] theorem setCtx_hold (s : State) (k : Nat) (x : Ctx) : (s.setCtx k x).hold = s.hold := (rfl)
@[simp] theorem setCtx_adm (s : State) (k : Nat) (x : Ctx) : (s.setCtx k x).adm = s.adm := (rfl)
@[simp] theorem setCtx_hport (s : State) (k : Nat) (x : Ctx) : (s.setCtx k x).hport = s.hport := (rfl)
@[simp] theorem setCtx_intr (s : State) (k : Nat) (x : Ctx) : (s.setCtx k x).intr = s.intr := (rfl)
@[simp] theorem setCtx_flt (s : State) (k : Nat) (x : Ctx) : (s.setCtx k x).flt = s.flt := (rfl)
@[simp] theorem setCtx_vid (s : State) (k : Nat) (x : Ctx) : (s.setCtx k x).vid = s.vid := (rfl)
@[simp] theorem setCtx_grn (s : State) (k : Nat) (x : Ctx) : (s.setCtx k x).grn = s.grn := (rfl)
@[simp] theorem setCtx_dma (s : State) (k : Nat) (x : Ctx) : (s.setCtx k x).dma = s.dma := (rfl)
@[simp] theorem setCtx_ing (s : State) (k : Nat) (x : Ctx) : (s.setCtx k x).ing = s.ing := (rfl)
@[simp] theorem setCtx_egr (s : State) (k : Nat) (x : Ctx) : (s.setCtx k x).egr = s.egr := (rfl)
@[simp] theorem setCtx_drm (s : State) (k : Nat) (x : Ctx) : (s.setCtx k x).drm = s.drm := (rfl)
@[simp] theorem setCtx_yoke (s : State) (k : Nat) (x : Ctx) : (s.setCtx k x).yoke = s.yoke := (rfl)
@[simp] theorem setCtx_baulk (s : State) (k : Nat) (x : Ctx) : (s.setCtx k x).baulk = s.baulk := (rfl)
@[simp] theorem setCtx_pv (s : State) (k : Nat) (x : Ctx) : (s.setCtx k x).pv = s.pv := (rfl)
@[simp] theorem setCtx_out (s : State) (k : Nat) (x : Ctx) : (s.setCtx k x).out = s.out := (rfl)
@[simp] theorem setCtx_readData (s : State) (k : Nat) (x : Ctx) : (s.setCtx k x).readData = s.readData := (rfl)
@[simp] theorem setCtx_free (s : State) (k : Nat) (x : Ctx) : (s.setCtx k x).free = s.free := (rfl)
@[simp] theorem setCtx_pending (s : State) (k : Nat) (x : Ctx) : (s.setCtx k x).pending = s.pending := (rfl)

@[simp] theorem modCtx_sys (s : State) (k : Nat) (f : Ctx → Ctx) : (s.modCtx k f).sys = s.sys := (rfl)
@[simp] theorem modCtx_tim (s : State) (k : Nat) (f : Ctx → Ctx) : (s.modCtx k f).tim = s.tim := (rfl)
@[simp] theorem modCtx_b2 (s : State) (k : Nat) (f : Ctx → Ctx) : (s.modCtx k f).b2 = s.b2 := (rfl)
@[simp] theorem modCtx_b0 (s : State) (k : Nat) (f : Ctx → Ctx) : (s.modCtx k f).b0 = s.b0 := (rfl)
@[simp] theorem modCtx_bc (s : State) (k : Nat) (f : Ctx → Ctx) : (s.modCtx k f).bc = s.bc := (rfl)
@[simp] theorem modCtx_hold (s : State) (k : Nat) (f : Ctx → Ctx) : (s.modCtx k f).hold = s.hold := (rfl)
@[simp] theorem modCtx_adm (s : State) (k : Nat) (f : Ctx → Ctx) : (s.modCtx k f).adm = s.adm := (rfl)
@[simp] theorem modCtx_hport (s : State) (k : Nat) (f : Ctx → Ctx) : (s.modCtx k f).hport = s.hport := (rfl)
@[simp] theorem modCtx_intr (s : State) (k : Nat) (f : Ctx → Ctx) : (s.modCtx k f).intr = s.intr := (rfl)
@[simp] theorem modCtx_flt (s : State) (k : Nat) (f : Ctx → Ctx) : (s.modCtx k f).flt = s.flt := (rfl)
@[simp] theorem modCtx_vid (s : State) (k : Nat) (f : Ctx → Ctx) : (s.modCtx k f).vid = s.vid := (rfl)
@[simp] theorem modCtx_grn (s : State) (k : Nat) (f : Ctx → Ctx) : (s.modCtx k f).grn = s.grn := (rfl)
@[simp] theorem modCtx_dma (s : State) (k : Nat) (f : Ctx → Ctx) : (s.modCtx k f).dma = s.dma := (rfl)
@[simp] theorem modCtx_ing (s : State) (k : Nat) (f : Ctx → Ctx) : (s.modCtx k f).ing = s.ing := (rfl)
@[simp] theorem modCtx_egr (s : State) (k : Nat) (f : Ctx → Ctx) : (s.modCtx k f).egr = s.egr := (rfl)
@[simp] theorem modCtx_drm (s : State) (k : Nat) (f : Ctx → Ctx) : (s.modCtx k f).drm = s.drm := (rfl)
@[simp] theorem modCtx_yoke (s : State) (k : Nat) (f : Ctx → Ctx) : (s.modCtx k f).yoke = s.yoke := (rfl)
@[simp] theorem modCtx_baulk (s : State) (k : Nat) (f : Ctx → Ctx) : (s.modCtx k f).baulk = s.baulk := (rfl)
@[simp] theorem modCtx_pv (s : State) (k : Nat) (f : Ctx → Ctx) : (s.modCtx k f).pv = s.pv := (rfl)
@[simp] theorem modCtx_out (s : State) (k : Nat) (f : Ctx → Ctx) : (s.modCtx k f).out = s.out := (rfl)
@[simp] theorem modCtx_readData (s : State) (k : Nat) (f : Ctx → Ctx) : (s.modCtx k f).readData = s.readData := (rfl)
@[simp] theorem modCtx_free (s : State) (k : Nat) (f : Ctx → Ctx) : (s.modCtx k f).free = s.free := (rfl)
@[simp] theorem modCtx_pending (s : State) (k : Nat) (f : Ctx → Ctx) : (s.modCtx k f).pending = s.pending := (rfl)

@[simp] theorem setYoke_sys (s : State) (y : Yoke) : (s.setYoke y).sys = s.sys := (rfl)
@[simp] theorem setYoke_tim (s : State) (y : Yoke) : (s.setYoke y).tim = s.tim := (rfl)
@[simp] theorem setYoke_b2 (s : State) (y : Yoke) : (s.setYoke y).b2 = s.b2 := (rfl)
@[simp] theorem setYoke_b0 (s : State) (y : Yoke) : (s.setYoke y).b0 = s.b0 := (rfl)
@[simp] theorem setYoke_bc (s : State) (y : Yoke) : (s.setYoke y).bc = s.bc := (rfl)
@[simp] theorem setYoke_hold (s : State) (y : Yoke) : (s.setYoke y).hold = s.hold := (rfl)
@[simp] theorem setYoke_adm (s : State) (y : Yoke) : (s.setYoke y).adm = s.adm := (rfl)
@[simp] theorem setYoke_hport (s : State) (y : Yoke) : (s.setYoke y).hport = s.hport := (rfl)
@[simp] theorem setYoke_intr (s : State) (y : Yoke) : (s.setYoke y).intr = s.intr := (rfl)
@[simp] theorem setYoke_flt (s : State) (y : Yoke) : (s.setYoke y).flt = s.flt := (rfl)
@[simp] theorem setYoke_job (s : State) (y : Yoke) : (s.setYoke y).job = s.job := (rfl)
@[simp] theorem setYoke_vid (s : State) (y : Yoke) : (s.setYoke y).vid = s.vid := (rfl)
@[simp] theorem setYoke_grn (s : State) (y : Yoke) : (s.setYoke y).grn = s.grn := (rfl)
@[simp] theorem setYoke_dma (s : State) (y : Yoke) : (s.setYoke y).dma = s.dma := (rfl)
@[simp] theorem setYoke_ing (s : State) (y : Yoke) : (s.setYoke y).ing = s.ing := (rfl)
@[simp] theorem setYoke_egr (s : State) (y : Yoke) : (s.setYoke y).egr = s.egr := (rfl)
@[simp] theorem setYoke_drm (s : State) (y : Yoke) : (s.setYoke y).drm = s.drm := (rfl)
@[simp] theorem setYoke_baulk (s : State) (y : Yoke) : (s.setYoke y).baulk = s.baulk := (rfl)
@[simp] theorem setYoke_pv (s : State) (y : Yoke) : (s.setYoke y).pv = s.pv := (rfl)
@[simp] theorem setYoke_out (s : State) (y : Yoke) : (s.setYoke y).out = s.out := (rfl)
@[simp] theorem setYoke_readData (s : State) (y : Yoke) : (s.setYoke y).readData = s.readData := (rfl)
@[simp] theorem setYoke_free (s : State) (y : Yoke) : (s.setYoke y).free = s.free := (rfl)
@[simp] theorem setYoke_pending (s : State) (y : Yoke) : (s.setYoke y).pending = s.pending := (rfl)

@[simp] theorem setVid_sys (s : State) (v : Vid) : (s.setVid v).sys = s.sys := (rfl)
@[simp] theorem setVid_tim (s : State) (v : Vid) : (s.setVid v).tim = s.tim := (rfl)
@[simp] theorem setVid_b2 (s : State) (v : Vid) : (s.setVid v).b2 = s.b2 := (rfl)
@[simp] theorem setVid_b0 (s : State) (v : Vid) : (s.setVid v).b0 = s.b0 := (rfl)
@[simp] theorem setVid_bc (s : State) (v : Vid) : (s.setVid v).bc = s.bc := (rfl)
@[simp] theorem setVid_hold (s : State) (v : Vid) : (s.setVid v).hold = s.hold := (rfl)
@[simp] theorem setVid_adm (s : State) (v : Vid) : (s.setVid v).adm = s.adm := (rfl)
@[simp] theorem setVid_hport (s : State) (v : Vid) : (s.setVid v).hport = s.hport := (rfl)
@[simp] theorem setVid_intr (s : State) (v : Vid) : (s.setVid v).intr = s.intr := (rfl)
@[simp] theorem setVid_flt (s : State) (v : Vid) : (s.setVid v).flt = s.flt := (rfl)
@[simp] theorem setVid_job (s : State) (v : Vid) : (s.setVid v).job = s.job := (rfl)
@[simp] theorem setVid_grn (s : State) (v : Vid) : (s.setVid v).grn = s.grn := (rfl)
@[simp] theorem setVid_dma (s : State) (v : Vid) : (s.setVid v).dma = s.dma := (rfl)
@[simp] theorem setVid_ing (s : State) (v : Vid) : (s.setVid v).ing = s.ing := (rfl)
@[simp] theorem setVid_egr (s : State) (v : Vid) : (s.setVid v).egr = s.egr := (rfl)
@[simp] theorem setVid_drm (s : State) (v : Vid) : (s.setVid v).drm = s.drm := (rfl)
@[simp] theorem setVid_yoke (s : State) (v : Vid) : (s.setVid v).yoke = s.yoke := (rfl)
@[simp] theorem setVid_baulk (s : State) (v : Vid) : (s.setVid v).baulk = s.baulk := (rfl)
@[simp] theorem setVid_pv (s : State) (v : Vid) : (s.setVid v).pv = s.pv := (rfl)
@[simp] theorem setVid_out (s : State) (v : Vid) : (s.setVid v).out = s.out := (rfl)
@[simp] theorem setVid_readData (s : State) (v : Vid) : (s.setVid v).readData = s.readData := (rfl)
@[simp] theorem setVid_free (s : State) (v : Vid) : (s.setVid v).free = s.free := (rfl)
@[simp] theorem setVid_pending (s : State) (v : Vid) : (s.setVid v).pending = s.pending := (rfl)

@[simp] theorem setChan_sys (s : State) (c : Nat) (x : Chan) : (s.setChan c x).sys = s.sys := (rfl)
@[simp] theorem setChan_tim (s : State) (c : Nat) (x : Chan) : (s.setChan c x).tim = s.tim := (rfl)
@[simp] theorem setChan_b2 (s : State) (c : Nat) (x : Chan) : (s.setChan c x).b2 = s.b2 := (rfl)
@[simp] theorem setChan_b0 (s : State) (c : Nat) (x : Chan) : (s.setChan c x).b0 = s.b0 := (rfl)
@[simp] theorem setChan_bc (s : State) (c : Nat) (x : Chan) : (s.setChan c x).bc = s.bc := (rfl)
@[simp] theorem setChan_hold (s : State) (c : Nat) (x : Chan) : (s.setChan c x).hold = s.hold := (rfl)
@[simp] theorem setChan_adm (s : State) (c : Nat) (x : Chan) : (s.setChan c x).adm = s.adm := (rfl)
@[simp] theorem setChan_hport (s : State) (c : Nat) (x : Chan) : (s.setChan c x).hport = s.hport := (rfl)
@[simp] theorem setChan_intr (s : State) (c : Nat) (x : Chan) : (s.setChan c x).intr = s.intr := (rfl)
@[simp] theorem setChan_flt (s : State) (c : Nat) (x : Chan) : (s.setChan c x).flt = s.flt := (rfl)
@[simp] theorem setChan_job (s : State) (c : Nat) (x : Chan) : (s.setChan c x).job = s.job := (rfl)
@[simp] theorem setChan_grn (s : State) (c : Nat) (x : Chan) : (s.setChan c x).grn = s.grn := (rfl)
@[simp] theorem setChan_dma (s : State) (c : Nat) (x : Chan) : (s.setChan c x).dma = s.dma := (rfl)
@[simp] theorem setChan_ing (s : State) (c : Nat) (x : Chan) : (s.setChan c x).ing = s.ing := (rfl)
@[simp] theorem setChan_egr (s : State) (c : Nat) (x : Chan) : (s.setChan c x).egr = s.egr := (rfl)
@[simp] theorem setChan_drm (s : State) (c : Nat) (x : Chan) : (s.setChan c x).drm = s.drm := (rfl)
@[simp] theorem setChan_yoke (s : State) (c : Nat) (x : Chan) : (s.setChan c x).yoke = s.yoke := (rfl)
@[simp] theorem setChan_baulk (s : State) (c : Nat) (x : Chan) : (s.setChan c x).baulk = s.baulk := (rfl)
@[simp] theorem setChan_pv (s : State) (c : Nat) (x : Chan) : (s.setChan c x).pv = s.pv := (rfl)
@[simp] theorem setChan_out (s : State) (c : Nat) (x : Chan) : (s.setChan c x).out = s.out := (rfl)
@[simp] theorem setChan_readData (s : State) (c : Nat) (x : Chan) : (s.setChan c x).readData = s.readData := (rfl)
@[simp] theorem setChan_free (s : State) (c : Nat) (x : Chan) : (s.setChan c x).free = s.free := (rfl)
@[simp] theorem setChan_pending (s : State) (c : Nat) (x : Chan) : (s.setChan c x).pending = s.pending := (rfl)

@[simp] theorem modChan_sys (s : State) (c : Nat) (f : Chan → Chan) : (s.modChan c f).sys = s.sys := (rfl)
@[simp] theorem modChan_tim (s : State) (c : Nat) (f : Chan → Chan) : (s.modChan c f).tim = s.tim := (rfl)
@[simp] theorem modChan_b2 (s : State) (c : Nat) (f : Chan → Chan) : (s.modChan c f).b2 = s.b2 := (rfl)
@[simp] theorem modChan_b0 (s : State) (c : Nat) (f : Chan → Chan) : (s.modChan c f).b0 = s.b0 := (rfl)
@[simp] theorem modChan_bc (s : State) (c : Nat) (f : Chan → Chan) : (s.modChan c f).bc = s.bc := (rfl)
@[simp] theorem modChan_hold (s : State) (c : Nat) (f : Chan → Chan) : (s.modChan c f).hold = s.hold := (rfl)
@[simp] theorem modChan_adm (s : State) (c : Nat) (f : Chan → Chan) : (s.modChan c f).adm = s.adm := (rfl)
@[simp] theorem modChan_hport (s : State) (c : Nat) (f : Chan → Chan) : (s.modChan c f).hport = s.hport := (rfl)
@[simp] theorem modChan_intr (s : State) (c : Nat) (f : Chan → Chan) : (s.modChan c f).intr = s.intr := (rfl)
@[simp] theorem modChan_flt (s : State) (c : Nat) (f : Chan → Chan) : (s.modChan c f).flt = s.flt := (rfl)
@[simp] theorem modChan_job (s : State) (c : Nat) (f : Chan → Chan) : (s.modChan c f).job = s.job := (rfl)
@[simp] theorem modChan_grn (s : State) (c : Nat) (f : Chan → Chan) : (s.modChan c f).grn = s.grn := (rfl)
@[simp] theorem modChan_dma (s : State) (c : Nat) (f : Chan → Chan) : (s.modChan c f).dma = s.dma := (rfl)
@[simp] theorem modChan_ing (s : State) (c : Nat) (f : Chan → Chan) : (s.modChan c f).ing = s.ing := (rfl)
@[simp] theorem modChan_egr (s : State) (c : Nat) (f : Chan → Chan) : (s.modChan c f).egr = s.egr := (rfl)
@[simp] theorem modChan_drm (s : State) (c : Nat) (f : Chan → Chan) : (s.modChan c f).drm = s.drm := (rfl)
@[simp] theorem modChan_yoke (s : State) (c : Nat) (f : Chan → Chan) : (s.modChan c f).yoke = s.yoke := (rfl)
@[simp] theorem modChan_baulk (s : State) (c : Nat) (f : Chan → Chan) : (s.modChan c f).baulk = s.baulk := (rfl)
@[simp] theorem modChan_pv (s : State) (c : Nat) (f : Chan → Chan) : (s.modChan c f).pv = s.pv := (rfl)
@[simp] theorem modChan_out (s : State) (c : Nat) (f : Chan → Chan) : (s.modChan c f).out = s.out := (rfl)
@[simp] theorem modChan_readData (s : State) (c : Nat) (f : Chan → Chan) : (s.modChan c f).readData = s.readData := (rfl)
@[simp] theorem modChan_free (s : State) (c : Nat) (f : Chan → Chan) : (s.modChan c f).free = s.free := (rfl)
@[simp] theorem modChan_pending (s : State) (c : Nat) (f : Chan → Chan) : (s.modChan c f).pending = s.pending := (rfl)

@[simp] theorem setBuf_sys (s : State) (n : Nat) (x : Buf) : (s.setBuf n x).sys = s.sys := (rfl)
@[simp] theorem setBuf_tim (s : State) (n : Nat) (x : Buf) : (s.setBuf n x).tim = s.tim := (rfl)
@[simp] theorem setBuf_b2 (s : State) (n : Nat) (x : Buf) : (s.setBuf n x).b2 = s.b2 := (rfl)
@[simp] theorem setBuf_b0 (s : State) (n : Nat) (x : Buf) : (s.setBuf n x).b0 = s.b0 := (rfl)
@[simp] theorem setBuf_bc (s : State) (n : Nat) (x : Buf) : (s.setBuf n x).bc = s.bc := (rfl)
@[simp] theorem setBuf_hold (s : State) (n : Nat) (x : Buf) : (s.setBuf n x).hold = s.hold := (rfl)
@[simp] theorem setBuf_adm (s : State) (n : Nat) (x : Buf) : (s.setBuf n x).adm = s.adm := (rfl)
@[simp] theorem setBuf_hport (s : State) (n : Nat) (x : Buf) : (s.setBuf n x).hport = s.hport := (rfl)
@[simp] theorem setBuf_intr (s : State) (n : Nat) (x : Buf) : (s.setBuf n x).intr = s.intr := (rfl)
@[simp] theorem setBuf_flt (s : State) (n : Nat) (x : Buf) : (s.setBuf n x).flt = s.flt := (rfl)
@[simp] theorem setBuf_job (s : State) (n : Nat) (x : Buf) : (s.setBuf n x).job = s.job := (rfl)
@[simp] theorem setBuf_grn (s : State) (n : Nat) (x : Buf) : (s.setBuf n x).grn = s.grn := (rfl)
@[simp] theorem setBuf_dma (s : State) (n : Nat) (x : Buf) : (s.setBuf n x).dma = s.dma := (rfl)
@[simp] theorem setBuf_ing (s : State) (n : Nat) (x : Buf) : (s.setBuf n x).ing = s.ing := (rfl)
@[simp] theorem setBuf_egr (s : State) (n : Nat) (x : Buf) : (s.setBuf n x).egr = s.egr := (rfl)
@[simp] theorem setBuf_drm (s : State) (n : Nat) (x : Buf) : (s.setBuf n x).drm = s.drm := (rfl)
@[simp] theorem setBuf_yoke (s : State) (n : Nat) (x : Buf) : (s.setBuf n x).yoke = s.yoke := (rfl)
@[simp] theorem setBuf_baulk (s : State) (n : Nat) (x : Buf) : (s.setBuf n x).baulk = s.baulk := (rfl)
@[simp] theorem setBuf_pv (s : State) (n : Nat) (x : Buf) : (s.setBuf n x).pv = s.pv := (rfl)
@[simp] theorem setBuf_out (s : State) (n : Nat) (x : Buf) : (s.setBuf n x).out = s.out := (rfl)
@[simp] theorem setBuf_readData (s : State) (n : Nat) (x : Buf) : (s.setBuf n x).readData = s.readData := (rfl)
@[simp] theorem setBuf_free (s : State) (n : Nat) (x : Buf) : (s.setBuf n x).free = s.free := (rfl)
@[simp] theorem setBuf_pending (s : State) (n : Nat) (x : Buf) : (s.setBuf n x).pending = s.pending := (rfl)

@[simp] theorem modBuf_sys (s : State) (n : Nat) (f : Buf → Buf) : (s.modBuf n f).sys = s.sys := (rfl)
@[simp] theorem modBuf_tim (s : State) (n : Nat) (f : Buf → Buf) : (s.modBuf n f).tim = s.tim := (rfl)
@[simp] theorem modBuf_b2 (s : State) (n : Nat) (f : Buf → Buf) : (s.modBuf n f).b2 = s.b2 := (rfl)
@[simp] theorem modBuf_b0 (s : State) (n : Nat) (f : Buf → Buf) : (s.modBuf n f).b0 = s.b0 := (rfl)
@[simp] theorem modBuf_bc (s : State) (n : Nat) (f : Buf → Buf) : (s.modBuf n f).bc = s.bc := (rfl)
@[simp] theorem modBuf_hold (s : State) (n : Nat) (f : Buf → Buf) : (s.modBuf n f).hold = s.hold := (rfl)
@[simp] theorem modBuf_adm (s : State) (n : Nat) (f : Buf → Buf) : (s.modBuf n f).adm = s.adm := (rfl)
@[simp] theorem modBuf_hport (s : State) (n : Nat) (f : Buf → Buf) : (s.modBuf n f).hport = s.hport := (rfl)
@[simp] theorem modBuf_intr (s : State) (n : Nat) (f : Buf → Buf) : (s.modBuf n f).intr = s.intr := (rfl)
@[simp] theorem modBuf_flt (s : State) (n : Nat) (f : Buf → Buf) : (s.modBuf n f).flt = s.flt := (rfl)
@[simp] theorem modBuf_job (s : State) (n : Nat) (f : Buf → Buf) : (s.modBuf n f).job = s.job := (rfl)
@[simp] theorem modBuf_grn (s : State) (n : Nat) (f : Buf → Buf) : (s.modBuf n f).grn = s.grn := (rfl)
@[simp] theorem modBuf_dma (s : State) (n : Nat) (f : Buf → Buf) : (s.modBuf n f).dma = s.dma := (rfl)
@[simp] theorem modBuf_ing (s : State) (n : Nat) (f : Buf → Buf) : (s.modBuf n f).ing = s.ing := (rfl)
@[simp] theorem modBuf_egr (s : State) (n : Nat) (f : Buf → Buf) : (s.modBuf n f).egr = s.egr := (rfl)
@[simp] theorem modBuf_drm (s : State) (n : Nat) (f : Buf → Buf) : (s.modBuf n f).drm = s.drm := (rfl)
@[simp] theorem modBuf_yoke (s : State) (n : Nat) (f : Buf → Buf) : (s.modBuf n f).yoke = s.yoke := (rfl)
@[simp] theorem modBuf_baulk (s : State) (n : Nat) (f : Buf → Buf) : (s.modBuf n f).baulk = s.baulk := (rfl)
@[simp] theorem modBuf_pv (s : State) (n : Nat) (f : Buf → Buf) : (s.modBuf n f).pv = s.pv := (rfl)
@[simp] theorem modBuf_out (s : State) (n : Nat) (f : Buf → Buf) : (s.modBuf n f).out = s.out := (rfl)
@[simp] theorem modBuf_readData (s : State) (n : Nat) (f : Buf → Buf) : (s.modBuf n f).readData = s.readData := (rfl)
@[simp] theorem modBuf_free (s : State) (n : Nat) (f : Buf → Buf) : (s.modBuf n f).free = s.free := (rfl)
@[simp] theorem modBuf_pending (s : State) (n : Nat) (f : Buf → Buf) : (s.modBuf n f).pending = s.pending := (rfl)

@[simp] theorem setSq_sys (s : State) (k : Nat) (x : Sq) : (s.setSq k x).sys = s.sys := (rfl)
@[simp] theorem setSq_tim (s : State) (k : Nat) (x : Sq) : (s.setSq k x).tim = s.tim := (rfl)
@[simp] theorem setSq_b2 (s : State) (k : Nat) (x : Sq) : (s.setSq k x).b2 = s.b2 := (rfl)
@[simp] theorem setSq_b0 (s : State) (k : Nat) (x : Sq) : (s.setSq k x).b0 = s.b0 := (rfl)
@[simp] theorem setSq_bc (s : State) (k : Nat) (x : Sq) : (s.setSq k x).bc = s.bc := (rfl)
@[simp] theorem setSq_hold (s : State) (k : Nat) (x : Sq) : (s.setSq k x).hold = s.hold := (rfl)
@[simp] theorem setSq_adm (s : State) (k : Nat) (x : Sq) : (s.setSq k x).adm = s.adm := (rfl)
@[simp] theorem setSq_hport (s : State) (k : Nat) (x : Sq) : (s.setSq k x).hport = s.hport := (rfl)
@[simp] theorem setSq_intr (s : State) (k : Nat) (x : Sq) : (s.setSq k x).intr = s.intr := (rfl)
@[simp] theorem setSq_flt (s : State) (k : Nat) (x : Sq) : (s.setSq k x).flt = s.flt := (rfl)
@[simp] theorem setSq_vid (s : State) (k : Nat) (x : Sq) : (s.setSq k x).vid = s.vid := (rfl)
@[simp] theorem setSq_grn (s : State) (k : Nat) (x : Sq) : (s.setSq k x).grn = s.grn := (rfl)
@[simp] theorem setSq_dma (s : State) (k : Nat) (x : Sq) : (s.setSq k x).dma = s.dma := (rfl)
@[simp] theorem setSq_ing (s : State) (k : Nat) (x : Sq) : (s.setSq k x).ing = s.ing := (rfl)
@[simp] theorem setSq_egr (s : State) (k : Nat) (x : Sq) : (s.setSq k x).egr = s.egr := (rfl)
@[simp] theorem setSq_drm (s : State) (k : Nat) (x : Sq) : (s.setSq k x).drm = s.drm := (rfl)
@[simp] theorem setSq_yoke (s : State) (k : Nat) (x : Sq) : (s.setSq k x).yoke = s.yoke := (rfl)
@[simp] theorem setSq_baulk (s : State) (k : Nat) (x : Sq) : (s.setSq k x).baulk = s.baulk := (rfl)
@[simp] theorem setSq_pv (s : State) (k : Nat) (x : Sq) : (s.setSq k x).pv = s.pv := (rfl)
@[simp] theorem setSq_out (s : State) (k : Nat) (x : Sq) : (s.setSq k x).out = s.out := (rfl)
@[simp] theorem setSq_readData (s : State) (k : Nat) (x : Sq) : (s.setSq k x).readData = s.readData := (rfl)
@[simp] theorem setSq_free (s : State) (k : Nat) (x : Sq) : (s.setSq k x).free = s.free := (rfl)
@[simp] theorem setSq_pending (s : State) (k : Nat) (x : Sq) : (s.setSq k x).pending = s.pending := (rfl)

@[simp] theorem setCq_sys (s : State) (k : Nat) (x : Cq) : (s.setCq k x).sys = s.sys := (rfl)
@[simp] theorem setCq_tim (s : State) (k : Nat) (x : Cq) : (s.setCq k x).tim = s.tim := (rfl)
@[simp] theorem setCq_b2 (s : State) (k : Nat) (x : Cq) : (s.setCq k x).b2 = s.b2 := (rfl)
@[simp] theorem setCq_b0 (s : State) (k : Nat) (x : Cq) : (s.setCq k x).b0 = s.b0 := (rfl)
@[simp] theorem setCq_bc (s : State) (k : Nat) (x : Cq) : (s.setCq k x).bc = s.bc := (rfl)
@[simp] theorem setCq_hold (s : State) (k : Nat) (x : Cq) : (s.setCq k x).hold = s.hold := (rfl)
@[simp] theorem setCq_adm (s : State) (k : Nat) (x : Cq) : (s.setCq k x).adm = s.adm := (rfl)
@[simp] theorem setCq_hport (s : State) (k : Nat) (x : Cq) : (s.setCq k x).hport = s.hport := (rfl)
@[simp] theorem setCq_intr (s : State) (k : Nat) (x : Cq) : (s.setCq k x).intr = s.intr := (rfl)
@[simp] theorem setCq_flt (s : State) (k : Nat) (x : Cq) : (s.setCq k x).flt = s.flt := (rfl)
@[simp] theorem setCq_vid (s : State) (k : Nat) (x : Cq) : (s.setCq k x).vid = s.vid := (rfl)
@[simp] theorem setCq_grn (s : State) (k : Nat) (x : Cq) : (s.setCq k x).grn = s.grn := (rfl)
@[simp] theorem setCq_dma (s : State) (k : Nat) (x : Cq) : (s.setCq k x).dma = s.dma := (rfl)
@[simp] theorem setCq_ing (s : State) (k : Nat) (x : Cq) : (s.setCq k x).ing = s.ing := (rfl)
@[simp] theorem setCq_egr (s : State) (k : Nat) (x : Cq) : (s.setCq k x).egr = s.egr := (rfl)
@[simp] theorem setCq_drm (s : State) (k : Nat) (x : Cq) : (s.setCq k x).drm = s.drm := (rfl)
@[simp] theorem setCq_yoke (s : State) (k : Nat) (x : Cq) : (s.setCq k x).yoke = s.yoke := (rfl)
@[simp] theorem setCq_baulk (s : State) (k : Nat) (x : Cq) : (s.setCq k x).baulk = s.baulk := (rfl)
@[simp] theorem setCq_pv (s : State) (k : Nat) (x : Cq) : (s.setCq k x).pv = s.pv := (rfl)
@[simp] theorem setCq_out (s : State) (k : Nat) (x : Cq) : (s.setCq k x).out = s.out := (rfl)
@[simp] theorem setCq_readData (s : State) (k : Nat) (x : Cq) : (s.setCq k x).readData = s.readData := (rfl)
@[simp] theorem setCq_free (s : State) (k : Nat) (x : Cq) : (s.setCq k x).free = s.free := (rfl)
@[simp] theorem setCq_pending (s : State) (k : Nat) (x : Cq) : (s.setCq k x).pending = s.pending := (rfl)

@[simp] theorem setIng_sys (s : State) (x : Ing) : (s.setIng x).sys = s.sys := (rfl)
@[simp] theorem setIng_tim (s : State) (x : Ing) : (s.setIng x).tim = s.tim := (rfl)
@[simp] theorem setIng_b2 (s : State) (x : Ing) : (s.setIng x).b2 = s.b2 := (rfl)
@[simp] theorem setIng_b0 (s : State) (x : Ing) : (s.setIng x).b0 = s.b0 := (rfl)
@[simp] theorem setIng_bc (s : State) (x : Ing) : (s.setIng x).bc = s.bc := (rfl)
@[simp] theorem setIng_hold (s : State) (x : Ing) : (s.setIng x).hold = s.hold := (rfl)
@[simp] theorem setIng_adm (s : State) (x : Ing) : (s.setIng x).adm = s.adm := (rfl)
@[simp] theorem setIng_hport (s : State) (x : Ing) : (s.setIng x).hport = s.hport := (rfl)
@[simp] theorem setIng_intr (s : State) (x : Ing) : (s.setIng x).intr = s.intr := (rfl)
@[simp] theorem setIng_flt (s : State) (x : Ing) : (s.setIng x).flt = s.flt := (rfl)
@[simp] theorem setIng_job (s : State) (x : Ing) : (s.setIng x).job = s.job := (rfl)
@[simp] theorem setIng_vid (s : State) (x : Ing) : (s.setIng x).vid = s.vid := (rfl)
@[simp] theorem setIng_grn (s : State) (x : Ing) : (s.setIng x).grn = s.grn := (rfl)
@[simp] theorem setIng_dma (s : State) (x : Ing) : (s.setIng x).dma = s.dma := (rfl)
@[simp] theorem setIng_egr (s : State) (x : Ing) : (s.setIng x).egr = s.egr := (rfl)
@[simp] theorem setIng_drm (s : State) (x : Ing) : (s.setIng x).drm = s.drm := (rfl)
@[simp] theorem setIng_yoke (s : State) (x : Ing) : (s.setIng x).yoke = s.yoke := (rfl)
@[simp] theorem setIng_baulk (s : State) (x : Ing) : (s.setIng x).baulk = s.baulk := (rfl)
@[simp] theorem setIng_pv (s : State) (x : Ing) : (s.setIng x).pv = s.pv := (rfl)
@[simp] theorem setIng_out (s : State) (x : Ing) : (s.setIng x).out = s.out := (rfl)
@[simp] theorem setIng_readData (s : State) (x : Ing) : (s.setIng x).readData = s.readData := (rfl)
@[simp] theorem setIng_free (s : State) (x : Ing) : (s.setIng x).free = s.free := (rfl)
@[simp] theorem setIng_pending (s : State) (x : Ing) : (s.setIng x).pending = s.pending := (rfl)

@[simp] theorem setEgr_sys (s : State) (x : Egr) : (s.setEgr x).sys = s.sys := (rfl)
@[simp] theorem setEgr_tim (s : State) (x : Egr) : (s.setEgr x).tim = s.tim := (rfl)
@[simp] theorem setEgr_b2 (s : State) (x : Egr) : (s.setEgr x).b2 = s.b2 := (rfl)
@[simp] theorem setEgr_b0 (s : State) (x : Egr) : (s.setEgr x).b0 = s.b0 := (rfl)
@[simp] theorem setEgr_bc (s : State) (x : Egr) : (s.setEgr x).bc = s.bc := (rfl)
@[simp] theorem setEgr_hold (s : State) (x : Egr) : (s.setEgr x).hold = s.hold := (rfl)
@[simp] theorem setEgr_adm (s : State) (x : Egr) : (s.setEgr x).adm = s.adm := (rfl)
@[simp] theorem setEgr_hport (s : State) (x : Egr) : (s.setEgr x).hport = s.hport := (rfl)
@[simp] theorem setEgr_intr (s : State) (x : Egr) : (s.setEgr x).intr = s.intr := (rfl)
@[simp] theorem setEgr_flt (s : State) (x : Egr) : (s.setEgr x).flt = s.flt := (rfl)
@[simp] theorem setEgr_job (s : State) (x : Egr) : (s.setEgr x).job = s.job := (rfl)
@[simp] theorem setEgr_vid (s : State) (x : Egr) : (s.setEgr x).vid = s.vid := (rfl)
@[simp] theorem setEgr_grn (s : State) (x : Egr) : (s.setEgr x).grn = s.grn := (rfl)
@[simp] theorem setEgr_dma (s : State) (x : Egr) : (s.setEgr x).dma = s.dma := (rfl)
@[simp] theorem setEgr_ing (s : State) (x : Egr) : (s.setEgr x).ing = s.ing := (rfl)
@[simp] theorem setEgr_drm (s : State) (x : Egr) : (s.setEgr x).drm = s.drm := (rfl)
@[simp] theorem setEgr_yoke (s : State) (x : Egr) : (s.setEgr x).yoke = s.yoke := (rfl)
@[simp] theorem setEgr_baulk (s : State) (x : Egr) : (s.setEgr x).baulk = s.baulk := (rfl)
@[simp] theorem setEgr_pv (s : State) (x : Egr) : (s.setEgr x).pv = s.pv := (rfl)
@[simp] theorem setEgr_out (s : State) (x : Egr) : (s.setEgr x).out = s.out := (rfl)
@[simp] theorem setEgr_readData (s : State) (x : Egr) : (s.setEgr x).readData = s.readData := (rfl)
@[simp] theorem setEgr_free (s : State) (x : Egr) : (s.setEgr x).free = s.free := (rfl)
@[simp] theorem setEgr_pending (s : State) (x : Egr) : (s.setEgr x).pending = s.pending := (rfl)

@[simp] theorem setFlt_sys (s : State) (x : Flt) : (s.setFlt x).sys = s.sys := (rfl)
@[simp] theorem setFlt_tim (s : State) (x : Flt) : (s.setFlt x).tim = s.tim := (rfl)
@[simp] theorem setFlt_b2 (s : State) (x : Flt) : (s.setFlt x).b2 = s.b2 := (rfl)
@[simp] theorem setFlt_b0 (s : State) (x : Flt) : (s.setFlt x).b0 = s.b0 := (rfl)
@[simp] theorem setFlt_bc (s : State) (x : Flt) : (s.setFlt x).bc = s.bc := (rfl)
@[simp] theorem setFlt_hold (s : State) (x : Flt) : (s.setFlt x).hold = s.hold := (rfl)
@[simp] theorem setFlt_adm (s : State) (x : Flt) : (s.setFlt x).adm = s.adm := (rfl)
@[simp] theorem setFlt_hport (s : State) (x : Flt) : (s.setFlt x).hport = s.hport := (rfl)
@[simp] theorem setFlt_intr (s : State) (x : Flt) : (s.setFlt x).intr = s.intr := (rfl)
@[simp] theorem setFlt_job (s : State) (x : Flt) : (s.setFlt x).job = s.job := (rfl)
@[simp] theorem setFlt_vid (s : State) (x : Flt) : (s.setFlt x).vid = s.vid := (rfl)
@[simp] theorem setFlt_grn (s : State) (x : Flt) : (s.setFlt x).grn = s.grn := (rfl)
@[simp] theorem setFlt_dma (s : State) (x : Flt) : (s.setFlt x).dma = s.dma := (rfl)
@[simp] theorem setFlt_ing (s : State) (x : Flt) : (s.setFlt x).ing = s.ing := (rfl)
@[simp] theorem setFlt_egr (s : State) (x : Flt) : (s.setFlt x).egr = s.egr := (rfl)
@[simp] theorem setFlt_drm (s : State) (x : Flt) : (s.setFlt x).drm = s.drm := (rfl)
@[simp] theorem setFlt_yoke (s : State) (x : Flt) : (s.setFlt x).yoke = s.yoke := (rfl)
@[simp] theorem setFlt_baulk (s : State) (x : Flt) : (s.setFlt x).baulk = s.baulk := (rfl)
@[simp] theorem setFlt_pv (s : State) (x : Flt) : (s.setFlt x).pv = s.pv := (rfl)
@[simp] theorem setFlt_out (s : State) (x : Flt) : (s.setFlt x).out = s.out := (rfl)
@[simp] theorem setFlt_readData (s : State) (x : Flt) : (s.setFlt x).readData = s.readData := (rfl)
@[simp] theorem setFlt_free (s : State) (x : Flt) : (s.setFlt x).free = s.free := (rfl)
@[simp] theorem setFlt_pending (s : State) (x : Flt) : (s.setFlt x).pending = s.pending := (rfl)

@[simp] theorem setPvq_sys (s : State) (h : Nat) (x : Pv) : (s.setPvq h x).sys = s.sys := (rfl)
@[simp] theorem setPvq_tim (s : State) (h : Nat) (x : Pv) : (s.setPvq h x).tim = s.tim := (rfl)
@[simp] theorem setPvq_b2 (s : State) (h : Nat) (x : Pv) : (s.setPvq h x).b2 = s.b2 := (rfl)
@[simp] theorem setPvq_b0 (s : State) (h : Nat) (x : Pv) : (s.setPvq h x).b0 = s.b0 := (rfl)
@[simp] theorem setPvq_bc (s : State) (h : Nat) (x : Pv) : (s.setPvq h x).bc = s.bc := (rfl)
@[simp] theorem setPvq_hold (s : State) (h : Nat) (x : Pv) : (s.setPvq h x).hold = s.hold := (rfl)
@[simp] theorem setPvq_adm (s : State) (h : Nat) (x : Pv) : (s.setPvq h x).adm = s.adm := (rfl)
@[simp] theorem setPvq_hport (s : State) (h : Nat) (x : Pv) : (s.setPvq h x).hport = s.hport := (rfl)
@[simp] theorem setPvq_intr (s : State) (h : Nat) (x : Pv) : (s.setPvq h x).intr = s.intr := (rfl)
@[simp] theorem setPvq_flt (s : State) (h : Nat) (x : Pv) : (s.setPvq h x).flt = s.flt := (rfl)
@[simp] theorem setPvq_job (s : State) (h : Nat) (x : Pv) : (s.setPvq h x).job = s.job := (rfl)
@[simp] theorem setPvq_vid (s : State) (h : Nat) (x : Pv) : (s.setPvq h x).vid = s.vid := (rfl)
@[simp] theorem setPvq_grn (s : State) (h : Nat) (x : Pv) : (s.setPvq h x).grn = s.grn := (rfl)
@[simp] theorem setPvq_dma (s : State) (h : Nat) (x : Pv) : (s.setPvq h x).dma = s.dma := (rfl)
@[simp] theorem setPvq_ing (s : State) (h : Nat) (x : Pv) : (s.setPvq h x).ing = s.ing := (rfl)
@[simp] theorem setPvq_egr (s : State) (h : Nat) (x : Pv) : (s.setPvq h x).egr = s.egr := (rfl)
@[simp] theorem setPvq_drm (s : State) (h : Nat) (x : Pv) : (s.setPvq h x).drm = s.drm := (rfl)
@[simp] theorem setPvq_yoke (s : State) (h : Nat) (x : Pv) : (s.setPvq h x).yoke = s.yoke := (rfl)
@[simp] theorem setPvq_baulk (s : State) (h : Nat) (x : Pv) : (s.setPvq h x).baulk = s.baulk := (rfl)
@[simp] theorem setPvq_out (s : State) (h : Nat) (x : Pv) : (s.setPvq h x).out = s.out := (rfl)
@[simp] theorem setPvq_readData (s : State) (h : Nat) (x : Pv) : (s.setPvq h x).readData = s.readData := (rfl)
@[simp] theorem setPvq_free (s : State) (h : Nat) (x : Pv) : (s.setPvq h x).free = s.free := (rfl)
@[simp] theorem setPvq_pending (s : State) (h : Nat) (x : Pv) : (s.setPvq h x).pending = s.pending := (rfl)

@[simp] theorem setBk_sys (s : State) (b : Baulk) : (s.setBk b).sys = s.sys := (rfl)
@[simp] theorem setBk_tim (s : State) (b : Baulk) : (s.setBk b).tim = s.tim := (rfl)
@[simp] theorem setBk_b2 (s : State) (b : Baulk) : (s.setBk b).b2 = s.b2 := (rfl)
@[simp] theorem setBk_b0 (s : State) (b : Baulk) : (s.setBk b).b0 = s.b0 := (rfl)
@[simp] theorem setBk_bc (s : State) (b : Baulk) : (s.setBk b).bc = s.bc := (rfl)
@[simp] theorem setBk_hold (s : State) (b : Baulk) : (s.setBk b).hold = s.hold := (rfl)
@[simp] theorem setBk_adm (s : State) (b : Baulk) : (s.setBk b).adm = s.adm := (rfl)
@[simp] theorem setBk_hport (s : State) (b : Baulk) : (s.setBk b).hport = s.hport := (rfl)
@[simp] theorem setBk_intr (s : State) (b : Baulk) : (s.setBk b).intr = s.intr := (rfl)
@[simp] theorem setBk_flt (s : State) (b : Baulk) : (s.setBk b).flt = s.flt := (rfl)
@[simp] theorem setBk_job (s : State) (b : Baulk) : (s.setBk b).job = s.job := (rfl)
@[simp] theorem setBk_vid (s : State) (b : Baulk) : (s.setBk b).vid = s.vid := (rfl)
@[simp] theorem setBk_grn (s : State) (b : Baulk) : (s.setBk b).grn = s.grn := (rfl)
@[simp] theorem setBk_dma (s : State) (b : Baulk) : (s.setBk b).dma = s.dma := (rfl)
@[simp] theorem setBk_ing (s : State) (b : Baulk) : (s.setBk b).ing = s.ing := (rfl)
@[simp] theorem setBk_egr (s : State) (b : Baulk) : (s.setBk b).egr = s.egr := (rfl)
@[simp] theorem setBk_drm (s : State) (b : Baulk) : (s.setBk b).drm = s.drm := (rfl)
@[simp] theorem setBk_yoke (s : State) (b : Baulk) : (s.setBk b).yoke = s.yoke := (rfl)
@[simp] theorem setBk_pv (s : State) (b : Baulk) : (s.setBk b).pv = s.pv := (rfl)
@[simp] theorem setBk_out (s : State) (b : Baulk) : (s.setBk b).out = s.out := (rfl)
@[simp] theorem setBk_readData (s : State) (b : Baulk) : (s.setBk b).readData = s.readData := (rfl)
@[simp] theorem setBk_free (s : State) (b : Baulk) : (s.setBk b).free = s.free := (rfl)
@[simp] theorem setBk_pending (s : State) (b : Baulk) : (s.setBk b).pending = s.pending := (rfl)

@[simp] theorem modBp_sys (s : State) (p : Nat) (f : BPort → BPort) : (s.modBp p f).sys = s.sys := (rfl)
@[simp] theorem modBp_tim (s : State) (p : Nat) (f : BPort → BPort) : (s.modBp p f).tim = s.tim := (rfl)
@[simp] theorem modBp_b2 (s : State) (p : Nat) (f : BPort → BPort) : (s.modBp p f).b2 = s.b2 := (rfl)
@[simp] theorem modBp_b0 (s : State) (p : Nat) (f : BPort → BPort) : (s.modBp p f).b0 = s.b0 := (rfl)
@[simp] theorem modBp_bc (s : State) (p : Nat) (f : BPort → BPort) : (s.modBp p f).bc = s.bc := (rfl)
@[simp] theorem modBp_hold (s : State) (p : Nat) (f : BPort → BPort) : (s.modBp p f).hold = s.hold := (rfl)
@[simp] theorem modBp_adm (s : State) (p : Nat) (f : BPort → BPort) : (s.modBp p f).adm = s.adm := (rfl)
@[simp] theorem modBp_hport (s : State) (p : Nat) (f : BPort → BPort) : (s.modBp p f).hport = s.hport := (rfl)
@[simp] theorem modBp_intr (s : State) (p : Nat) (f : BPort → BPort) : (s.modBp p f).intr = s.intr := (rfl)
@[simp] theorem modBp_flt (s : State) (p : Nat) (f : BPort → BPort) : (s.modBp p f).flt = s.flt := (rfl)
@[simp] theorem modBp_job (s : State) (p : Nat) (f : BPort → BPort) : (s.modBp p f).job = s.job := (rfl)
@[simp] theorem modBp_vid (s : State) (p : Nat) (f : BPort → BPort) : (s.modBp p f).vid = s.vid := (rfl)
@[simp] theorem modBp_grn (s : State) (p : Nat) (f : BPort → BPort) : (s.modBp p f).grn = s.grn := (rfl)
@[simp] theorem modBp_dma (s : State) (p : Nat) (f : BPort → BPort) : (s.modBp p f).dma = s.dma := (rfl)
@[simp] theorem modBp_ing (s : State) (p : Nat) (f : BPort → BPort) : (s.modBp p f).ing = s.ing := (rfl)
@[simp] theorem modBp_egr (s : State) (p : Nat) (f : BPort → BPort) : (s.modBp p f).egr = s.egr := (rfl)
@[simp] theorem modBp_drm (s : State) (p : Nat) (f : BPort → BPort) : (s.modBp p f).drm = s.drm := (rfl)
@[simp] theorem modBp_yoke (s : State) (p : Nat) (f : BPort → BPort) : (s.modBp p f).yoke = s.yoke := (rfl)
@[simp] theorem modBp_pv (s : State) (p : Nat) (f : BPort → BPort) : (s.modBp p f).pv = s.pv := (rfl)
@[simp] theorem modBp_out (s : State) (p : Nat) (f : BPort → BPort) : (s.modBp p f).out = s.out := (rfl)
@[simp] theorem modBp_readData (s : State) (p : Nat) (f : BPort → BPort) : (s.modBp p f).readData = s.readData := (rfl)
@[simp] theorem modBp_free (s : State) (p : Nat) (f : BPort → BPort) : (s.modBp p f).free = s.free := (rfl)
@[simp] theorem modBp_pending (s : State) (p : Nat) (f : BPort → BPort) : (s.modBp p f).pending = s.pending := (rfl)

@[simp] theorem setSem_sys (s : State) (j : Nat) (m : Sem) : (s.setSem j m).sys = s.sys := (rfl)
@[simp] theorem setSem_tim (s : State) (j : Nat) (m : Sem) : (s.setSem j m).tim = s.tim := (rfl)
@[simp] theorem setSem_b2 (s : State) (j : Nat) (m : Sem) : (s.setSem j m).b2 = s.b2 := (rfl)
@[simp] theorem setSem_b0 (s : State) (j : Nat) (m : Sem) : (s.setSem j m).b0 = s.b0 := (rfl)
@[simp] theorem setSem_bc (s : State) (j : Nat) (m : Sem) : (s.setSem j m).bc = s.bc := (rfl)
@[simp] theorem setSem_hold (s : State) (j : Nat) (m : Sem) : (s.setSem j m).hold = s.hold := (rfl)
@[simp] theorem setSem_adm (s : State) (j : Nat) (m : Sem) : (s.setSem j m).adm = s.adm := (rfl)
@[simp] theorem setSem_hport (s : State) (j : Nat) (m : Sem) : (s.setSem j m).hport = s.hport := (rfl)
@[simp] theorem setSem_intr (s : State) (j : Nat) (m : Sem) : (s.setSem j m).intr = s.intr := (rfl)
@[simp] theorem setSem_flt (s : State) (j : Nat) (m : Sem) : (s.setSem j m).flt = s.flt := (rfl)
@[simp] theorem setSem_vid (s : State) (j : Nat) (m : Sem) : (s.setSem j m).vid = s.vid := (rfl)
@[simp] theorem setSem_grn (s : State) (j : Nat) (m : Sem) : (s.setSem j m).grn = s.grn := (rfl)
@[simp] theorem setSem_dma (s : State) (j : Nat) (m : Sem) : (s.setSem j m).dma = s.dma := (rfl)
@[simp] theorem setSem_ing (s : State) (j : Nat) (m : Sem) : (s.setSem j m).ing = s.ing := (rfl)
@[simp] theorem setSem_egr (s : State) (j : Nat) (m : Sem) : (s.setSem j m).egr = s.egr := (rfl)
@[simp] theorem setSem_drm (s : State) (j : Nat) (m : Sem) : (s.setSem j m).drm = s.drm := (rfl)
@[simp] theorem setSem_yoke (s : State) (j : Nat) (m : Sem) : (s.setSem j m).yoke = s.yoke := (rfl)
@[simp] theorem setSem_baulk (s : State) (j : Nat) (m : Sem) : (s.setSem j m).baulk = s.baulk := (rfl)
@[simp] theorem setSem_pv (s : State) (j : Nat) (m : Sem) : (s.setSem j m).pv = s.pv := (rfl)
@[simp] theorem setSem_out (s : State) (j : Nat) (m : Sem) : (s.setSem j m).out = s.out := (rfl)
@[simp] theorem setSem_readData (s : State) (j : Nat) (m : Sem) : (s.setSem j m).readData = s.readData := (rfl)
@[simp] theorem setSem_free (s : State) (j : Nat) (m : Sem) : (s.setSem j m).free = s.free := (rfl)
@[simp] theorem setSem_pending (s : State) (j : Nat) (m : Sem) : (s.setSem j m).pending = s.pending := (rfl)

@[simp] theorem setBar_sys (s : State) (j : Nat) (b : Bar) : (s.setBar j b).sys = s.sys := (rfl)
@[simp] theorem setBar_tim (s : State) (j : Nat) (b : Bar) : (s.setBar j b).tim = s.tim := (rfl)
@[simp] theorem setBar_b2 (s : State) (j : Nat) (b : Bar) : (s.setBar j b).b2 = s.b2 := (rfl)
@[simp] theorem setBar_b0 (s : State) (j : Nat) (b : Bar) : (s.setBar j b).b0 = s.b0 := (rfl)
@[simp] theorem setBar_bc (s : State) (j : Nat) (b : Bar) : (s.setBar j b).bc = s.bc := (rfl)
@[simp] theorem setBar_hold (s : State) (j : Nat) (b : Bar) : (s.setBar j b).hold = s.hold := (rfl)
@[simp] theorem setBar_adm (s : State) (j : Nat) (b : Bar) : (s.setBar j b).adm = s.adm := (rfl)
@[simp] theorem setBar_hport (s : State) (j : Nat) (b : Bar) : (s.setBar j b).hport = s.hport := (rfl)
@[simp] theorem setBar_intr (s : State) (j : Nat) (b : Bar) : (s.setBar j b).intr = s.intr := (rfl)
@[simp] theorem setBar_flt (s : State) (j : Nat) (b : Bar) : (s.setBar j b).flt = s.flt := (rfl)
@[simp] theorem setBar_vid (s : State) (j : Nat) (b : Bar) : (s.setBar j b).vid = s.vid := (rfl)
@[simp] theorem setBar_grn (s : State) (j : Nat) (b : Bar) : (s.setBar j b).grn = s.grn := (rfl)
@[simp] theorem setBar_dma (s : State) (j : Nat) (b : Bar) : (s.setBar j b).dma = s.dma := (rfl)
@[simp] theorem setBar_ing (s : State) (j : Nat) (b : Bar) : (s.setBar j b).ing = s.ing := (rfl)
@[simp] theorem setBar_egr (s : State) (j : Nat) (b : Bar) : (s.setBar j b).egr = s.egr := (rfl)
@[simp] theorem setBar_drm (s : State) (j : Nat) (b : Bar) : (s.setBar j b).drm = s.drm := (rfl)
@[simp] theorem setBar_yoke (s : State) (j : Nat) (b : Bar) : (s.setBar j b).yoke = s.yoke := (rfl)
@[simp] theorem setBar_baulk (s : State) (j : Nat) (b : Bar) : (s.setBar j b).baulk = s.baulk := (rfl)
@[simp] theorem setBar_pv (s : State) (j : Nat) (b : Bar) : (s.setBar j b).pv = s.pv := (rfl)
@[simp] theorem setBar_out (s : State) (j : Nat) (b : Bar) : (s.setBar j b).out = s.out := (rfl)
@[simp] theorem setBar_readData (s : State) (j : Nat) (b : Bar) : (s.setBar j b).readData = s.readData := (rfl)
@[simp] theorem setBar_free (s : State) (j : Nat) (b : Bar) : (s.setBar j b).free = s.free := (rfl)
@[simp] theorem setBar_pending (s : State) (j : Nat) (b : Bar) : (s.setBar j b).pending = s.pending := (rfl)

@[simp] theorem setGrp_sys (s : State) (g : Nat) (x : Grp) : (s.setGrp g x).sys = s.sys := (rfl)
@[simp] theorem setGrp_tim (s : State) (g : Nat) (x : Grp) : (s.setGrp g x).tim = s.tim := (rfl)
@[simp] theorem setGrp_b2 (s : State) (g : Nat) (x : Grp) : (s.setGrp g x).b2 = s.b2 := (rfl)
@[simp] theorem setGrp_b0 (s : State) (g : Nat) (x : Grp) : (s.setGrp g x).b0 = s.b0 := (rfl)
@[simp] theorem setGrp_bc (s : State) (g : Nat) (x : Grp) : (s.setGrp g x).bc = s.bc := (rfl)
@[simp] theorem setGrp_hold (s : State) (g : Nat) (x : Grp) : (s.setGrp g x).hold = s.hold := (rfl)
@[simp] theorem setGrp_adm (s : State) (g : Nat) (x : Grp) : (s.setGrp g x).adm = s.adm := (rfl)
@[simp] theorem setGrp_hport (s : State) (g : Nat) (x : Grp) : (s.setGrp g x).hport = s.hport := (rfl)
@[simp] theorem setGrp_intr (s : State) (g : Nat) (x : Grp) : (s.setGrp g x).intr = s.intr := (rfl)
@[simp] theorem setGrp_flt (s : State) (g : Nat) (x : Grp) : (s.setGrp g x).flt = s.flt := (rfl)
@[simp] theorem setGrp_job (s : State) (g : Nat) (x : Grp) : (s.setGrp g x).job = s.job := (rfl)
@[simp] theorem setGrp_grn (s : State) (g : Nat) (x : Grp) : (s.setGrp g x).grn = s.grn := (rfl)
@[simp] theorem setGrp_dma (s : State) (g : Nat) (x : Grp) : (s.setGrp g x).dma = s.dma := (rfl)
@[simp] theorem setGrp_ing (s : State) (g : Nat) (x : Grp) : (s.setGrp g x).ing = s.ing := (rfl)
@[simp] theorem setGrp_egr (s : State) (g : Nat) (x : Grp) : (s.setGrp g x).egr = s.egr := (rfl)
@[simp] theorem setGrp_drm (s : State) (g : Nat) (x : Grp) : (s.setGrp g x).drm = s.drm := (rfl)
@[simp] theorem setGrp_yoke (s : State) (g : Nat) (x : Grp) : (s.setGrp g x).yoke = s.yoke := (rfl)
@[simp] theorem setGrp_baulk (s : State) (g : Nat) (x : Grp) : (s.setGrp g x).baulk = s.baulk := (rfl)
@[simp] theorem setGrp_pv (s : State) (g : Nat) (x : Grp) : (s.setGrp g x).pv = s.pv := (rfl)
@[simp] theorem setGrp_out (s : State) (g : Nat) (x : Grp) : (s.setGrp g x).out = s.out := (rfl)
@[simp] theorem setGrp_readData (s : State) (g : Nat) (x : Grp) : (s.setGrp g x).readData = s.readData := (rfl)
@[simp] theorem setGrp_free (s : State) (g : Nat) (x : Grp) : (s.setGrp g x).free = s.free := (rfl)
@[simp] theorem setGrp_pending (s : State) (g : Nat) (x : Grp) : (s.setGrp g x).pending = s.pending := (rfl)

@[simp] theorem setMux_sys (s : State) (m : Nat) (x : Mux) : (s.setMux m x).sys = s.sys := (rfl)
@[simp] theorem setMux_tim (s : State) (m : Nat) (x : Mux) : (s.setMux m x).tim = s.tim := (rfl)
@[simp] theorem setMux_b2 (s : State) (m : Nat) (x : Mux) : (s.setMux m x).b2 = s.b2 := (rfl)
@[simp] theorem setMux_b0 (s : State) (m : Nat) (x : Mux) : (s.setMux m x).b0 = s.b0 := (rfl)
@[simp] theorem setMux_bc (s : State) (m : Nat) (x : Mux) : (s.setMux m x).bc = s.bc := (rfl)
@[simp] theorem setMux_hold (s : State) (m : Nat) (x : Mux) : (s.setMux m x).hold = s.hold := (rfl)
@[simp] theorem setMux_adm (s : State) (m : Nat) (x : Mux) : (s.setMux m x).adm = s.adm := (rfl)
@[simp] theorem setMux_hport (s : State) (m : Nat) (x : Mux) : (s.setMux m x).hport = s.hport := (rfl)
@[simp] theorem setMux_intr (s : State) (m : Nat) (x : Mux) : (s.setMux m x).intr = s.intr := (rfl)
@[simp] theorem setMux_flt (s : State) (m : Nat) (x : Mux) : (s.setMux m x).flt = s.flt := (rfl)
@[simp] theorem setMux_job (s : State) (m : Nat) (x : Mux) : (s.setMux m x).job = s.job := (rfl)
@[simp] theorem setMux_grn (s : State) (m : Nat) (x : Mux) : (s.setMux m x).grn = s.grn := (rfl)
@[simp] theorem setMux_dma (s : State) (m : Nat) (x : Mux) : (s.setMux m x).dma = s.dma := (rfl)
@[simp] theorem setMux_ing (s : State) (m : Nat) (x : Mux) : (s.setMux m x).ing = s.ing := (rfl)
@[simp] theorem setMux_egr (s : State) (m : Nat) (x : Mux) : (s.setMux m x).egr = s.egr := (rfl)
@[simp] theorem setMux_drm (s : State) (m : Nat) (x : Mux) : (s.setMux m x).drm = s.drm := (rfl)
@[simp] theorem setMux_yoke (s : State) (m : Nat) (x : Mux) : (s.setMux m x).yoke = s.yoke := (rfl)
@[simp] theorem setMux_baulk (s : State) (m : Nat) (x : Mux) : (s.setMux m x).baulk = s.baulk := (rfl)
@[simp] theorem setMux_pv (s : State) (m : Nat) (x : Mux) : (s.setMux m x).pv = s.pv := (rfl)
@[simp] theorem setMux_out (s : State) (m : Nat) (x : Mux) : (s.setMux m x).out = s.out := (rfl)
@[simp] theorem setMux_readData (s : State) (m : Nat) (x : Mux) : (s.setMux m x).readData = s.readData := (rfl)
@[simp] theorem setMux_free (s : State) (m : Nat) (x : Mux) : (s.setMux m x).free = s.free := (rfl)
@[simp] theorem setMux_pending (s : State) (m : Nat) (x : Mux) : (s.setMux m x).pending = s.pending := (rfl)

@[simp] theorem setRing_sys (s : State) (r : Nat) (x : DRing) : (s.setRing r x).sys = s.sys := (rfl)
@[simp] theorem setRing_tim (s : State) (r : Nat) (x : DRing) : (s.setRing r x).tim = s.tim := (rfl)
@[simp] theorem setRing_b2 (s : State) (r : Nat) (x : DRing) : (s.setRing r x).b2 = s.b2 := (rfl)
@[simp] theorem setRing_b0 (s : State) (r : Nat) (x : DRing) : (s.setRing r x).b0 = s.b0 := (rfl)
@[simp] theorem setRing_bc (s : State) (r : Nat) (x : DRing) : (s.setRing r x).bc = s.bc := (rfl)
@[simp] theorem setRing_hold (s : State) (r : Nat) (x : DRing) : (s.setRing r x).hold = s.hold := (rfl)
@[simp] theorem setRing_adm (s : State) (r : Nat) (x : DRing) : (s.setRing r x).adm = s.adm := (rfl)
@[simp] theorem setRing_hport (s : State) (r : Nat) (x : DRing) : (s.setRing r x).hport = s.hport := (rfl)
@[simp] theorem setRing_intr (s : State) (r : Nat) (x : DRing) : (s.setRing r x).intr = s.intr := (rfl)
@[simp] theorem setRing_flt (s : State) (r : Nat) (x : DRing) : (s.setRing r x).flt = s.flt := (rfl)
@[simp] theorem setRing_job (s : State) (r : Nat) (x : DRing) : (s.setRing r x).job = s.job := (rfl)
@[simp] theorem setRing_vid (s : State) (r : Nat) (x : DRing) : (s.setRing r x).vid = s.vid := (rfl)
@[simp] theorem setRing_grn (s : State) (r : Nat) (x : DRing) : (s.setRing r x).grn = s.grn := (rfl)
@[simp] theorem setRing_ing (s : State) (r : Nat) (x : DRing) : (s.setRing r x).ing = s.ing := (rfl)
@[simp] theorem setRing_egr (s : State) (r : Nat) (x : DRing) : (s.setRing r x).egr = s.egr := (rfl)
@[simp] theorem setRing_drm (s : State) (r : Nat) (x : DRing) : (s.setRing r x).drm = s.drm := (rfl)
@[simp] theorem setRing_yoke (s : State) (r : Nat) (x : DRing) : (s.setRing r x).yoke = s.yoke := (rfl)
@[simp] theorem setRing_baulk (s : State) (r : Nat) (x : DRing) : (s.setRing r x).baulk = s.baulk := (rfl)
@[simp] theorem setRing_pv (s : State) (r : Nat) (x : DRing) : (s.setRing r x).pv = s.pv := (rfl)
@[simp] theorem setRing_out (s : State) (r : Nat) (x : DRing) : (s.setRing r x).out = s.out := (rfl)
@[simp] theorem setRing_readData (s : State) (r : Nat) (x : DRing) : (s.setRing r x).readData = s.readData := (rfl)
@[simp] theorem setRing_free (s : State) (r : Nat) (x : DRing) : (s.setRing r x).free = s.free := (rfl)
@[simp] theorem setRing_pending (s : State) (r : Nat) (x : DRing) : (s.setRing r x).pending = s.pending := (rfl)

@[simp] theorem setFlow_sys (s : State) (t : Nat) (x : Flow) : (s.setFlow t x).sys = s.sys := (rfl)
@[simp] theorem setFlow_tim (s : State) (t : Nat) (x : Flow) : (s.setFlow t x).tim = s.tim := (rfl)
@[simp] theorem setFlow_b2 (s : State) (t : Nat) (x : Flow) : (s.setFlow t x).b2 = s.b2 := (rfl)
@[simp] theorem setFlow_b0 (s : State) (t : Nat) (x : Flow) : (s.setFlow t x).b0 = s.b0 := (rfl)
@[simp] theorem setFlow_bc (s : State) (t : Nat) (x : Flow) : (s.setFlow t x).bc = s.bc := (rfl)
@[simp] theorem setFlow_hold (s : State) (t : Nat) (x : Flow) : (s.setFlow t x).hold = s.hold := (rfl)
@[simp] theorem setFlow_adm (s : State) (t : Nat) (x : Flow) : (s.setFlow t x).adm = s.adm := (rfl)
@[simp] theorem setFlow_hport (s : State) (t : Nat) (x : Flow) : (s.setFlow t x).hport = s.hport := (rfl)
@[simp] theorem setFlow_intr (s : State) (t : Nat) (x : Flow) : (s.setFlow t x).intr = s.intr := (rfl)
@[simp] theorem setFlow_flt (s : State) (t : Nat) (x : Flow) : (s.setFlow t x).flt = s.flt := (rfl)
@[simp] theorem setFlow_job (s : State) (t : Nat) (x : Flow) : (s.setFlow t x).job = s.job := (rfl)
@[simp] theorem setFlow_vid (s : State) (t : Nat) (x : Flow) : (s.setFlow t x).vid = s.vid := (rfl)
@[simp] theorem setFlow_grn (s : State) (t : Nat) (x : Flow) : (s.setFlow t x).grn = s.grn := (rfl)
@[simp] theorem setFlow_dma (s : State) (t : Nat) (x : Flow) : (s.setFlow t x).dma = s.dma := (rfl)
@[simp] theorem setFlow_egr (s : State) (t : Nat) (x : Flow) : (s.setFlow t x).egr = s.egr := (rfl)
@[simp] theorem setFlow_drm (s : State) (t : Nat) (x : Flow) : (s.setFlow t x).drm = s.drm := (rfl)
@[simp] theorem setFlow_yoke (s : State) (t : Nat) (x : Flow) : (s.setFlow t x).yoke = s.yoke := (rfl)
@[simp] theorem setFlow_baulk (s : State) (t : Nat) (x : Flow) : (s.setFlow t x).baulk = s.baulk := (rfl)
@[simp] theorem setFlow_pv (s : State) (t : Nat) (x : Flow) : (s.setFlow t x).pv = s.pv := (rfl)
@[simp] theorem setFlow_out (s : State) (t : Nat) (x : Flow) : (s.setFlow t x).out = s.out := (rfl)
@[simp] theorem setFlow_readData (s : State) (t : Nat) (x : Flow) : (s.setFlow t x).readData = s.readData := (rfl)
@[simp] theorem setFlow_free (s : State) (t : Nat) (x : Flow) : (s.setFlow t x).free = s.free := (rfl)
@[simp] theorem setFlow_pending (s : State) (t : Nat) (x : Flow) : (s.setFlow t x).pending = s.pending := (rfl)

@[simp] theorem setNport_sys (s : State) (p : Nat) (x : NPort) : (s.setNport p x).sys = s.sys := (rfl)
@[simp] theorem setNport_tim (s : State) (p : Nat) (x : NPort) : (s.setNport p x).tim = s.tim := (rfl)
@[simp] theorem setNport_b2 (s : State) (p : Nat) (x : NPort) : (s.setNport p x).b2 = s.b2 := (rfl)
@[simp] theorem setNport_b0 (s : State) (p : Nat) (x : NPort) : (s.setNport p x).b0 = s.b0 := (rfl)
@[simp] theorem setNport_bc (s : State) (p : Nat) (x : NPort) : (s.setNport p x).bc = s.bc := (rfl)
@[simp] theorem setNport_hold (s : State) (p : Nat) (x : NPort) : (s.setNport p x).hold = s.hold := (rfl)
@[simp] theorem setNport_adm (s : State) (p : Nat) (x : NPort) : (s.setNport p x).adm = s.adm := (rfl)
@[simp] theorem setNport_hport (s : State) (p : Nat) (x : NPort) : (s.setNport p x).hport = s.hport := (rfl)
@[simp] theorem setNport_intr (s : State) (p : Nat) (x : NPort) : (s.setNport p x).intr = s.intr := (rfl)
@[simp] theorem setNport_flt (s : State) (p : Nat) (x : NPort) : (s.setNport p x).flt = s.flt := (rfl)
@[simp] theorem setNport_job (s : State) (p : Nat) (x : NPort) : (s.setNport p x).job = s.job := (rfl)
@[simp] theorem setNport_vid (s : State) (p : Nat) (x : NPort) : (s.setNport p x).vid = s.vid := (rfl)
@[simp] theorem setNport_grn (s : State) (p : Nat) (x : NPort) : (s.setNport p x).grn = s.grn := (rfl)
@[simp] theorem setNport_dma (s : State) (p : Nat) (x : NPort) : (s.setNport p x).dma = s.dma := (rfl)
@[simp] theorem setNport_egr (s : State) (p : Nat) (x : NPort) : (s.setNport p x).egr = s.egr := (rfl)
@[simp] theorem setNport_drm (s : State) (p : Nat) (x : NPort) : (s.setNport p x).drm = s.drm := (rfl)
@[simp] theorem setNport_yoke (s : State) (p : Nat) (x : NPort) : (s.setNport p x).yoke = s.yoke := (rfl)
@[simp] theorem setNport_baulk (s : State) (p : Nat) (x : NPort) : (s.setNport p x).baulk = s.baulk := (rfl)
@[simp] theorem setNport_pv (s : State) (p : Nat) (x : NPort) : (s.setNport p x).pv = s.pv := (rfl)
@[simp] theorem setNport_out (s : State) (p : Nat) (x : NPort) : (s.setNport p x).out = s.out := (rfl)
@[simp] theorem setNport_readData (s : State) (p : Nat) (x : NPort) : (s.setNport p x).readData = s.readData := (rfl)
@[simp] theorem setNport_free (s : State) (p : Nat) (x : NPort) : (s.setNport p x).free = s.free := (rfl)
@[simp] theorem setNport_pending (s : State) (p : Nat) (x : NPort) : (s.setNport p x).pending = s.pending := (rfl)

@[simp] theorem setEflow_sys (s : State) (e : Nat) (x : EFlow) : (s.setEflow e x).sys = s.sys := (rfl)
@[simp] theorem setEflow_tim (s : State) (e : Nat) (x : EFlow) : (s.setEflow e x).tim = s.tim := (rfl)
@[simp] theorem setEflow_b2 (s : State) (e : Nat) (x : EFlow) : (s.setEflow e x).b2 = s.b2 := (rfl)
@[simp] theorem setEflow_b0 (s : State) (e : Nat) (x : EFlow) : (s.setEflow e x).b0 = s.b0 := (rfl)
@[simp] theorem setEflow_bc (s : State) (e : Nat) (x : EFlow) : (s.setEflow e x).bc = s.bc := (rfl)
@[simp] theorem setEflow_hold (s : State) (e : Nat) (x : EFlow) : (s.setEflow e x).hold = s.hold := (rfl)
@[simp] theorem setEflow_adm (s : State) (e : Nat) (x : EFlow) : (s.setEflow e x).adm = s.adm := (rfl)
@[simp] theorem setEflow_hport (s : State) (e : Nat) (x : EFlow) : (s.setEflow e x).hport = s.hport := (rfl)
@[simp] theorem setEflow_intr (s : State) (e : Nat) (x : EFlow) : (s.setEflow e x).intr = s.intr := (rfl)
@[simp] theorem setEflow_flt (s : State) (e : Nat) (x : EFlow) : (s.setEflow e x).flt = s.flt := (rfl)
@[simp] theorem setEflow_job (s : State) (e : Nat) (x : EFlow) : (s.setEflow e x).job = s.job := (rfl)
@[simp] theorem setEflow_vid (s : State) (e : Nat) (x : EFlow) : (s.setEflow e x).vid = s.vid := (rfl)
@[simp] theorem setEflow_grn (s : State) (e : Nat) (x : EFlow) : (s.setEflow e x).grn = s.grn := (rfl)
@[simp] theorem setEflow_dma (s : State) (e : Nat) (x : EFlow) : (s.setEflow e x).dma = s.dma := (rfl)
@[simp] theorem setEflow_ing (s : State) (e : Nat) (x : EFlow) : (s.setEflow e x).ing = s.ing := (rfl)
@[simp] theorem setEflow_drm (s : State) (e : Nat) (x : EFlow) : (s.setEflow e x).drm = s.drm := (rfl)
@[simp] theorem setEflow_yoke (s : State) (e : Nat) (x : EFlow) : (s.setEflow e x).yoke = s.yoke := (rfl)
@[simp] theorem setEflow_baulk (s : State) (e : Nat) (x : EFlow) : (s.setEflow e x).baulk = s.baulk := (rfl)
@[simp] theorem setEflow_pv (s : State) (e : Nat) (x : EFlow) : (s.setEflow e x).pv = s.pv := (rfl)
@[simp] theorem setEflow_out (s : State) (e : Nat) (x : EFlow) : (s.setEflow e x).out = s.out := (rfl)
@[simp] theorem setEflow_readData (s : State) (e : Nat) (x : EFlow) : (s.setEflow e x).readData = s.readData := (rfl)
@[simp] theorem setEflow_free (s : State) (e : Nat) (x : EFlow) : (s.setEflow e x).free = s.free := (rfl)
@[simp] theorem setEflow_pending (s : State) (e : Nat) (x : EFlow) : (s.setEflow e x).pending = s.pending := (rfl)

@[simp] theorem setDrm_sys (s : State) (d : Drm) : (s.setDrm d).sys = s.sys := (rfl)
@[simp] theorem setDrm_tim (s : State) (d : Drm) : (s.setDrm d).tim = s.tim := (rfl)
@[simp] theorem setDrm_b2 (s : State) (d : Drm) : (s.setDrm d).b2 = s.b2 := (rfl)
@[simp] theorem setDrm_b0 (s : State) (d : Drm) : (s.setDrm d).b0 = s.b0 := (rfl)
@[simp] theorem setDrm_bc (s : State) (d : Drm) : (s.setDrm d).bc = s.bc := (rfl)
@[simp] theorem setDrm_hold (s : State) (d : Drm) : (s.setDrm d).hold = s.hold := (rfl)
@[simp] theorem setDrm_adm (s : State) (d : Drm) : (s.setDrm d).adm = s.adm := (rfl)
@[simp] theorem setDrm_hport (s : State) (d : Drm) : (s.setDrm d).hport = s.hport := (rfl)
@[simp] theorem setDrm_intr (s : State) (d : Drm) : (s.setDrm d).intr = s.intr := (rfl)
@[simp] theorem setDrm_flt (s : State) (d : Drm) : (s.setDrm d).flt = s.flt := (rfl)
@[simp] theorem setDrm_job (s : State) (d : Drm) : (s.setDrm d).job = s.job := (rfl)
@[simp] theorem setDrm_vid (s : State) (d : Drm) : (s.setDrm d).vid = s.vid := (rfl)
@[simp] theorem setDrm_grn (s : State) (d : Drm) : (s.setDrm d).grn = s.grn := (rfl)
@[simp] theorem setDrm_dma (s : State) (d : Drm) : (s.setDrm d).dma = s.dma := (rfl)
@[simp] theorem setDrm_ing (s : State) (d : Drm) : (s.setDrm d).ing = s.ing := (rfl)
@[simp] theorem setDrm_egr (s : State) (d : Drm) : (s.setDrm d).egr = s.egr := (rfl)
@[simp] theorem setDrm_yoke (s : State) (d : Drm) : (s.setDrm d).yoke = s.yoke := (rfl)
@[simp] theorem setDrm_baulk (s : State) (d : Drm) : (s.setDrm d).baulk = s.baulk := (rfl)
@[simp] theorem setDrm_pv (s : State) (d : Drm) : (s.setDrm d).pv = s.pv := (rfl)
@[simp] theorem setDrm_out (s : State) (d : Drm) : (s.setDrm d).out = s.out := (rfl)
@[simp] theorem setDrm_readData (s : State) (d : Drm) : (s.setDrm d).readData = s.readData := (rfl)
@[simp] theorem setDrm_free (s : State) (d : Drm) : (s.setDrm d).free = s.free := (rfl)
@[simp] theorem setDrm_pending (s : State) (d : Drm) : (s.setDrm d).pending = s.pending := (rfl)

@[simp] theorem setFifo_sys (s : State) (k : Nat) (f : Fifo) : (s.setFifo k f).sys = s.sys := (rfl)
@[simp] theorem setFifo_tim (s : State) (k : Nat) (f : Fifo) : (s.setFifo k f).tim = s.tim := (rfl)
@[simp] theorem setFifo_b2 (s : State) (k : Nat) (f : Fifo) : (s.setFifo k f).b2 = s.b2 := (rfl)
@[simp] theorem setFifo_b0 (s : State) (k : Nat) (f : Fifo) : (s.setFifo k f).b0 = s.b0 := (rfl)
@[simp] theorem setFifo_bc (s : State) (k : Nat) (f : Fifo) : (s.setFifo k f).bc = s.bc := (rfl)
@[simp] theorem setFifo_hold (s : State) (k : Nat) (f : Fifo) : (s.setFifo k f).hold = s.hold := (rfl)
@[simp] theorem setFifo_adm (s : State) (k : Nat) (f : Fifo) : (s.setFifo k f).adm = s.adm := (rfl)
@[simp] theorem setFifo_hport (s : State) (k : Nat) (f : Fifo) : (s.setFifo k f).hport = s.hport := (rfl)
@[simp] theorem setFifo_intr (s : State) (k : Nat) (f : Fifo) : (s.setFifo k f).intr = s.intr := (rfl)
@[simp] theorem setFifo_flt (s : State) (k : Nat) (f : Fifo) : (s.setFifo k f).flt = s.flt := (rfl)
@[simp] theorem setFifo_job (s : State) (k : Nat) (f : Fifo) : (s.setFifo k f).job = s.job := (rfl)
@[simp] theorem setFifo_vid (s : State) (k : Nat) (f : Fifo) : (s.setFifo k f).vid = s.vid := (rfl)
@[simp] theorem setFifo_dma (s : State) (k : Nat) (f : Fifo) : (s.setFifo k f).dma = s.dma := (rfl)
@[simp] theorem setFifo_ing (s : State) (k : Nat) (f : Fifo) : (s.setFifo k f).ing = s.ing := (rfl)
@[simp] theorem setFifo_egr (s : State) (k : Nat) (f : Fifo) : (s.setFifo k f).egr = s.egr := (rfl)
@[simp] theorem setFifo_drm (s : State) (k : Nat) (f : Fifo) : (s.setFifo k f).drm = s.drm := (rfl)
@[simp] theorem setFifo_yoke (s : State) (k : Nat) (f : Fifo) : (s.setFifo k f).yoke = s.yoke := (rfl)
@[simp] theorem setFifo_baulk (s : State) (k : Nat) (f : Fifo) : (s.setFifo k f).baulk = s.baulk := (rfl)
@[simp] theorem setFifo_pv (s : State) (k : Nat) (f : Fifo) : (s.setFifo k f).pv = s.pv := (rfl)
@[simp] theorem setFifo_out (s : State) (k : Nat) (f : Fifo) : (s.setFifo k f).out = s.out := (rfl)
@[simp] theorem setFifo_readData (s : State) (k : Nat) (f : Fifo) : (s.setFifo k f).readData = s.readData := (rfl)
@[simp] theorem setFifo_free (s : State) (k : Nat) (f : Fifo) : (s.setFifo k f).free = s.free := (rfl)
@[simp] theorem setFifo_pending (s : State) (k : Nat) (f : Fifo) : (s.setFifo k f).pending = s.pending := (rfl)

@[simp] theorem setCells_sys (s : State) (c : Tab Cell) : (s.setCells c).sys = s.sys := (rfl)
@[simp] theorem setCells_tim (s : State) (c : Tab Cell) : (s.setCells c).tim = s.tim := (rfl)
@[simp] theorem setCells_b2 (s : State) (c : Tab Cell) : (s.setCells c).b2 = s.b2 := (rfl)
@[simp] theorem setCells_b0 (s : State) (c : Tab Cell) : (s.setCells c).b0 = s.b0 := (rfl)
@[simp] theorem setCells_bc (s : State) (c : Tab Cell) : (s.setCells c).bc = s.bc := (rfl)
@[simp] theorem setCells_hold (s : State) (c : Tab Cell) : (s.setCells c).hold = s.hold := (rfl)
@[simp] theorem setCells_adm (s : State) (c : Tab Cell) : (s.setCells c).adm = s.adm := (rfl)
@[simp] theorem setCells_hport (s : State) (c : Tab Cell) : (s.setCells c).hport = s.hport := (rfl)
@[simp] theorem setCells_intr (s : State) (c : Tab Cell) : (s.setCells c).intr = s.intr := (rfl)
@[simp] theorem setCells_flt (s : State) (c : Tab Cell) : (s.setCells c).flt = s.flt := (rfl)
@[simp] theorem setCells_job (s : State) (c : Tab Cell) : (s.setCells c).job = s.job := (rfl)
@[simp] theorem setCells_vid (s : State) (c : Tab Cell) : (s.setCells c).vid = s.vid := (rfl)
@[simp] theorem setCells_dma (s : State) (c : Tab Cell) : (s.setCells c).dma = s.dma := (rfl)
@[simp] theorem setCells_ing (s : State) (c : Tab Cell) : (s.setCells c).ing = s.ing := (rfl)
@[simp] theorem setCells_egr (s : State) (c : Tab Cell) : (s.setCells c).egr = s.egr := (rfl)
@[simp] theorem setCells_drm (s : State) (c : Tab Cell) : (s.setCells c).drm = s.drm := (rfl)
@[simp] theorem setCells_yoke (s : State) (c : Tab Cell) : (s.setCells c).yoke = s.yoke := (rfl)
@[simp] theorem setCells_baulk (s : State) (c : Tab Cell) : (s.setCells c).baulk = s.baulk := (rfl)
@[simp] theorem setCells_pv (s : State) (c : Tab Cell) : (s.setCells c).pv = s.pv := (rfl)
@[simp] theorem setCells_out (s : State) (c : Tab Cell) : (s.setCells c).out = s.out := (rfl)
@[simp] theorem setCells_readData (s : State) (c : Tab Cell) : (s.setCells c).readData = s.readData := (rfl)
@[simp] theorem setCells_free (s : State) (c : Tab Cell) : (s.setCells c).free = s.free := (rfl)
@[simp] theorem setCells_pending (s : State) (c : Tab Cell) : (s.setCells c).pending = s.pending := (rfl)

@[simp] theorem setYoke_yoke (s : State) (y : Yoke) : (s.setYoke y).yoke = y := (rfl)
@[simp] theorem setJob_job (s : State) (j : Jobs) : (s.setJob j).job = j := (rfl)
@[simp] theorem setVid_vid (s : State) (v : Vid) : (s.setVid v).vid = v := (rfl)
@[simp] theorem setFlt_flt (s : State) (x : Flt) : (s.setFlt x).flt = x := (rfl)
@[simp] theorem setIng_ing (s : State) (x : Ing) : (s.setIng x).ing = x := (rfl)
@[simp] theorem setEgr_egr (s : State) (x : Egr) : (s.setEgr x).egr = x := (rfl)
@[simp] theorem setDrm_drm (s : State) (x : Drm) : (s.setDrm x).drm = x := (rfl)
@[simp] theorem setBk_baulk (s : State) (x : Baulk) : (s.setBk x).baulk = x := (rfl)
@[simp] theorem emit_out (s : State) (o : Out) : (s.emit o).out = o :: s.out := (rfl)

@[simp] theorem fire_sys (s : State) (n : Nat) : (s.fire n).sys = s.sys := by unfold State.fire; split <;> rfl
@[simp] theorem fire_tim (s : State) (n : Nat) : (s.fire n).tim = s.tim := by unfold State.fire; split <;> rfl
@[simp] theorem fire_b2 (s : State) (n : Nat) : (s.fire n).b2 = s.b2 := by unfold State.fire; split <;> rfl
@[simp] theorem fire_b0 (s : State) (n : Nat) : (s.fire n).b0 = s.b0 := by unfold State.fire; split <;> rfl
@[simp] theorem fire_bc (s : State) (n : Nat) : (s.fire n).bc = s.bc := by unfold State.fire; split <;> rfl
@[simp] theorem fire_hold (s : State) (n : Nat) : (s.fire n).hold = s.hold := by unfold State.fire; split <;> rfl
@[simp] theorem fire_adm (s : State) (n : Nat) : (s.fire n).adm = s.adm := by unfold State.fire; split <;> rfl
@[simp] theorem fire_hport (s : State) (n : Nat) : (s.fire n).hport = s.hport := by unfold State.fire; split <;> rfl
@[simp] theorem fire_flt (s : State) (n : Nat) : (s.fire n).flt = s.flt := by unfold State.fire; split <;> rfl
@[simp] theorem fire_job (s : State) (n : Nat) : (s.fire n).job = s.job := by unfold State.fire; split <;> rfl
@[simp] theorem fire_vid (s : State) (n : Nat) : (s.fire n).vid = s.vid := by unfold State.fire; split <;> rfl
@[simp] theorem fire_grn (s : State) (n : Nat) : (s.fire n).grn = s.grn := by unfold State.fire; split <;> rfl
@[simp] theorem fire_dma (s : State) (n : Nat) : (s.fire n).dma = s.dma := by unfold State.fire; split <;> rfl
@[simp] theorem fire_ing (s : State) (n : Nat) : (s.fire n).ing = s.ing := by unfold State.fire; split <;> rfl
@[simp] theorem fire_egr (s : State) (n : Nat) : (s.fire n).egr = s.egr := by unfold State.fire; split <;> rfl
@[simp] theorem fire_drm (s : State) (n : Nat) : (s.fire n).drm = s.drm := by unfold State.fire; split <;> rfl
@[simp] theorem fire_yoke (s : State) (n : Nat) : (s.fire n).yoke = s.yoke := by unfold State.fire; split <;> rfl
@[simp] theorem fire_baulk (s : State) (n : Nat) : (s.fire n).baulk = s.baulk := by unfold State.fire; split <;> rfl
@[simp] theorem fire_pv (s : State) (n : Nat) : (s.fire n).pv = s.pv := by unfold State.fire; split <;> rfl
@[simp] theorem fire_out (s : State) (n : Nat) : (s.fire n).out = s.out := by unfold State.fire; split <;> rfl
@[simp] theorem fire_readData (s : State) (n : Nat) : (s.fire n).readData = s.readData := by unfold State.fire; split <;> rfl
@[simp] theorem fire_free (s : State) (n : Nat) : (s.fire n).free = s.free := by unfold State.fire; split <;> rfl
@[simp] theorem fire_pending (s : State) (n : Nat) : (s.fire n).pending = s.pending := by unfold State.fire; split <;> rfl

end Sys2Proof.Machine
end

