-- ==== Sys2Proof/Laws/Tables.lean ====
section
/-! SUPPORT. The laws of tables and banks: what reads back what was written, and the canonical form is kept. -/

namespace Sys2Proof.Machine

variable {α : Type}

@[simp] theorem tget_tset_same (t : Tab α) (n : Nat) (x : α) : tget (tset t n x) n = some x := by
  induction t with
  | nil => simp [tset, tget]
  | cons p t ih =>
    obtain ⟨k, v⟩ := p
    unfold tset
    split
    · simp [tget]
    · split
      · simp [tget]
      · rename_i h; simp [tget, Ne.symm h, ih]

theorem tget_tset_ne (t : Tab α) {n m : Nat} (x : α) (h : m ≠ n) : tget (tset t n x) m = tget t m := by
  induction t with
  | nil => simp [tset, tget, Ne.symm h]
  | cons p t ih =>
    obtain ⟨k, v⟩ := p
    unfold tset
    split
    · simp [tget, Ne.symm h]
    · split
      · rename_i h2; subst h2; simp [tget, Ne.symm h]
      · simp [tget, ih]

@[simp] theorem tget_tdel_same (t : Tab α) (n : Nat) : tget (tdel t n) n = none := by
  induction t with
  | nil => rfl
  | cons p t ih =>
    obtain ⟨k, v⟩ := p
    unfold tdel
    split
    · exact ih
    · rename_i h; simp [tget, h, ih]

theorem tget_tdel_ne (t : Tab α) {n m : Nat} (h : m ≠ n) : tget (tdel t n) m = tget t m := by
  induction t with
  | nil => rfl
  | cons p t ih =>
    obtain ⟨k, v⟩ := p
    unfold tdel
    split
    · rename_i h2; subst h2; simp [tget, Ne.symm h, ih]
    · simp [tget, ih]

@[simp] theorem tgetD_tset_same (t : Tab α) (n : Nat) (x d : α) : tgetD (tset t n x) n d = x := by simp [tgetD]

theorem tgetD_tset_ne (t : Tab α) {n m : Nat} (x d : α) (h : m ≠ n) : tgetD (tset t n x) m d = tgetD t m d := by
  simp [tgetD, tget_tset_ne t x h]

@[simp] theorem tget_tmod_same (t : Tab α) (n : Nat) (f : α → α) : tget (tmod t n f) n = (tget t n).map f := by
  unfold tmod
  split
  · rename_i x h; simp [h]
  · rename_i h; simp [h]

theorem tget_tmod_ne (t : Tab α) {n m : Nat} (f : α → α) (h : m ≠ n) : tget (tmod t n f) m = tget t m := by
  unfold tmod
  split
  · exact tget_tset_ne _ _ h
  · rfl

/-! The canonical form. -/

/-- Every key of the table lies above `a`. -/
def Tab.above (t : Tab α) (a : Nat) : Prop := ∀ p ∈ t, a < p.1

theorem rising_cons {a : Nat} {v : α} {t : Tab α} :
    Tab.rising ((a, v) :: t) = true ↔ Tab.above t a ∧ Tab.rising t = true := by
  induction t generalizing a v with
  | nil => simp [Tab.rising, Tab.above]
  | cons q t ih =>
    obtain ⟨b, w⟩ := q
    simp only [Tab.rising, Bool.and_eq_true, decide_eq_true_eq]
    rw [ih]
    constructor
    · rintro ⟨h, h1, h2⟩
      refine ⟨fun p hp => ?_, h1, h2⟩
      rcases List.mem_cons.1 hp with rfl | hp
      · exact h
      · exact Nat.lt_trans h (h1 p hp)
    · rintro ⟨h, h1, h2⟩
      exact ⟨h _ (List.mem_cons_self ..), h1, h2⟩

theorem mem_tset {t : Tab α} {n : Nat} {x : α} {p : Nat × α} (h : p ∈ tset t n x) : p = (n, x) ∨ p ∈ t := by
  induction t with
  | nil => simp [tset] at h; exact .inl h
  | cons q t ih =>
    obtain ⟨k, v⟩ := q
    unfold tset at h
    split at h
    · rcases List.mem_cons.1 h with h | h
      · exact .inl h
      · exact .inr h
    · split at h
      · rcases List.mem_cons.1 h with h | h
        · exact .inl h
        · exact .inr (List.mem_cons_of_mem _ h)
      · rcases List.mem_cons.1 h with h | h
        · exact .inr (h ▸ List.mem_cons_self ..)
        · rcases ih h with h | h
          · exact .inl h
          · exact .inr (List.mem_cons_of_mem _ h)

theorem mem_tdel {t : Tab α} {n : Nat} {p : Nat × α} (h : p ∈ tdel t n) : p ∈ t ∧ p.1 ≠ n := by
  induction t with
  | nil => cases h
  | cons q t ih =>
    obtain ⟨k, v⟩ := q
    unfold tdel at h
    split at h
    · exact ⟨List.mem_cons_of_mem _ (ih h).1, (ih h).2⟩
    · rename_i hk
      rcases List.mem_cons.1 h with h | h
      · subst h; exact ⟨List.mem_cons_self .., hk⟩
      · exact ⟨List.mem_cons_of_mem _ (ih h).1, (ih h).2⟩

theorem rising_tset {t : Tab α} (n : Nat) (x : α) (h : Tab.rising t = true) : Tab.rising (tset t n x) = true := by
  induction t with
  | nil => rfl
  | cons q t ih =>
    obtain ⟨k, v⟩ := q
    have h1 := rising_cons.1 h
    unfold tset
    split
    · rename_i hn
      refine rising_cons.2 ⟨fun p hp => ?_, h⟩
      rcases List.mem_cons.1 hp with rfl | hp
      · exact hn
      · exact Nat.lt_trans hn (h1.1 p hp)
    · split
      · rename_i hn; subst hn; exact rising_cons.2 h1
      · rename_i hn hk
        refine rising_cons.2 ⟨fun p hp => ?_, ih h1.2⟩
        rcases mem_tset hp with rfl | hp
        · exact Nat.lt_of_le_of_ne (Nat.le_of_not_lt hn) (fun e => hk e.symm)
        · exact h1.1 p hp

theorem rising_tdel {t : Tab α} (n : Nat) (h : Tab.rising t = true) : Tab.rising (tdel t n) = true := by
  induction t with
  | nil => rfl
  | cons q t ih =>
    obtain ⟨k, v⟩ := q
    have h1 := rising_cons.1 h
    unfold tdel
    split
    · exact ih h1.2
    · exact rising_cons.2 ⟨fun p hp => h1.1 p (mem_tdel hp).1, ih h1.2⟩

variable [DecidableEq α]

/-- What a bank reads after a write. -/
@[simp] theorem bankGet_bankSet_same (b : Tab α) (d : Nat → α) (k : Nat) (v : α) : bankGet (bankSet b d k v) d k = v := by
  unfold bankGet bankSet
  split
  · rename_i h; simp [tgetD, h]
  · simp

theorem bankGet_bankSet_ne (b : Tab α) (d : Nat → α) {k m : Nat} (v : α) (h : m ≠ k) :
    bankGet (bankSet b d k v) d m = bankGet b d m := by
  unfold bankGet bankSet
  split
  · simp [tgetD, tget_tdel_ne b h]
  · exact tgetD_tset_ne _ _ _ h

/-- A write keeps a bank canonical. -/
theorem bankWf_bankSet {b : Tab α} {d : Nat → α} (k : Nat) (v : α) (h : bankWf b d = true) :
    bankWf (bankSet b d k v) d = true := by
  unfold bankWf at *
  simp only [Bool.and_eq_true, List.all_eq_true, decide_eq_true_eq] at *
  unfold bankSet
  split
  · exact ⟨rising_tdel k h.1, fun p hp => h.2 p (mem_tdel hp).1⟩
  · rename_i hv
    refine ⟨rising_tset k v h.1, fun p hp => ?_⟩
    rcases mem_tset hp with rfl | hp
    · exact hv
    · exact h.2 p hp

/-! Memory. -/

theorem readByte_writeByte_same (m : List Host.Cell) (a : Nat) (v : Byte) : readByte (writeByte m a v) a = v :=
  bankGet_bankSet_same ..

theorem readByte_writeByte_ne (m : List Host.Cell) {a b : Nat} (v : Byte) (h : b ≠ a) :
    readByte (writeByte m a v) b = readByte m b := bankGet_bankSet_ne _ _ _ h

theorem writeByte_wf {m : List Host.Cell} (a : Nat) (v : Byte) (h : Memory.wf m = true) :
    Memory.wf (writeByte m a v) = true := bankWf_bankSet a v h

theorem writeBytes_wf {m : List Host.Cell} (a : Nat) (bs : List Byte) (h : Memory.wf m = true) :
    Memory.wf (writeBytes m a bs) = true := by
  induction bs generalizing m a with
  | nil => exact h
  | cons v vs ih => exact ih (a + 1) (writeByte_wf a v h)

/-- Every write to a holding's memory keeps the canonical form. -/
theorem writeDev_wf {s : State} (h off : Nat) (bs : List Byte) (hw : Memory.wf s.drm.mem = true) :
    Memory.wf (writeDev s h off bs).drm.mem = true := by
  unfold writeDev
  dsimp only
  generalize bs.zipIdx = l
  revert hw
  generalize s.drm.mem = m
  induction l generalizing m with
  | nil => exact id
  | cons p l ih =>
    intro hw
    refine ih _ ?_
    dsimp only
    split
    · exact writeByte_wf _ _ hw
    · exact hw

end Sys2Proof.Machine
end

