-- ==== Sys2Proof/Laws/Regs.lean ====
section
/-! SUPPORT. What registers, holdings, contexts and other numbered things read after an update. -/

namespace Sys2Proof.Machine

@[simp] theorem r2_w2_same (s : State) (a : Nat) (v : Word) : (s.w2 a v).r2 a = v := bankGet_bankSet_same ..

theorem r2_w2_ne (s : State) {a b : Nat} (v : Word) (h : b ≠ a) : (s.w2 a v).r2 b = s.r2 b := bankGet_bankSet_ne _ _ _ h

@[simp] theorem r2_put2_same (s : State) (a lo len v : Nat) : (s.put2 a lo len v).r2 a = putFld (s.r2 a) lo len v := r2_w2_same ..

theorem r2_put2_ne (s : State) {a b : Nat} (lo len v : Nat) (h : b ≠ a) : (s.put2 a lo len v).r2 b = s.r2 b := r2_w2_ne _ _ h

@[simp] theorem r2_or2_same (s : State) (a : Nat) (v : Word) : (s.or2 a v).r2 a = s.r2 a ||| v := r2_w2_same ..

theorem r2_or2_ne (s : State) {a b : Nat} (v : Word) (h : b ≠ a) : (s.or2 a v).r2 b = s.r2 b := r2_w2_ne _ _ h

/-- A register reads the same in states with the same BAR2 bank. -/
theorem r2_congr {s t : State} (h : t.b2 = s.b2) (a : Nat) : t.r2 a = s.r2 a := by unfold State.r2; rw [h]

theorem r0_congr {s t : State} (h : t.b0 = s.b0) (k a : Nat) : t.r0 k a = s.r0 k a := by unfold State.r0; rw [h]

theorem rch_congr {s t : State} (h : t.bc = s.bc) (c a : Nat) : t.rch c a = s.rch c a := by unfold State.rch; rw [h]

@[simp] theorem r0_w0_same (s : State) (h a : Nat) (v : Word) : (s.w0 h a v).r0 h a = v := bankGet_bankSet_same ..

theorem r0_w0_ne (s : State) {h a b : Nat} (v : Word) (n : b ≠ a) : (s.w0 h a v).r0 h b = s.r0 h b :=
  bankGet_bankSet_ne _ _ _ (fun e => n (Nat.add_left_cancel e))

theorem r0_put0_same (s : State) (h a lo len v : Nat) : (s.put0 h a lo len v).r0 h a = putFld (s.r0 h a) lo len v := r0_w0_same ..

@[simp] theorem rch_wch_same (s : State) (c a : Nat) (v : Word) : (s.wch c a v).rch c a = v := bankGet_bankSet_same ..

theorem rch_wch_ne (s : State) {c a b : Nat} (v : Word) (n : b ≠ a) : (s.wch c a v).rch c b = s.rch c b :=
  bankGet_bankSet_ne _ _ _ (fun e => n (Nat.add_left_cancel e))

@[simp] theorem hd_setHd_same (s : State) (h : Nat) (x : Holding) : (s.setHd h x).hd h = x := tgetD_tset_same ..

theorem hd_setHd_ne (s : State) {h j : Nat} (x : Holding) (n : j ≠ h) : (s.setHd h x).hd j = s.hd j := tgetD_tset_ne _ _ _ n

@[simp] theorem hd_modHd_same (s : State) (h : Nat) (f : Holding → Holding) : (s.modHd h f).hd h = f (s.hd h) := hd_setHd_same ..

theorem hd_modHd_ne (s : State) {h j : Nat} (f : Holding → Holding) (n : j ≠ h) : (s.modHd h f).hd j = s.hd j := hd_setHd_ne _ _ n

@[simp] theorem hp_modHp_same (s : State) (p : Nat) (f : HPort → HPort) : (s.modHp p f).hp p = f (s.hp p) := tgetD_tset_same ..

@[simp] theorem fs_modFs_same (s : State) (f : Nat) (g : FieldSt → FieldSt) : (s.modFs f g).fs f = g (s.fs f) := tgetD_tset_same ..

@[simp] theorem ctx_setCtx_same (s : State) (k : Nat) (x : Ctx) : (s.setCtx k x).ctx k = some x := tget_tset_same ..

theorem ctx_setCtx_ne (s : State) {k j : Nat} (x : Ctx) (n : j ≠ k) : (s.setCtx k x).ctx j = s.ctx j := tget_tset_ne _ _ n

@[simp] theorem ctx_modCtx_same (s : State) (k : Nat) (f : Ctx → Ctx) : (s.modCtx k f).ctx k = (s.ctx k).map f := tget_tmod_same ..

theorem ctx_modCtx_ne (s : State) {k j : Nat} (f : Ctx → Ctx) (n : j ≠ k) : (s.modCtx k f).ctx j = s.ctx j := tget_tmod_ne _ _ n

@[simp] theorem chan_setChan_same (s : State) (c : Nat) (x : Chan) : (s.setChan c x).chan c = some x := tget_tset_same ..

theorem chan_setChan_ne (s : State) {c j : Nat} (x : Chan) (n : j ≠ c) : (s.setChan c x).chan j = s.chan j := tget_tset_ne _ _ n

@[simp] theorem chan_modChan_same (s : State) (c : Nat) (f : Chan → Chan) : (s.modChan c f).chan c = (s.chan c).map f := tget_tmod_same ..

@[simp] theorem buf_setBuf_same (s : State) (n : Nat) (x : Buf) : (s.setBuf n x).buf n = some x := tget_tset_same ..

@[simp] theorem buf_modBuf_same (s : State) (n : Nat) (f : Buf → Buf) : (s.modBuf n f).buf n = (s.buf n).map f := tget_tmod_same ..

@[simp] theorem src_setSrc_same (s : State) (n : Nat) (x : Src) : (s.setSrc n x).src n = x := tgetD_tset_same ..

theorem src_setSrc_ne (s : State) {n m : Nat} (x : Src) (h : m ≠ n) : (s.setSrc n x).src m = s.src m := by
  unfold State.src State.setSrc
  exact tgetD_tset_ne _ _ _ h

@[simp] theorem gr_setG_same (x : Ctx) (n : Nat) (v : DWord) : (x.setG n v).gr n = v := bankGet_bankSet_same x.g (fun _ => 0) n v

theorem gr_setG_ne (x : Ctx) {n m : Nat} (v : DWord) (h : m ≠ n) : (x.setG n v).gr m = x.gr m :=
  bankGet_bankSet_ne x.g (fun _ => 0) v h

@[simp] theorem kr_setG (x : Ctx) (n m : Nat) (v : DWord) : (x.setG n v).kr m = x.kr m := rfl

@[simp] theorem kr_setK_same (x : Ctx) (n : Nat) (v : Word) : (x.setK n v).kr n = v := bankGet_bankSet_same x.k (fun _ => 0) n v

theorem kr_setK_ne (x : Ctx) {n m : Nat} (v : Word) (h : m ≠ n) : (x.setK n v).kr m = x.kr m :=
  bankGet_bankSet_ne x.k (fun _ => 0) v h

@[simp] theorem gr_setK (x : Ctx) (n m : Nat) (v : Word) : (x.setK n v).gr m = x.gr m := rfl

end Sys2Proof.Machine
end

