-- ==== Sys2Proof/Laws/Finish.lean ====
section
/-! SUPPORT. What the end of a step leaves: while no fault has fired it only sends interrupt messages, which touch the
Interrupt Gatherer, BAR0 of PV16 functions, their pending bits and what is sent out. -/

namespace Sys2Proof.Machine

/-- What interrupt messages never touch. -/
structure MsgKept (s t : State) : Prop where
  /-- See the structure. -/
  sys : t.sys = s.sys
  /-- See the structure. -/
  tim : t.tim = s.tim
  /-- See the structure. -/
  b2 : t.b2 = s.b2
  /-- See the structure. -/
  bc : t.bc = s.bc
  /-- See the structure. -/
  adm : t.adm = s.adm
  /-- See the structure. -/
  hport : t.hport = s.hport
  /-- See the structure. -/
  flt : t.flt = s.flt
  /-- See the structure. -/
  job : t.job = s.job
  /-- See the structure. -/
  vid : t.vid = s.vid
  /-- See the structure. -/
  grn : t.grn = s.grn
  /-- See the structure. -/
  dma : t.dma = s.dma
  /-- See the structure. -/
  ing : t.ing = s.ing
  /-- See the structure. -/
  egr : t.egr = s.egr
  /-- See the structure. -/
  drm : t.drm = s.drm
  /-- See the structure. -/
  yoke : t.yoke = s.yoke
  /-- See the structure. -/
  baulk : t.baulk = s.baulk
  /-- See the structure. -/
  pv : t.pv = s.pv
  /-- See the structure. -/
  readData : t.readData = s.readData
  /-- See the structure. -/
  free : t.free = s.free
  /-- See the structure. -/
  pending : t.pending = s.pending

theorem MsgKept.refl (s : State) : MsgKept s s := by constructor <;> rfl

theorem MsgKept.trans {s t u : State} (h : MsgKept s t) (k : MsgKept t u) : MsgKept s u := by
  constructor
  · exact k.sys.trans h.sys
  · exact k.tim.trans h.tim
  · exact k.b2.trans h.b2
  · exact k.bc.trans h.bc
  · exact k.adm.trans h.adm
  · exact k.hport.trans h.hport
  · exact k.flt.trans h.flt
  · exact k.job.trans h.job
  · exact k.vid.trans h.vid
  · exact k.grn.trans h.grn
  · exact k.dma.trans h.dma
  · exact k.ing.trans h.ing
  · exact k.egr.trans h.egr
  · exact k.drm.trans h.drm
  · exact k.yoke.trans h.yoke
  · exact k.baulk.trans h.baulk
  · exact k.pv.trans h.pv
  · exact k.readData.trans h.readData
  · exact k.free.trans h.free
  · exact k.pending.trans h.pending

theorem MsgKept.setSrc (s : State) (n : Nat) (x : Src) : MsgKept s (s.setSrc n x) := by constructor <;> rfl

theorem MsgKept.w0 (s : State) (h a : Nat) (v : Word) : MsgKept s (s.w0 h a v) := by constructor <;> simp

theorem MsgKept.setHd (s : State) (h : Nat) (x : Holding) : MsgKept s (s.setHd h x) := by constructor <;> rfl

theorem MsgKept.sendMsg (s : State) (h v : Nat) : MsgKept s (sendMsg s h v) := by
  unfold Machine.sendMsg
  split <;> constructor <;> rfl

theorem MsgKept.foldl {β : Type} {g : State → β → State} (hg : ∀ t x, MsgKept t (g t x)) (l : List β) (s : State) :
    MsgKept s (l.foldl g s) := by
  induction l generalizing s with
  | nil => exact .refl s
  | cons x l ih => exact (hg s x).trans (ih (g s x))

theorem MsgKept.pvRaise (s : State) (h b : Nat) : MsgKept s (pvRaise s h b) := by
  unfold Machine.pvRaise
  dsimp only
  split
  · exact .refl s
  · split
    · exact .w0 ..
    · exact (MsgKept.w0 ..).trans (.sendMsg ..)

theorem MsgKept.pvClaimSrcs (s : State) : MsgKept s (pvClaimSrcs s) := by
  unfold Machine.pvClaimSrcs
  refine .foldl (fun t p => ?_) _ _
  split
  · exact (MsgKept.setSrc ..).trans (.pvRaise ..)
  · exact .refl t

theorem MsgKept.pvClaimOwn (s : State) : MsgKept s (pvClaimOwn s) := by
  unfold Machine.pvClaimOwn
  refine .foldl (fun t p => ?_) _ _
  split
  · refine .foldl (fun u i => ?_) _ _
    dsimp only
    split
    · exact (MsgKept.setHd ..).trans (.pvRaise ..)
    · exact .refl u
  · exact .refl t

/-- Interrupt messages touch nothing else. -/
theorem settle_kept (s0 s : State) : MsgKept s (settle s0 s) := by
  unfold settle
  dsimp only
  refine ((MsgKept.pvClaimSrcs s).trans (.pvClaimOwn _)).trans (.foldl (fun t k => ?_) _ _)
  split
  · exact .refl t
  · exact .sendMsg ..

theorem recordAll_quiet (s : State) (n : Nat) (h : s.flt.fired = []) : recordAll s n = s := by
  cases n with
  | zero => rfl
  | succ n => unfold recordAll; rw [h]

/-- Without a fault the end of a step only sends messages. -/
theorem finish_quiet (s0 s : State) (h : s.flt.fired = []) : finish s0 s = settle s0 s := by
  unfold finish
  rw [recordAll_quiet s 4 h]

theorem finish_kept (s0 s : State) (h : s.flt.fired = []) : MsgKept s (finish s0 s) := by
  rw [finish_quiet s0 s h]
  exact settle_kept s0 s

end Sys2Proof.Machine
end

