-- ==== Sys2Proof/Laws/Fuse1.lean ====
section
/-! SUPPORT. What leaves fuses alone, part 1: the fuses and the boot state stay through the operations of: Regs,
Intr, Cells, YokeOps, Mem, Operands, ChanOps, JobOps, NetOps, Teardown, Finish, PvQueue, Jobs. One lemma per
function. -/

set_option linter.unusedSimpArgs false
set_option linter.unusedVariables false

namespace Sys2Proof.Machine

open State

theorem sys_foldl {β : Type} {g : State → β → State} (hg : ∀ t x, (g t x).sys = t.sys) (l : List β) (s : State) :
    (l.foldl g s).sys = s.sys := by
  induction l generalizing s with
  | nil => rfl
  | cons x l ih => exact (ih (g s x)).trans (hg s x)

theorem sys_foldl_snd {α β : Type} {g : α × State → β → α × State} (hg : ∀ a x, (g a x).2.sys = a.2.sys) (l : List β)
    (a : α × State) : (l.foldl g a).2.sys = a.2.sys := by
  induction l generalizing a with
  | nil => rfl
  | cons x l ih => exact (ih (g a x)).trans (hg a x)

theorem sys_foldl_fst {α β : Type} {g : State × α → β → State × α} (hg : ∀ a x, (g a x).1.sys = a.1.sys) (l : List β)
    (a : State × α) : (l.foldl g a).1.sys = a.1.sys := by
  induction l generalizing a with
  | nil => rfl
  | cons x l ih => exact (ih (g a x)).trans (hg a x)

/-- The fuses and boot state a command leaves, or `d` where it does not go on. -/
def outSys (r : Res) (d : Sys) : Sys := match r with | .next t => t.sys | _ => d

theorem outSys_next (t : State) (d : Sys) : outSys (.next t) d = t.sys := by simp only [outSys]
theorem outSys_refused (x : Refusal) (d : Sys) : outSys (.refused x) d = d := by simp only [outSys]
theorem outSys_fault (x : Fault) (d : Sys) : outSys (.fault x) d = d := by simp only [outSys]

theorem State_w2_sys (s : State) (a : Nat) (v : Word) :
    (State.w2 s a v).sys = s.sys := by
  unfold State.w2
  repeat' first
    | with_reducible rfl
    | with_reducible assumption
    | split
    | (intro _)
    | dsimp only

theorem State_w0_sys (s : State) (hh a : Nat) (v : Word) :
    (State.w0 s hh a v).sys = s.sys := by
  unfold State.w0
  repeat' first
    | with_reducible rfl
    | with_reducible assumption
    | split
    | (intro _)
    | dsimp only

theorem State_wch_sys (s : State) (c a : Nat) (v : Word) :
    (State.wch s c a v).sys = s.sys := by
  unfold State.wch
  repeat' first
    | with_reducible rfl
    | with_reducible assumption
    | split
    | (intro _)
    | dsimp only

theorem State_or2_sys (s : State) (a : Nat) (v : Word) :
    (State.or2 s a v).sys = s.sys := by
  unfold State.or2
  repeat' first
    | with_reducible rfl
    | with_reducible assumption
    | simp only [State_w2_sys]
    | split
    | (intro _)
    | dsimp only

theorem State_orch_sys (s : State) (c a : Nat) (v : Word) :
    (State.orch s c a v).sys = s.sys := by
  unfold State.orch
  repeat' first
    | with_reducible rfl
    | with_reducible assumption
    | simp only [State_wch_sys]
    | split
    | (intro _)
    | dsimp only

theorem State_put2_sys (s : State) (a lo len v : Nat) :
    (State.put2 s a lo len v).sys = s.sys := by
  unfold State.put2
  repeat' first
    | with_reducible rfl
    | with_reducible assumption
    | simp only [State_w2_sys]
    | split
    | (intro _)
    | dsimp only

theorem State_put0_sys (s : State) (hh a lo len v : Nat) :
    (State.put0 s hh a lo len v).sys = s.sys := by
  unfold State.put0
  repeat' first
    | with_reducible rfl
    | with_reducible assumption
    | simp only [State_w0_sys]
    | split
    | (intro _)
    | dsimp only

theorem State_putch_sys (s : State) (c a lo len v : Nat) :
    (State.putch s c a lo len v).sys = s.sys := by
  unfold State.putch
  repeat' first
    | with_reducible rfl
    | with_reducible assumption
    | simp only [State_wch_sys]
    | split
    | (intro _)
    | dsimp only

theorem State_cnt2_sys (s : State) (a lo len : Nat) :
    (State.cnt2 s a lo len).sys = s.sys := by
  unfold State.cnt2
  repeat' first
    | with_reducible rfl
    | with_reducible assumption
    | simp only [State_w2_sys]
    | split
    | (intro _)
    | dsimp only

theorem State_cnt0_sys (s : State) (hh a : Nat) :
    (State.cnt0 s hh a).sys = s.sys := by
  unfold State.cnt0
  repeat' first
    | with_reducible rfl
    | with_reducible assumption
    | simp only [State_w0_sys]
    | split
    | (intro _)
    | dsimp only

theorem State_cntch_sys (s : State) (c a lo len : Nat) :
    (State.cntch s c a lo len).sys = s.sys := by
  unfold State.cntch
  repeat' first
    | with_reducible rfl
    | with_reducible assumption
    | simp only [State_wch_sys]
    | split
    | (intro _)
    | dsimp only

theorem State_addch_sys (s : State) (c a lo len n : Nat) :
    (State.addch s c a lo len n).sys = s.sys := by
  unfold State.addch
  repeat' first
    | with_reducible rfl
    | with_reducible assumption
    | simp only [State_wch_sys]
    | split
    | (intro _)
    | dsimp only

theorem State_wq2_sys (s : State) (a : Nat) (v : DWord) :
    (State.wq2 s a v).sys = s.sys := by
  unfold State.wq2
  repeat' first
    | with_reducible rfl
    | with_reducible assumption
    | simp only [State_w2_sys]
    | split
    | (intro _)
    | dsimp only

theorem State_wq0_sys (s : State) (hh a : Nat) (v : DWord) :
    (State.wq0 s hh a v).sys = s.sys := by
  unfold State.wq0
  repeat' first
    | with_reducible rfl
    | with_reducible assumption
    | simp only [State_w0_sys]
    | split
    | (intro _)
    | dsimp only

theorem State_wqch_sys (s : State) (c a : Nat) (v : DWord) :
    (State.wqch s c a v).sys = s.sys := by
  unfold State.wqch
  repeat' first
    | with_reducible rfl
    | with_reducible assumption
    | simp only [State_wch_sys]
    | split
    | (intro _)
    | dsimp only

theorem State_addq2_sys (s : State) (a n : Nat) :
    (State.addq2 s a n).sys = s.sys := by
  unfold State.addq2
  repeat' first
    | with_reducible rfl
    | with_reducible assumption
    | simp only [State_wq2_sys]
    | split
    | (intro _)
    | dsimp only

theorem State_addq0_sys (s : State) (hh a n : Nat) :
    (State.addq0 s hh a n).sys = s.sys := by
  unfold State.addq0
  repeat' first
    | with_reducible rfl
    | with_reducible assumption
    | simp only [State_wq0_sys]
    | split
    | (intro _)
    | dsimp only

theorem State_addqch_sys (s : State) (c a n : Nat) :
    (State.addqch s c a n).sys = s.sys := by
  unfold State.addqch
  repeat' first
    | with_reducible rfl
    | with_reducible assumption
    | simp only [State_wqch_sys]
    | split
    | (intro _)
    | dsimp only

theorem State_emit_sys (s : State) (o : Out) :
    (State.emit s o).sys = s.sys := by
  unfold State.emit
  repeat' first
    | with_reducible rfl
    | with_reducible assumption
    | split
    | (intro _)
    | dsimp only

theorem State_setHd_sys (s : State) (hh : Nat) (x : Holding) :
    (State.setHd s hh x).sys = s.sys := by
  unfold State.setHd
  repeat' first
    | with_reducible rfl
    | with_reducible assumption
    | split
    | (intro _)
    | dsimp only

theorem State_modHd_sys (s : State) (hh : Nat) (f : Holding → Holding) :
    (State.modHd s hh f).sys = s.sys := by
  unfold State.modHd
  repeat' first
    | with_reducible rfl
    | with_reducible assumption
    | simp only [State_setHd_sys]
    | split
    | (intro _)
    | dsimp only

theorem State_modHp_sys (s : State) (p : Nat) (f : HPort → HPort) :
    (State.modHp s p f).sys = s.sys := by
  unfold State.modHp
  repeat' first
    | with_reducible rfl
    | with_reducible assumption
    | split
    | (intro _)
    | dsimp only

theorem State_modFs_sys (s : State) (f : Nat) (g : FieldSt → FieldSt) :
    (State.modFs s f g).sys = s.sys := by
  unfold State.modFs
  repeat' first
    | with_reducible rfl
    | with_reducible assumption
    | split
    | (intro _)
    | dsimp only

theorem State_takeFree_sys {s : State} {v0} {tq : State}
    (h : (State.takeFree s) = (v0, tq)) :
    tq.sys = s.sys := by
  revert h
  unfold State.takeFree
  repeat' first
    | with_reducible rfl
    | with_reducible assumption
    | split
    | (intro h1; cases h1)
    | (intro _)
    | dsimp only

theorem State_takeFree_sys2 (s : State) :
    (State.takeFree s).2.sys = s.sys := by
  rcases hq : (State.takeFree s) with ⟨v0, tq⟩; exact State_takeFree_sys  hq

theorem State_setSrc_sys (s : State) (n : Nat) (x : Src) :
    (State.setSrc s n x).sys = s.sys := by
  unfold State.setSrc
  repeat' first
    | with_reducible rfl
    | with_reducible assumption
    | split
    | (intro _)
    | dsimp only

theorem State_setVac_sys (s : State) (hh : Nat) (x : Vac) :
    (State.setVac s hh x).sys = s.sys := by
  unfold State.setVac
  repeat' first
    | with_reducible rfl
    | with_reducible assumption
    | split
    | (intro _)
    | dsimp only

theorem State_fire_sys (s : State) (n : Nat) :
    (State.fire s n).sys = s.sys := by
  unfold State.fire
  repeat' first
    | with_reducible rfl
    | with_reducible assumption
    | simp only [State_setSrc_sys]
    | split
    | (intro _)
    | dsimp only

theorem sendMsg_sys (s : State) (hh v : Nat) :
    (sendMsg s hh v).sys = s.sys := by
  unfold sendMsg
  repeat' first
    | with_reducible rfl
    | with_reducible assumption
    | simp only [State_emit_sys]
    | split
    | (intro _)
    | dsimp only

theorem pvRaise_sys (s : State) (hh b : Nat) :
    (pvRaise s hh b).sys = s.sys := by
  unfold pvRaise
  repeat' first
    | with_reducible rfl
    | with_reducible assumption
    | simp only [State_w0_sys, sendMsg_sys]
    | split
    | (intro _)
    | dsimp only

theorem pvClaimSrcs_sys (s : State) :
    (pvClaimSrcs s).sys = s.sys := by
  unfold pvClaimSrcs
  repeat' first
    | with_reducible rfl
    | with_reducible assumption
    | simp only [State_setSrc_sys, pvRaise_sys]
    | split
    | (intro _)
    | refine Eq.trans (sys_foldl ?_ _ _) ?_
    | refine Eq.trans (sys_foldl_snd ?_ _ _) ?_
    | refine Eq.trans (sys_foldl_fst ?_ _ _) ?_
    | dsimp only

theorem pvClaimOwn_sys (s : State) :
    (pvClaimOwn s).sys = s.sys := by
  unfold pvClaimOwn
  repeat' first
    | with_reducible rfl
    | with_reducible assumption
    | simp only [State_setHd_sys, pvRaise_sys]
    | split
    | (intro _)
    | refine Eq.trans (sys_foldl ?_ _ _) ?_
    | refine Eq.trans (sys_foldl_snd ?_ _ _) ?_
    | refine Eq.trans (sys_foldl_fst ?_ _ _) ?_
    | dsimp only

theorem pvFire_sys (s : State) (hh i : Nat) :
    (pvFire s hh i).sys = s.sys := by
  unfold pvFire
  repeat' first
    | with_reducible rfl
    | with_reducible assumption
    | simp only [State_modHd_sys]
    | split
    | (intro _)
    | dsimp only

theorem settle_sys (s0 s : State) :
    (settle s0 s).sys = s.sys := by
  unfold settle
  repeat' first
    | with_reducible rfl
    | with_reducible assumption
    | simp only [sendMsg_sys, pvClaimSrcs_sys, pvClaimOwn_sys]
    | split
    | (intro _)
    | refine Eq.trans (sys_foldl ?_ _ _) ?_
    | refine Eq.trans (sys_foldl_snd ?_ _ _) ?_
    | refine Eq.trans (sys_foldl_fst ?_ _ _) ?_
    | dsimp only

theorem vacantEvent_sys (s : State) :
    (vacantEvent s).sys = s.sys := by
  unfold vacantEvent
  repeat' first
    | with_reducible rfl
    | with_reducible assumption
    | simp only [State_modHd_sys, State_setVac_sys]
    | split
    | (intro _)
    | refine Eq.trans (sys_foldl ?_ _ _) ?_
    | refine Eq.trans (sys_foldl_snd ?_ _ _) ?_
    | refine Eq.trans (sys_foldl_fst ?_ _ _) ?_
    | dsimp only

theorem holdEvent_sys (s : State) (hh : Nat) (b : BitVec 5) :
    (holdEvent s hh b).sys = s.sys := by
  unfold holdEvent
  repeat' first
    | with_reducible rfl
    | with_reducible assumption
    | simp only [State_modHd_sys, State_fire_sys]
    | split
    | (intro _)
    | dsimp only

theorem quotaHit_sys (s : State) (hh : Nat) :
    (quotaHit s hh).sys = s.sys := by
  unfold quotaHit
  repeat' first
    | with_reducible rfl
    | with_reducible assumption
    | simp only [holdEvent_sys]
    | split
    | (intro _)
    | dsimp only

theorem chanEvent_sys (s : State) (c b : Nat) :
    (chanEvent s c b).sys = s.sys := by
  unfold chanEvent
  repeat' first
    | with_reducible rfl
    | with_reducible assumption
    | simp only [State_orch_sys, State_fire_sys]
    | split
    | (intro _)
    | dsimp only

theorem devEvent_sys (s : State) (a b n : Nat) :
    (devEvent s a b n).sys = s.sys := by
  unfold devEvent
  repeat' first
    | with_reducible rfl
    | with_reducible assumption
    | simp only [State_or2_sys, State_fire_sys]
    | split
    | (intro _)
    | dsimp only

theorem State_raise_sys (s : State) (f : Fire) :
    (State.raise s f).sys = s.sys := by
  unfold State.raise
  repeat' first
    | with_reducible rfl
    | with_reducible assumption
    | split
    | (intro _)
    | dsimp only

theorem roleVacant_sys (s : State) :
    (roleVacant s).sys = s.sys := by
  unfold roleVacant
  repeat' first
    | with_reducible rfl
    | with_reducible assumption
    | simp only [vacantEvent_sys]
    | split
    | (intro _)
    | dsimp only

theorem cellFail_sys (s : State) :
    (cellFail s).sys = s.sys := by
  unfold cellFail
  repeat' first
    | with_reducible rfl
    | with_reducible assumption
    | simp only [devEvent_sys]
    | split
    | (intro _)
    | dsimp only

theorem State_setCells_sys (s : State) (c : Tab Cell) :
    (State.setCells s c).sys = s.sys := by
  unfold State.setCells
  repeat' first
    | with_reducible rfl
    | with_reducible assumption
    | split
    | (intro _)
    | dsimp only

theorem takeCell_sys {s : State} {hh : Nat} {v0} {tq : State}
    (h : (takeCell s hh) = some (v0, tq)) :
    tq.sys = s.sys := by
  revert h
  unfold takeCell
  repeat' first
    | with_reducible rfl
    | with_reducible assumption
    | simp only [State_setCells_sys]
    | split
    | (intro h1; cases h1)
    | (intro _)
    | dsimp only

theorem takeCells_sys {s : State} {hh : Nat} {m0 : Nat} {v0} {tq : State}
    (h : (takeCells s hh m0) = (v0, tq)) :
    tq.sys = s.sys := by
  revert h
  cases m0 <;> unfold takeCells
  all_goals repeat' first
    | with_reducible rfl
    | with_reducible assumption
    | split
    | (intro h1; cases h1)
    | (intro _)
    | refine Eq.trans (takeCell_sys (by assumption)) ?_
    | refine Eq.trans (takeCells_sys  (by assumption)) ?_
    | dsimp only

theorem takeCells_sys2 (s : State) (hh : Nat) (m0 : Nat) :
    (takeCells s hh m0).2.sys = s.sys := by
  rcases hq : (takeCells s hh m0) with ⟨v0, tq⟩; exact takeCells_sys  hq

theorem allocChain_sys {s : State} {hh n : Nat} {v0} {tq : State}
    (h : (allocChain s hh n) = (v0, tq)) :
    tq.sys = s.sys := by
  revert h
  unfold allocChain
  repeat' first
    | with_reducible rfl
    | with_reducible assumption
    | simp only [cellFail_sys, State_setCells_sys]
    | split
    | (intro h1; cases h1)
    | (intro _)
    | refine Eq.trans (takeCells_sys (by assumption)) ?_
    | dsimp only

theorem allocChain_sys2 (s : State) (hh n : Nat) :
    (allocChain s hh n).2.sys = s.sys := by
  rcases hq : (allocChain s hh n) with ⟨v0, tq⟩; exact allocChain_sys  hq

theorem growChain_sys {s : State} {hh : Nat} {head : Option Nat} {v0} {tq : State}
    (h : (growChain s hh head) = some (v0, tq)) :
    tq.sys = s.sys := by
  revert h
  unfold growChain
  repeat' first
    | with_reducible rfl
    | with_reducible assumption
    | simp only [State_setCells_sys]
    | split
    | (intro h1; cases h1)
    | (intro _)
    | refine Eq.trans (takeCell_sys (by assumption)) ?_
    | dsimp only

theorem decRef_sys (s : State) (c who : Nat) :
    (decRef s c who).sys = s.sys := by
  unfold decRef
  repeat' first
    | with_reducible rfl
    | with_reducible assumption
    | simp only [State_cnt2_sys, devEvent_sys, State_raise_sys, State_setCells_sys]
    | split
    | (intro _)
    | dsimp only

theorem incRef_sys {s : State} {c who : Nat} {v0} {tq : State}
    (h : (incRef s c who) = (v0, tq)) :
    tq.sys = s.sys := by
  revert h
  unfold incRef
  repeat' first
    | with_reducible rfl
    | with_reducible assumption
    | simp only [State_cnt2_sys, devEvent_sys, State_raise_sys, State_setCells_sys]
    | split
    | (intro h1; cases h1)
    | (intro _)
    | dsimp only

theorem incRef_sys2 (s : State) (c who : Nat) :
    (incRef s c who).2.sys = s.sys := by
  rcases hq : (incRef s c who) with ⟨v0, tq⟩; exact incRef_sys  hq

theorem State_setFifo_sys (s : State) (k : Nat) (f : Fifo) :
    (State.setFifo s k f).sys = s.sys := by
  unfold State.setFifo
  repeat' first
    | with_reducible rfl
    | with_reducible assumption
    | split
    | (intro _)
    | dsimp only

theorem gapCommitted_sys (s : State) (c : Nat) :
    (gapCommitted s c).sys = s.sys := by
  unfold gapCommitted
  repeat' first
    | with_reducible rfl
    | with_reducible assumption
    | simp only [chanEvent_sys]
    | split
    | (intro _)
    | dsimp only

theorem commitPending_sys {s : State} {k hh : Nat} {v0} {tq : State}
    (h : (commitPending s k hh) = (v0, tq)) :
    tq.sys = s.sys := by
  revert h
  unfold commitPending
  repeat' first
    | with_reducible rfl
    | with_reducible assumption
    | simp only [State_setFifo_sys, gapCommitted_sys]
    | split
    | (intro h1; cases h1)
    | (intro _)
    | refine Eq.trans (allocChain_sys (by assumption)) ?_
    | dsimp only

theorem commitPending_sys2 (s : State) (k hh : Nat) :
    (commitPending s k hh).2.sys = s.sys := by
  rcases hq : (commitPending s k hh) with ⟨v0, tq⟩; exact commitPending_sys  hq

theorem commitWhole_sys {s : State} {k hh lim : Nat} {data : List Byte} {t : DWord} {v0} {tq : State}
    (h : (commitWhole s k hh lim data t) = (v0, tq)) :
    tq.sys = s.sys := by
  revert h
  unfold commitWhole
  repeat' first
    | with_reducible rfl
    | with_reducible assumption
    | simp only [decRef_sys, State_setFifo_sys]
    | split
    | (intro h1; cases h1)
    | (intro _)
    | refine Eq.trans (allocChain_sys (by assumption)) ?_
    | refine Eq.trans (commitPending_sys (by assumption)) ?_
    | dsimp only

theorem commitWhole_sys2 (s : State) (k hh lim : Nat) (data : List Byte) (t : DWord) :
    (commitWhole s k hh lim data t).2.sys = s.sys := by
  rcases hq : (commitWhole s k hh lim data t) with ⟨v0, tq⟩; exact commitWhole_sys  hq

theorem dropItems_sys (s : State) (l : List Item) :
    (dropItems s l).sys = s.sys := by
  unfold dropItems
  repeat' first
    | with_reducible rfl
    | with_reducible assumption
    | simp only [decRef_sys]
    | split
    | (intro _)
    | refine Eq.trans (sys_foldl ?_ _ _) ?_
    | refine Eq.trans (sys_foldl_snd ?_ _ _) ?_
    | refine Eq.trans (sys_foldl_fst ?_ _ _) ?_
    | dsimp only

theorem producerRewind_sys (s : State) (k : Nat) :
    (producerRewind s k).sys = s.sys := by
  unfold producerRewind
  repeat' first
    | with_reducible rfl
    | with_reducible assumption
    | simp only [State_setFifo_sys, dropItems_sys]
    | split
    | (intro _)
    | dsimp only

theorem commitUnc_sys (s : State) (k hh n : Nat) :
    (commitUnc s k hh n).sys = s.sys := by
  unfold commitUnc
  repeat' first
    | with_reducible rfl
    | with_reducible assumption
    | simp only [State_setFifo_sys, commitPending_sys2]
    | split
    | (intro _)
    | refine Eq.trans (commitPending_sys (by assumption)) ?_
    | dsimp only

theorem fifoRelease_sys (s : State) (k n : Nat) :
    (fifoRelease s k n).sys = s.sys := by
  unfold fifoRelease
  repeat' first
    | with_reducible rfl
    | with_reducible assumption
    | simp only [State_setFifo_sys, dropItems_sys]
    | split
    | (intro _)
    | dsimp only

theorem fifoReleaseIn_sys (s : State) (k b : Nat) :
    (fifoReleaseIn s k b).sys = s.sys := by
  unfold fifoReleaseIn
  repeat' first
    | with_reducible rfl
    | with_reducible assumption
    | simp only [State_setCells_sys, State_setFifo_sys]
    | split
    | (intro _)
    | dsimp only

theorem fifoReset_sys (s : State) (k hh : Nat) :
    (fifoReset s k hh).sys = s.sys := by
  unfold fifoReset
  repeat' first
    | with_reducible rfl
    | with_reducible assumption
    | simp only [devEvent_sys, State_raise_sys, State_setFifo_sys, gapCommitted_sys, dropItems_sys]
    | split
    | (intro _)
    | refine Eq.trans (allocChain_sys (by assumption)) ?_
    | dsimp only

theorem fifoFree_sys (s : State) (k : Nat) :
    (fifoFree s k).sys = s.sys := by
  unfold fifoFree
  repeat' first
    | with_reducible rfl
    | with_reducible assumption
    | simp only [dropItems_sys]
    | split
    | (intro _)
    | dsimp only

theorem State_setYoke_sys (s : State) (y : Yoke) :
    (State.setYoke s y).sys = s.sys := by
  unfold State.setYoke
  repeat' first
    | with_reducible rfl
    | with_reducible assumption
    | split
    | (intro _)
    | dsimp only

theorem grantProceed_sys (s : State) (key : Nat) :
    (grantProceed s key).sys = s.sys := by
  unfold grantProceed
  repeat' first
    | with_reducible rfl
    | with_reducible assumption
    | split
    | (intro _)
    | dsimp only

theorem admit_sys (s : State) (r : YReq) :
    (admitReq s r).sys = s.sys := by
  unfold admitReq
  repeat' first
    | with_reducible rfl
    | with_reducible assumption
    | simp only [State_modFs_sys, State_setYoke_sys, grantProceed_sys]
    | split
    | (intro _)
    | dsimp only

theorem admitPass_sys (aged : List Nat) (s : State) :
    (admitPass aged s).sys = s.sys := by
  unfold admitPass
  repeat' first
    | with_reducible rfl
    | with_reducible assumption
    | simp only [admit_sys]
    | split
    | (intro _)
    | refine Eq.trans (sys_foldl ?_ _ _) ?_
    | refine Eq.trans (sys_foldl_snd ?_ _ _) ?_
    | refine Eq.trans (sys_foldl_fst ?_ _ _) ?_
    | dsimp only

theorem recharge_sys (s : State) (f : Nat) :
    (recharge s f).sys = s.sys := by
  unfold recharge
  repeat' first
    | with_reducible rfl
    | with_reducible assumption
    | simp only [State_setYoke_sys]
    | split
    | (intro _)
    | dsimp only

theorem stepBack_sys (s : State) (f : Nat) :
    (stepBack s f).sys = s.sys := by
  unfold stepBack
  repeat' first
    | with_reducible rfl
    | with_reducible assumption
    | simp only [State_modFs_sys, State_setYoke_sys, recharge_sys]
    | split
    | (intro _)
    | dsimp only

theorem stepBacks_sys (s : State) (need : Nat) (m0 : Nat) :
    (stepBacks s need m0).sys = s.sys := by
  cases m0 <;> unfold stepBacks
  all_goals repeat' first
    | with_reducible rfl
    | with_reducible assumption
    | simp only [stepBack_sys]
    | split
    | (intro _)
    | refine Eq.trans (stepBacks_sys ..) ?_
    | dsimp only

theorem recallFor_sys (s : State) (need : Nat) :
    (recallFor s need).sys = s.sys := by
  unfold recallFor
  repeat' first
    | with_reducible rfl
    | with_reducible assumption
    | simp only [State_setYoke_sys, stepBacks_sys]
    | split
    | (intro _)
    | dsimp only

theorem recallPass_sys (s : State) :
    (recallPass s).sys = s.sys := by
  unfold recallPass
  repeat' first
    | with_reducible rfl
    | with_reducible assumption
    | simp only [recallFor_sys]
    | split
    | (intro _)
    | refine Eq.trans (sys_foldl ?_ _ _) ?_
    | refine Eq.trans (sys_foldl_snd ?_ _ _) ?_
    | refine Eq.trans (sys_foldl_fst ?_ _ _) ?_
    | dsimp only

theorem upgradePass_sys (s : State) :
    (upgradePass s).sys = s.sys := by
  unfold upgradePass
  repeat' first
    | with_reducible rfl
    | with_reducible assumption
    | simp only [State_setYoke_sys, recharge_sys]
    | split
    | (intro _)
    | refine Eq.trans (sys_foldl ?_ _ _) ?_
    | refine Eq.trans (sys_foldl_snd ?_ _ _) ?_
    | refine Eq.trans (sys_foldl_fst ?_ _ _) ?_
    | dsimp only

theorem releaseGrant_sys (s : State) (key : Nat) :
    (releaseGrant s key).sys = s.sys := by
  unfold releaseGrant
  repeat' first
    | with_reducible rfl
    | with_reducible assumption
    | simp only [State_setYoke_sys]
    | split
    | (intro _)
    | dsimp only

theorem releaseCtx_sys (s : State) (key : Nat) :
    (releaseCtx s key).sys = s.sys := by
  unfold releaseCtx
  repeat' first
    | with_reducible rfl
    | with_reducible assumption
    | simp only [State_setYoke_sys, releaseGrant_sys]
    | split
    | (intro _)
    | refine Eq.trans (sys_foldl ?_ _ _) ?_
    | refine Eq.trans (sys_foldl_snd ?_ _ _) ?_
    | refine Eq.trans (sys_foldl_fst ?_ _ _) ?_
    | dsimp only

theorem askGrant_sys (s : State) (r : YReq) :
    (askGrant s r).sys = s.sys := by
  unfold askGrant
  repeat' first
    | with_reducible rfl
    | with_reducible assumption
    | simp only [State_setYoke_sys]
    | split
    | (intro _)
    | dsimp only

theorem claimPll_sys (s : State) (i : Nat) :
    (claimPll s i).sys = s.sys := by
  unfold claimPll
  repeat' first
    | with_reducible rfl
    | with_reducible assumption
    | simp only [State_setYoke_sys]
    | split
    | (intro _)
    | dsimp only

theorem askVolt_sys (s : State) (mv : Nat) :
    (askVolt s mv).sys = s.sys := by
  unfold askVolt
  repeat' first
    | with_reducible rfl
    | with_reducible assumption
    | simp only [State_emit_sys]
    | split
    | (intro _)
    | dsimp only

theorem envAdvance_sys (s : State) :
    (envAdvance s).sys = s.sys := by
  unfold envAdvance
  repeat' first
    | with_reducible rfl
    | with_reducible assumption
    | simp only [State_put2_sys, State_modFs_sys, State_setYoke_sys, askVolt_sys]
    | split
    | (intro _)
    | refine Eq.trans (sys_foldl ?_ _ _) ?_
    | refine Eq.trans (sys_foldl_snd ?_ _ _) ?_
    | refine Eq.trans (sys_foldl_fst ?_ _ _) ?_
    | dsimp only

theorem setCause_sys (s : State) (n : Nat) (b : Bool) :
    (setCause s n b).sys = s.sys := by
  unfold setCause
  repeat' first
    | with_reducible rfl
    | with_reducible assumption
    | split
    | (intro _)
    | dsimp only

theorem writeDev_sys (s : State) (hh off : Nat) (bs : List Byte) :
    (writeDev s hh off bs).sys = s.sys := by
  unfold writeDev
  repeat' first
    | with_reducible rfl
    | with_reducible assumption
    | split
    | (intro _)
    | dsimp only

theorem State_setJob_sys (s : State) (j : Jobs) :
    (State.setJob s j).sys = s.sys := by
  unfold State.setJob
  repeat' first
    | with_reducible rfl
    | with_reducible assumption
    | split
    | (intro _)
    | dsimp only

theorem newHandle_sys {s : State} {typ hh ref : Nat} {v0} {tq : State}
    (h : (newHandle s typ hh ref) = some (v0, tq)) :
    tq.sys = s.sys := by
  revert h
  unfold newHandle
  repeat' first
    | with_reducible rfl
    | with_reducible assumption
    | simp only [State_setJob_sys]
    | split
    | (intro h1; cases h1)
    | (intro _)
    | dsimp only

theorem freeSlot_sys (s : State) (slot : Nat) :
    (freeSlot s slot).sys = s.sys := by
  unfold freeSlot
  repeat' first
    | with_reducible rfl
    | with_reducible assumption
    | simp only [State_setJob_sys]
    | split
    | (intro _)
    | dsimp only

theorem State_setVid_sys (s : State) (v : Vid) :
    (State.setVid s v).sys = s.sys := by
  unfold State.setVid
  repeat' first
    | with_reducible rfl
    | with_reducible assumption
    | split
    | (intro _)
    | dsimp only

theorem State_setChan_sys (s : State) (c : Nat) (x : Chan) :
    (State.setChan s c x).sys = s.sys := by
  unfold State.setChan
  repeat' first
    | with_reducible rfl
    | with_reducible assumption
    | simp only [State_setVid_sys]
    | split
    | (intro _)
    | dsimp only

theorem State_modChan_sys (s : State) (c : Nat) (f : Chan → Chan) :
    (State.modChan s c f).sys = s.sys := by
  unfold State.modChan
  repeat' first
    | with_reducible rfl
    | with_reducible assumption
    | simp only [State_setVid_sys]
    | split
    | (intro _)
    | dsimp only

theorem State_setBuf_sys (s : State) (n : Nat) (x : Buf) :
    (State.setBuf s n x).sys = s.sys := by
  unfold State.setBuf
  repeat' first
    | with_reducible rfl
    | with_reducible assumption
    | simp only [State_setVid_sys]
    | split
    | (intro _)
    | dsimp only

theorem State_modBuf_sys (s : State) (n : Nat) (f : Buf → Buf) :
    (State.modBuf s n f).sys = s.sys := by
  unfold State.modBuf
  repeat' first
    | with_reducible rfl
    | with_reducible assumption
    | simp only [State_setVid_sys]
    | split
    | (intro _)
    | dsimp only

theorem State_addBuf_sys (s : State) (x : Buf) :
    (State.addBuf s x).sys = s.sys := by
  unfold State.addBuf
  repeat' first
    | with_reducible rfl
    | with_reducible assumption
    | simp only [State_setVid_sys]
    | split
    | (intro _)
    | dsimp only

theorem chargeDram_sys (s : State) (hh n : Nat) :
    (chargeDram s hh n).sys = s.sys := by
  unfold chargeDram
  repeat' first
    | with_reducible rfl
    | with_reducible assumption
    | simp only [State_modHd_sys]
    | split
    | (intro _)
    | dsimp only

theorem refundDram_sys (s : State) (hh n : Nat) :
    (refundDram s hh n).sys = s.sys := by
  unfold refundDram
  repeat' first
    | with_reducible rfl
    | with_reducible assumption
    | simp only [State_modHd_sys]
    | split
    | (intro _)
    | dsimp only

theorem reapBuf_sys (s : State) (n : Nat) :
    (reapBuf s n).sys = s.sys := by
  unfold reapBuf
  repeat' first
    | with_reducible rfl
    | with_reducible assumption
    | simp only [State_setVid_sys, refundDram_sys]
    | split
    | (intro _)
    | dsimp only

theorem reapBufs_sys (s : State) (l : List Nat) :
    (reapBufs s l).sys = s.sys := by
  unfold reapBufs
  repeat' first
    | with_reducible rfl
    | with_reducible assumption
    | simp only [reapBuf_sys]
    | split
    | (intro _)
    | refine Eq.trans (sys_foldl ?_ _ _) ?_
    | refine Eq.trans (sys_foldl_snd ?_ _ _) ?_
    | refine Eq.trans (sys_foldl_fst ?_ _ _) ?_
    | dsimp only

theorem homeMove_sys (s : State) (c : Nat) :
    (homeMove s c).sys = s.sys := by
  unfold homeMove
  repeat' first
    | with_reducible rfl
    | with_reducible assumption
    | simp only [State_modChan_sys]
    | split
    | (intro _)
    | dsimp only

theorem beginChan_sys (s : State) (c : Nat) :
    (beginChan s c).sys = s.sys := by
  unfold beginChan
  repeat' first
    | with_reducible rfl
    | with_reducible assumption
    | simp only [State_modChan_sys]
    | split
    | (intro _)
    | dsimp only

theorem State_setSq_sys (s : State) (k : Nat) (x : Sq) :
    (State.setSq s k x).sys = s.sys := by
  unfold State.setSq
  repeat' first
    | with_reducible rfl
    | with_reducible assumption
    | simp only [State_setJob_sys]
    | split
    | (intro _)
    | dsimp only

theorem State_setCq_sys (s : State) (k : Nat) (x : Cq) :
    (State.setCq s k x).sys = s.sys := by
  unfold State.setCq
  repeat' first
    | with_reducible rfl
    | with_reducible assumption
    | simp only [State_setJob_sys]
    | split
    | (intro _)
    | dsimp only

theorem cqWrite_sys (s : State) (k : Nat) (e : Cqe) :
    (cqWrite s k e).sys = s.sys := by
  unfold cqWrite
  repeat' first
    | with_reducible rfl
    | with_reducible assumption
    | simp only [State_emit_sys, State_fire_sys, State_setJob_sys]
    | split
    | (intro _)
    | dsimp only

theorem cqPost_sys {s : State} {k : Nat} {e : Cqe} {tq : State}
    (h : (cqPost s k e) = some tq) :
    tq.sys = s.sys := by
  revert h
  unfold cqPost
  repeat' first
    | with_reducible rfl
    | with_reducible assumption
    | simp only [State_fire_sys, State_setCq_sys, cqWrite_sys]
    | split
    | (intro h1; cases h1)
    | (intro _)
    | dsimp only

theorem cqDrain_sys (s : State) (k : Nat) (m0 : Nat) :
    (cqDrain s k m0).sys = s.sys := by
  cases m0 <;> unfold cqDrain
  all_goals repeat' first
    | with_reducible rfl
    | with_reducible assumption
    | simp only [State_setJob_sys, State_setCq_sys, cqWrite_sys]
    | split
    | (intro _)
    | refine Eq.trans (cqDrain_sys ..) ?_
    | dsimp only

theorem State_setCtx_sys (s : State) (k : Nat) (x : Ctx) :
    (State.setCtx s k x).sys = s.sys := by
  unfold State.setCtx
  repeat' first
    | with_reducible rfl
    | with_reducible assumption
    | simp only [State_setJob_sys]
    | split
    | (intro _)
    | dsimp only

theorem State_modCtx_sys (s : State) (k : Nat) (f : Ctx → Ctx) :
    (State.modCtx s k f).sys = s.sys := by
  unfold State.modCtx
  repeat' first
    | with_reducible rfl
    | with_reducible assumption
    | simp only [State_setJob_sys]
    | split
    | (intro _)
    | dsimp only

theorem countIssue_sys (s : State) (k : Nat) :
    (countIssue s k).sys = s.sys := by
  unfold countIssue
  repeat' first
    | with_reducible rfl
    | with_reducible assumption
    | simp only [State_addq2_sys, State_setJob_sys, State_modCtx_sys]
    | split
    | (intro _)
    | dsimp only

theorem endJob_sys (s : State) (k status : Nat) (result : DWord) :
    (endJob s k status result).sys = s.sys := by
  unfold endJob
  repeat' first
    | with_reducible rfl
    | with_reducible assumption
    | simp only [State_modCtx_sys]
    | split
    | (intro _)
    | dsimp only

theorem faultAt_sys (s : State) (k status off : Nat) :
    (faultAt s k status off).sys = s.sys := by
  unfold faultAt
  repeat' first
    | with_reducible rfl
    | with_reducible assumption
    | simp only [State_modCtx_sys, endJob_sys]
    | split
    | (intro _)
    | dsimp only

theorem faultJob_sys (s : State) (k status : Nat) :
    (faultJob s k status).sys = s.sys := by
  unfold faultJob
  repeat' first
    | with_reducible rfl
    | with_reducible assumption
    | simp only [faultAt_sys]
    | split
    | (intro _)
    | dsimp only

theorem issue_sys (op : Nat) (is : Ins → Bool) (f c : Nat) (s : State) (body : State → Nat → Ctx → Ins → State)
    (hbody : ∀ x0 x1 x2 x3, x0.sys = s.sys → (body x0 x1 x2 x3).sys = s.sys) :
    (issue op is f c s body).sys = s.sys := by
  unfold issue
  repeat' first
    | with_reducible rfl
    | with_reducible assumption
    | simp only [countIssue_sys, faultJob_sys]
    | split
    | (intro _)
    | refine hbody _ _ _ _ ?_
    | dsimp only

theorem issueCtx_sys (op : Nat) (is : Ins → Bool) (f c : Nat) (s : State) (g : Ctx → Ins → Ctx) :
    (issueCtx op is f c s g).sys = s.sys := by
  unfold issueCtx
  repeat' first
    | with_reducible rfl
    | with_reducible assumption
    | simp only [State_setCtx_sys]
    | split
    | (intro _)
    | refine Eq.trans (issue_sys _ _ _ _ _ _ ?_) ?_
    | dsimp only

theorem startWork_sys (s : State) (k : Nat) (x : Ctx) (i : Ins) (w : Work) :
    (startWork s k x i w).sys = s.sys := by
  unfold startWork
  repeat' first
    | with_reducible rfl
    | with_reducible assumption
    | simp only [State_setJob_sys, State_setCtx_sys]
    | split
    | (intro _)
    | dsimp only

theorem endWork_sys (s : State) (n : Nat) (v : DWord) :
    (endWork s n v).sys = s.sys := by
  unfold endWork
  repeat' first
    | with_reducible rfl
    | with_reducible assumption
    | simp only [State_setJob_sys, reapBufs_sys, State_modCtx_sys]
    | split
    | (intro _)
    | dsimp only

theorem withEngine_sys (m : Nat) (live : Bool) (s0 s : State) (k : Nat) (x : Ctx) (body : State)
    (hs0_ : s0.sys = s.sys)
    (hbody_ : body.sys = s.sys) :
    (withEngine m live s0 s k x body).sys = s.sys := by
  unfold withEngine
  repeat' first
    | with_reducible rfl
    | with_reducible assumption
    | simp only [askGrant_sys, State_modCtx_sys, faultJob_sys]
    | split
    | (intro _)
    | exact hs0_
    | exact hbody_
    | dsimp only

theorem askSpan_sys (s : State) (k : Nat) (x : Ctx) (live : Bool) (fields : List Nat) :
    (askSpan s k x live fields).sys = s.sys := by
  unfold askSpan
  repeat' first
    | with_reducible rfl
    | with_reducible assumption
    | simp only [askGrant_sys]
    | split
    | (intro _)
    | refine Eq.trans (sys_foldl ?_ _ _) ?_
    | refine Eq.trans (sys_foldl_snd ?_ _ _) ?_
    | refine Eq.trans (sys_foldl_fst ?_ _ _) ?_
    | dsimp only

theorem State_setIng_sys (s : State) (x : Ing) :
    (State.setIng s x).sys = s.sys := by
  unfold State.setIng
  repeat' first
    | with_reducible rfl
    | with_reducible assumption
    | split
    | (intro _)
    | dsimp only

theorem State_setEgr_sys (s : State) (x : Egr) :
    (State.setEgr s x).sys = s.sys := by
  unfold State.setEgr
  repeat' first
    | with_reducible rfl
    | with_reducible assumption
    | split
    | (intro _)
    | dsimp only

theorem dropPkts_sys (s : State) (l : List Pkt) :
    (dropPkts s l).sys = s.sys := by
  unfold dropPkts
  repeat' first
    | with_reducible rfl
    | with_reducible assumption
    | simp only [decRef_sys]
    | split
    | (intro _)
    | refine Eq.trans (sys_foldl ?_ _ _) ?_
    | refine Eq.trans (sys_foldl_snd ?_ _ _) ?_
    | refine Eq.trans (sys_foldl_fst ?_ _ _) ?_
    | dsimp only

theorem endIngFlow_sys (s : State) (t : Nat) :
    (endIngFlow s t).sys = s.sys := by
  unfold endIngFlow
  repeat' first
    | with_reducible rfl
    | with_reducible assumption
    | simp only [State_putch_sys, freeSlot_sys, State_setIng_sys, dropPkts_sys]
    | split
    | (intro _)
    | dsimp only

theorem dropRefs_sys (s : State) (l : List Nat) :
    (dropRefs s l).sys = s.sys := by
  unfold dropRefs
  repeat' first
    | with_reducible rfl
    | with_reducible assumption
    | simp only [decRef_sys]
    | split
    | (intro _)
    | refine Eq.trans (sys_foldl ?_ _ _) ?_
    | refine Eq.trans (sys_foldl_snd ?_ _ _) ?_
    | refine Eq.trans (sys_foldl_fst ?_ _ _) ?_
    | dsimp only

theorem dropTs_sys (s : State) (l : List TsPkt) :
    (dropTs s l).sys = s.sys := by
  unfold dropTs
  repeat' first
    | with_reducible rfl
    | with_reducible assumption
    | simp only [decRef_sys, dropRefs_sys]
    | split
    | (intro _)
    | refine Eq.trans (sys_foldl ?_ _ _) ?_
    | refine Eq.trans (sys_foldl_snd ?_ _ _) ?_
    | refine Eq.trans (sys_foldl_fst ?_ _ _) ?_
    | dsimp only

theorem endEgrFlow_sys (s : State) (e : Nat) :
    (endEgrFlow s e).sys = s.sys := by
  unfold endEgrFlow
  repeat' first
    | with_reducible rfl
    | with_reducible assumption
    | simp only [freeSlot_sys, State_setEgr_sys, dropRefs_sys, dropTs_sys]
    | split
    | (intro _)
    | dsimp only

theorem ingestRemoveHold_sys (s : State) (hh : Nat) :
    (ingestRemoveHold s hh).sys = s.sys := by
  unfold ingestRemoveHold
  repeat' first
    | with_reducible rfl
    | with_reducible assumption
    | simp only [State_put2_sys, State_setIng_sys, endIngFlow_sys]
    | split
    | (intro _)
    | refine Eq.trans (sys_foldl ?_ _ _) ?_
    | refine Eq.trans (sys_foldl_snd ?_ _ _) ?_
    | refine Eq.trans (sys_foldl_fst ?_ _ _) ?_
    | dsimp only

theorem egressRemoveHold_sys (s : State) (hh : Nat) :
    (egressRemoveHold s hh).sys = s.sys := by
  unfold egressRemoveHold
  repeat' first
    | with_reducible rfl
    | with_reducible assumption
    | simp only [endEgrFlow_sys]
    | split
    | (intro _)
    | refine Eq.trans (sys_foldl ?_ _ _) ?_
    | refine Eq.trans (sys_foldl_snd ?_ _ _) ?_
    | refine Eq.trans (sys_foldl_fst ?_ _ _) ?_
    | dsimp only

theorem failChannel_sys (s : State) (c : Nat) :
    (failChannel s c).sys = s.sys := by
  unfold failChannel
  repeat' first
    | with_reducible rfl
    | with_reducible assumption
    | simp only [chanEvent_sys, State_setChan_sys, reapBufs_sys, endWork_sys]
    | split
    | (intro _)
    | refine Eq.trans (sys_foldl ?_ _ _) ?_
    | refine Eq.trans (sys_foldl_snd ?_ _ _) ?_
    | refine Eq.trans (sys_foldl_fst ?_ _ _) ?_
    | dsimp only

theorem closeChannel_sys (s : State) (c : Nat) :
    (closeChannel s c).sys = s.sys := by
  unfold closeChannel
  repeat' first
    | with_reducible rfl
    | with_reducible assumption
    | simp only [fifoFree_sys, refundDram_sys, reapBufs_sys]
    | split
    | (intro _)
    | dsimp only

theorem unwait_sys (s : State) (k : Nat) :
    (unwait s k).sys = s.sys := by
  unfold unwait
  repeat' first
    | with_reducible rfl
    | with_reducible assumption
    | simp only [State_setJob_sys]
    | split
    | (intro _)
    | dsimp only

theorem cancelCtx_sys (s : State) (k : Nat) :
    (cancelCtx s k).sys = s.sys := by
  unfold cancelCtx
  repeat' first
    | with_reducible rfl
    | with_reducible assumption
    | simp only [State_cnt0_sys, releaseCtx_sys, State_setJob_sys, reapBufs_sys, unwait_sys]
    | split
    | (intro _)
    | dsimp only

theorem dropQueues_sys (s : State) (hh : Nat) :
    (dropQueues s hh).sys = s.sys := by
  unfold dropQueues
  repeat' first
    | with_reducible rfl
    | with_reducible assumption
    | simp only [State_w0_sys, State_put0_sys, State_cnt0_sys, State_setJob_sys]
    | split
    | (intro _)
    | refine Eq.trans (sys_foldl ?_ _ _) ?_
    | refine Eq.trans (sys_foldl_snd ?_ _ _) ?_
    | refine Eq.trans (sys_foldl_fst ?_ _ _) ?_
    | dsimp only

theorem stopRings_sys (s : State) (hh : Nat) :
    (stopRings s hh).sys = s.sys := by
  unfold stopRings
  repeat' first
    | with_reducible rfl
    | with_reducible assumption
    | simp only [State_put0_sys, decRef_sys]
    | split
    | (intro _)
    | refine Eq.trans (sys_foldl ?_ _ _) ?_
    | refine Eq.trans (sys_foldl_snd ?_ _ _) ?_
    | refine Eq.trans (sys_foldl_fst ?_ _ _) ?_
    | dsimp only

theorem clearRole_sys (s : State) (hh : Nat) :
    (clearRole s hh).sys = s.sys := by
  unfold clearRole clearSources
  repeat' first
    | with_reducible rfl
    | split
    | dsimp only

theorem teardownStart_sys (s : State) (hh : Nat) (td : Td) :
    (teardownStart s hh td).sys = s.sys := by
  unfold teardownStart
  repeat' first
    | with_reducible rfl
    | with_reducible assumption
    | simp only [State_setHd_sys, roleVacant_sys, ingestRemoveHold_sys, egressRemoveHold_sys, cancelCtx_sys, dropQueues_sys, stopRings_sys, clearRole_sys]
    | split
    | (intro _)
    | refine Eq.trans (sys_foldl ?_ _ _) ?_
    | refine Eq.trans (sys_foldl_snd ?_ _ _) ?_
    | refine Eq.trans (sys_foldl_fst ?_ _ _) ?_
    | dsimp only

theorem State_setFlt_sys (s : State) (x : Flt) :
    (State.setFlt s x).sys = s.sys := by
  unfold State.setFlt
  repeat' first
    | with_reducible rfl
    | with_reducible assumption
    | split
    | (intro _)
    | dsimp only

theorem logFault_sys (s : State) (sev : Nat) (f : Fire) :
    (logFault s sev f).sys = s.sys := by
  unfold logFault
  repeat' first
    | with_reducible rfl
    | with_reducible assumption
    | simp only [State_setFlt_sys]
    | split
    | (intro _)
    | dsimp only

theorem resetBar0_sys (s : State) (hh : Nat) :
    (resetBar0 s hh).sys = s.sys := by
  unfold resetBar0
  repeat' first
    | with_reducible rfl
    | with_reducible assumption
    | split
    | (intro _)
    | dsimp only

theorem clearEnable_sys (s : State) (hh : Nat) :
    (clearEnable s hh).sys = s.sys := by
  unfold clearEnable
  repeat' first
    | with_reducible rfl
    | with_reducible assumption
    | simp only [State_setHd_sys, teardownStart_sys, resetBar0_sys]
    | split
    | (intro _)
    | dsimp only

theorem enterSafe_sys (s : State) :
    (enterSafe s).sys = s.sys := by
  unfold enterSafe
  repeat' first
    | with_reducible rfl
    | with_reducible assumption
    | simp only [State_setFlt_sys]
    | split
    | (intro _)
    | dsimp only

theorem faultAct_sys (s : State) (sev : Nat) (f : Fire) :
    (faultAct s sev f).sys = s.sys := by
  unfold faultAct
  repeat' first
    | with_reducible rfl
    | with_reducible assumption
    | simp only [State_modHd_sys, failChannel_sys, clearEnable_sys, enterSafe_sys]
    | split
    | (intro _)
    | dsimp only

theorem recordFault_sys (s : State) (f : Fire) :
    (recordFault s f).sys = s.sys := by
  unfold recordFault
  repeat' first
    | with_reducible rfl
    | with_reducible assumption
    | simp only [State_fire_sys, State_setFlt_sys, logFault_sys, faultAct_sys]
    | split
    | (intro _)
    | dsimp only

theorem recordAll_sys (s : State) (m0 : Nat) :
    (recordAll s m0).sys = s.sys := by
  cases m0 <;> unfold recordAll
  all_goals repeat' first
    | with_reducible rfl
    | with_reducible assumption
    | simp only [State_setFlt_sys, recordFault_sys]
    | split
    | (intro _)
    | refine Eq.trans (sys_foldl ?_ _ _) ?_
    | refine Eq.trans (sys_foldl_snd ?_ _ _) ?_
    | refine Eq.trans (sys_foldl_fst ?_ _ _) ?_
    | refine Eq.trans (recordAll_sys ..) ?_
    | dsimp only

theorem finish_sys (s0 s : State) :
    (finish s0 s).sys = s.sys := by
  unfold finish
  repeat' first
    | with_reducible rfl
    | with_reducible assumption
    | simp only [settle_sys, recordAll_sys]
    | split
    | (intro _)
    | dsimp only

theorem adminWrite_sys (s : State) (w : Nat) (g : State → State)
    (hg : ∀ x0, x0.sys = s.sys → (g x0).sys = s.sys) :
    (adminWrite s w g).sys = s.sys := by
  unfold adminWrite
  repeat' first
    | with_reducible rfl
    | with_reducible assumption
    | simp only [State_cnt2_sys]
    | split
    | (intro _)
    | refine hg _ ?_
    | dsimp only

theorem outSys_done (s0 s : State) (d : Sys) : outSys (done s0 s) d = s.sys := finish_sys s0 s

theorem State_setPvq_sys (s : State) (hh : Nat) (x : Pv) :
    (State.setPvq s hh x).sys = s.sys := by
  unfold State.setPvq
  repeat' first
    | with_reducible rfl
    | with_reducible assumption
    | split
    | (intro _)
    | dsimp only

theorem pvWrite_sys (s : State) (hh : Nat) (e : PvCqe) :
    (pvWrite s hh e).sys = s.sys := by
  unfold pvWrite
  repeat' first
    | with_reducible rfl
    | with_reducible assumption
    | simp only [State_w0_sys, State_put0_sys, State_emit_sys, State_fire_sys, pvFire_sys, State_setPvq_sys]
    | split
    | (intro _)
    | dsimp only

theorem pvPost_sys {s : State} {hh : Nat} {e : PvCqe} {tq : State}
    (h : (pvPost s hh e) = some tq) :
    tq.sys = s.sys := by
  revert h
  unfold pvPost
  repeat' first
    | with_reducible rfl
    | with_reducible assumption
    | simp only [pvRaise_sys, State_setPvq_sys, pvWrite_sys]
    | split
    | (intro h1; cases h1)
    | (intro _)
    | dsimp only

theorem pvDrain_sys (s : State) (hh : Nat) (m0 : Nat) :
    (pvDrain s hh m0).sys = s.sys := by
  cases m0 <;> unfold pvDrain
  all_goals repeat' first
    | with_reducible rfl
    | with_reducible assumption
    | simp only [State_setPvq_sys, pvWrite_sys]
    | split
    | (intro _)
    | refine Eq.trans (pvDrain_sys ..) ?_
    | dsimp only

theorem stopIdleTest_sys (s : State) (f : Nat) :
    (stopIdleTest s f).sys = s.sys := by
  unfold stopIdleTest
  repeat' first
    | with_reducible rfl
    | with_reducible assumption
    | simp only [State_modFs_sys, State_setYoke_sys, releaseGrant_sys]
    | split
    | (intro _)
    | dsimp only

theorem askBase_sys (s : State) (k hh : Nat) :
    (askBase s k hh).sys = s.sys := by
  unfold askBase
  repeat' first
    | with_reducible rfl
    | with_reducible assumption
    | simp only [admit_sys, askGrant_sys]
    | split
    | (intro _)
    | dsimp only

theorem placeJob_sys (s : State) (hh q : Nat) (x : Sq) (e : List DWord) (rest : List (List DWord)) (f : Nat) :
    (placeJob s hh q x e rest f).sys = s.sys := by
  unfold placeJob
  repeat' first
    | with_reducible rfl
    | with_reducible assumption
    | simp only [State_setJob_sys, stopIdleTest_sys, askBase_sys]
    | split
    | (intro _)
    | dsimp only

theorem takeMore_sys (s : State) (hh q : Nat) (x : Sq) (e : List DWord) (rest : List (List DWord)) :
    (takeMore s hh q x e rest).sys = s.sys := by
  unfold takeMore
  repeat' first
    | with_reducible rfl
    | with_reducible assumption
    | simp only [State_setSq_sys, State_modCtx_sys]
    | split
    | (intro _)
    | dsimp only

theorem cutSheaf_sys (s : State) (k : Nat) :
    (cutSheaf s k).sys = s.sys := by
  unfold cutSheaf
  repeat' first
    | with_reducible rfl
    | with_reducible assumption
    | simp only [State_setCtx_sys, faultAt_sys]
    | split
    | (intro _)
    | dsimp only

theorem drainSq_sys (s : State) (hh q : Nat) (m0 : Nat) :
    (drainSq s hh q m0).sys = s.sys := by
  cases m0 <;> unfold drainSq
  all_goals repeat' first
    | with_reducible rfl
    | with_reducible assumption
    | simp only [State_setSq_sys, takeMore_sys, cutSheaf_sys]
    | split
    | (intro _)
    | refine Eq.trans (drainSq_sys ..) ?_
    | dsimp only

theorem execJobPlace_sys (hh q : Nat) (s : State) :
    outSys (execJobPlace hh q s) s.sys = s.sys := by
  unfold execJobPlace
  repeat' first
    | with_reducible rfl
    | with_reducible assumption
    | simp only [placeJob_sys, drainSq_sys, outSys_next]
    | split
    | (intro _)
    | refine Eq.trans (issue_sys _ _ _ _ _ _ ?_) ?_
    | dsimp only

theorem execIssueStarvationOverride_sys (f c : Nat) (s : State) :
    outSys (execIssueStarvationOverride f c s) s.sys = s.sys := by
  unfold execIssueStarvationOverride
  repeat' first
    | with_reducible rfl
    | with_reducible assumption
    | simp only [State_setJob_sys, outSys_next]
    | split
    | (intro _)
    | dsimp only

theorem execProgramLineFetch_sys (f c : Nat) (line : List DWord) (s : State) :
    outSys (execProgramLineFetch f c line s) s.sys = s.sys := by
  unfold execProgramLineFetch
  repeat' first
    | with_reducible rfl
    | with_reducible assumption
    | simp only [State_addq0_sys, State_setCtx_sys, faultJob_sys, outSys_next, outSys_done]
    | split
    | (intro _)
    | dsimp only

theorem execJobFieldMove_sys (f c : Nat) (s : State) :
    outSys (execJobFieldMove f c s) s.sys = s.sys := by
  unfold execJobFieldMove
  repeat' first
    | with_reducible rfl
    | with_reducible assumption
    | simp only [releaseCtx_sys, State_setJob_sys, stopIdleTest_sys, askBase_sys, outSys_next]
    | split
    | (intro _)
    | dsimp only

theorem execChannelHomeMove_sys (c us : Nat) (s : State) :
    outSys (execChannelHomeMove c us s) s.sys = s.sys := by
  unfold execChannelHomeMove
  repeat' first
    | with_reducible rfl
    | with_reducible assumption
    | simp only [State_addqch_sys, State_modChan_sys, homeMove_sys, outSys_next]
    | split
    | (intro _)
    | dsimp only

end Sys2Proof.Machine
end

