-- ==== Sys2Proof/Laws/Fuse2.lean ====
section
/-! SUPPORT. What leaves fuses alone, part 2: the fuses and the boot state stay through the operations of: Rings,
Admin, BaulkOps, Arith, Order, Channels, Params, Pictures, StatOps. One lemma per function. -/

set_option linter.unusedSimpArgs false
set_option linter.unusedVariables false

namespace Sys2Proof.Machine

open State

theorem execSqDoorbell_sys (hh q : Nat) (v : Word) (s : State) :
    outSys (execSqDoorbell hh q v s) s.sys = s.sys := by
  unfold execSqDoorbell
  repeat' first
    | with_reducible rfl
    | with_reducible assumption
    | simp only [State_setSq_sys, outSys_next]
    | split
    | (intro _)
    | dsimp only

theorem admPost_sys {s : State} {hh tag status : Nat} {result : DWord} {tq : State}
    (h : (admPost s hh tag status result) = some tq) :
    tq.sys = s.sys := by
  revert h
  unfold admPost
  repeat' first
    | with_reducible rfl
    | with_reducible assumption
    | split
    | (intro h1; cases h1)
    | (intro _)
    | refine Eq.trans (cqPost_sys (by assumption)) ?_
    | dsimp only

theorem admFlush_sys (s : State) (hh : Nat) (m0 : Nat) :
    (admFlush s hh m0).sys = s.sys := by
  cases m0 <;> unfold admFlush
  all_goals repeat' first
    | with_reducible rfl
    | with_reducible assumption
    | simp only [State_modHd_sys]
    | split
    | (intro _)
    | refine Eq.trans (admPost_sys (by assumption)) ?_
    | refine Eq.trans (admFlush_sys ..) ?_
    | dsimp only

theorem execCqDoorbell_sys (hh q : Nat) (v : Word) (s : State) :
    outSys (execCqDoorbell hh q v s) s.sys = s.sys := by
  unfold execCqDoorbell
  repeat' first
    | with_reducible rfl
    | with_reducible assumption
    | simp only [State_setCq_sys, cqDrain_sys, admFlush_sys, outSys_next, outSys_done]
    | split
    | (intro _)
    | dsimp only

theorem takeAdm_sys (s : State) (hh : Nat) (e : List DWord) :
    (takeAdm s hh e).sys = s.sys := by
  unfold takeAdm
  repeat' first
    | with_reducible rfl
    | with_reducible assumption
    | simp only [State_modHd_sys, State_setSq_sys]
    | split
    | (intro _)
    | dsimp only

theorem takeGroup_sys (s : State) (hh q : Nat) (x : Sq) (es : List (List DWord)) :
    (takeGroup s hh q x es).sys = s.sys := by
  unfold takeGroup
  repeat' first
    | with_reducible rfl
    | with_reducible assumption
    | simp only [State_setSq_sys, drainSq_sys, admFlush_sys, takeAdm_sys]
    | split
    | (intro _)
    | refine Eq.trans (sys_foldl ?_ _ _) ?_
    | refine Eq.trans (sys_foldl_snd ?_ _ _) ?_
    | refine Eq.trans (sys_foldl_fst ?_ _ _) ?_
    | dsimp only

theorem execSqEntryTake_sys (hh q : Nat) (es : List (List DWord)) (s : State) :
    outSys (execSqEntryTake hh q es s) s.sys = s.sys := by
  unfold execSqEntryTake
  repeat' first
    | with_reducible rfl
    | with_reducible assumption
    | simp only [takeGroup_sys, outSys_next, outSys_done]
    | split
    | (intro _)
    | dsimp only

theorem pvReread_sys (s : State) (hh q : Nat) (d : List Word) :
    (pvReread s hh q d).sys = s.sys := by
  unfold pvReread
  repeat' first
    | with_reducible rfl
    | with_reducible assumption
    | simp only [State_setPvq_sys]
    | split
    | (intro _)
    | dsimp only

theorem execSqPhaseRetry_sys (hh q : Nat) (e : List DWord) (s : State) :
    outSys (execSqPhaseRetry hh q e s) s.sys = s.sys := by
  unfold execSqPhaseRetry
  repeat' first
    | with_reducible rfl
    | with_reducible assumption
    | simp only [takeGroup_sys, pvReread_sys, outSys_next, outSys_done]
    | split
    | (intro _)
    | dsimp only

theorem sqReadFail_sys (s : State) (hh q : Nat) :
    (sqReadFail s hh q).sys = s.sys := by
  unfold sqReadFail
  repeat' first
    | with_reducible rfl
    | with_reducible assumption
    | simp only [State_cnt0_sys, State_raise_sys, State_setSq_sys, State_setPvq_sys]
    | split
    | (intro _)
    | dsimp only

theorem execSqReadFail_sys (hh q : Nat) (s : State) :
    outSys (execSqReadFail hh q s) s.sys = s.sys := by
  unfold execSqReadFail
  repeat' first
    | with_reducible rfl
    | with_reducible assumption
    | simp only [sqReadFail_sys, outSys_done]
    | split
    | (intro _)
    | dsimp only

theorem postIdle_sys (s : State) (hh q : Nat) (m0 : Nat) :
    (postIdle s hh q m0).sys = s.sys := by
  cases m0 <;> unfold postIdle
  all_goals repeat' first
    | with_reducible rfl
    | with_reducible assumption
    | simp only [State_modHd_sys]
    | split
    | (intro _)
    | refine Eq.trans (admPost_sys (by assumption)) ?_
    | refine Eq.trans (postIdle_sys ..) ?_
    | dsimp only

theorem execSqIdle_sys (hh q : Nat) (s : State) :
    outSys (execSqIdle hh q s) s.sys = s.sys := by
  unfold execSqIdle
  repeat' first
    | with_reducible rfl
    | with_reducible assumption
    | simp only [State_w0_sys, State_put0_sys, State_setJob_sys, postIdle_sys, outSys_next, outSys_done]
    | split
    | (intro _)
    | dsimp only

theorem cqTarget_sys (s : State) (n hh vec : Nat) (en : Bool) :
    (cqTarget s n hh vec en).sys = s.sys := by
  unfold cqTarget
  repeat' first
    | with_reducible rfl
    | with_reducible assumption
    | simp only [State_setSrc_sys]
    | split
    | (intro _)
    | dsimp only

theorem admqFields_sys (s : State) (hh : Nat) (v : Word) :
    (admqFields s hh v).sys = s.sys := by
  unfold admqFields
  repeat' first
    | with_reducible rfl
    | with_reducible assumption
    | simp only [State_put0_sys]
    | split
    | (intro _)
    | dsimp only

theorem execAdmqEnable_sys (hh : Nat) (v : Word) (s : State) :
    outSys (execAdmqEnable hh v s) s.sys = s.sys := by
  unfold execAdmqEnable
  repeat' first
    | with_reducible rfl
    | with_reducible assumption
    | simp only [State_w0_sys, State_put0_sys, State_setSq_sys, State_setCq_sys, cqTarget_sys, admqFields_sys, outSys_next, outSys_done]
    | split
    | (intro _)
    | dsimp only

theorem execAdmqDisable_sys (hh : Nat) (v : Word) (s : State) :
    outSys (execAdmqDisable hh v s) s.sys = s.sys := by
  unfold execAdmqDisable
  repeat' first
    | with_reducible rfl
    | with_reducible assumption
    | simp only [State_put0_sys, State_setJob_sys, admqFields_sys, outSys_next]
    | split
    | (intro _)
    | dsimp only

theorem admCmd_sys (op : Nat) (is : AdmE → Bool) (hh : Nat) (s : State) (body : AdmE → State → State × Option (Nat × DWord))
    (hbody : ∀ x0 x1 u v, x1.sys = s.sys → body x0 x1 = (u, v) → u.sys = s.sys) :
    outSys (admCmd op is hh s body) s.sys = s.sys := by
  unfold admCmd
  repeat' first
    | with_reducible rfl
    | with_reducible assumption
    | simp only [State_modHd_sys, admFlush_sys, outSys_next, outSys_done]
    | split
    | (intro _)
    | refine hbody _ _ _ _ ?_ (by assumption)
    | refine Eq.trans (admPost_sys (by assumption)) ?_
    | dsimp only

theorem refused__sys {s : State} {st : Nat} {v0} {tq : State}
    (h : (refused_ s st) = (tq, v0)) :
    tq.sys = s.sys := by
  revert h
  unfold refused_
  repeat' first
    | with_reducible rfl
    | with_reducible assumption
    | split
    | (intro h1; cases h1)
    | (intro _)
    | dsimp only

theorem refused__sys2 (s : State) (st : Nat) :
    (refused_ s st).1.sys = s.sys := by
  rcases hq : (refused_ s st) with ⟨tq, v0⟩; exact refused__sys  hq

theorem execCreateCq_sys (hh : Nat) (s : State) :
    outSys (execCreateCq hh s) s.sys = s.sys := by
  unfold execCreateCq
  repeat' first
    | with_reducible rfl
    | with_reducible assumption
    | simp only [State_setCq_sys, cqTarget_sys]
    | split
    | (intro h1; obtain ⟨rfl, rfl⟩ := Prod.mk.inj h1)
    | (intro h1; obtain rfl := Option.some.inj h1)
    | (intro _)
    | refine Eq.trans (sys_foldl ?_ _ _) ?_
    | refine Eq.trans (sys_foldl_snd ?_ _ _) ?_
    | refine Eq.trans (sys_foldl_fst ?_ _ _) ?_
    | refine Eq.trans (admCmd_sys _ _ _ _ _ ?_) ?_
    | refine Eq.trans (refused__sys (by assumption)) ?_
    | dsimp only

theorem execCreateSq_sys (hh : Nat) (s : State) :
    outSys (execCreateSq hh s) s.sys = s.sys := by
  unfold execCreateSq
  repeat' first
    | with_reducible rfl
    | with_reducible assumption
    | simp only [State_setSq_sys]
    | split
    | (intro h1; obtain ⟨rfl, rfl⟩ := Prod.mk.inj h1)
    | (intro h1; obtain rfl := Option.some.inj h1)
    | (intro _)
    | refine Eq.trans (sys_foldl ?_ _ _) ?_
    | refine Eq.trans (sys_foldl_snd ?_ _ _) ?_
    | refine Eq.trans (sys_foldl_fst ?_ _ _) ?_
    | refine Eq.trans (admCmd_sys _ _ _ _ _ ?_) ?_
    | refine Eq.trans (refused__sys (by assumption)) ?_
    | dsimp only

theorem execDeleteSq_sys (hh : Nat) (s : State) :
    outSys (execDeleteSq hh s) s.sys = s.sys := by
  unfold execDeleteSq
  repeat' first
    | with_reducible rfl
    | with_reducible assumption
    | simp only [State_setJob_sys]
    | split
    | (intro _)
    | refine Eq.trans (admCmd_sys _ _ _ _ _ ?_) ?_
    | refine Eq.trans (refused__sys (by assumption)) ?_
    | dsimp only

theorem execDeleteCq_sys (hh : Nat) (s : State) :
    outSys (execDeleteCq hh s) s.sys = s.sys := by
  unfold execDeleteCq
  repeat' first
    | with_reducible rfl
    | with_reducible assumption
    | simp only [State_setJob_sys]
    | split
    | (intro _)
    | refine Eq.trans (admCmd_sys _ _ _ _ _ ?_) ?_
    | refine Eq.trans (refused__sys (by assumption)) ?_
    | dsimp only

theorem execSetSqEnable_sys (hh : Nat) (s : State) :
    outSys (execSetSqEnable hh s) s.sys = s.sys := by
  unfold execSetSqEnable
  repeat' first
    | with_reducible rfl
    | with_reducible assumption
    | simp only [State_setSq_sys]
    | split
    | (intro _)
    | refine Eq.trans (admCmd_sys _ _ _ _ _ ?_) ?_
    | refine Eq.trans (refused__sys (by assumption)) ?_
    | dsimp only

theorem execSetSqDisable_sys (hh : Nat) (s : State) :
    outSys (execSetSqDisable hh s) s.sys = s.sys := by
  unfold execSetSqDisable
  repeat' first
    | with_reducible rfl
    | with_reducible assumption
    | simp only [State_modHd_sys, State_setSq_sys, State_modCtx_sys]
    | split
    | (intro h1; obtain ⟨rfl, rfl⟩ := Prod.mk.inj h1)
    | (intro h1; obtain rfl := Option.some.inj h1)
    | (intro _)
    | refine Eq.trans (sys_foldl ?_ _ _) ?_
    | refine Eq.trans (sys_foldl_snd ?_ _ _) ?_
    | refine Eq.trans (sys_foldl_fst ?_ _ _) ?_
    | refine Eq.trans (admCmd_sys _ _ _ _ _ ?_) ?_
    | refine Eq.trans (refused__sys (by assumption)) ?_
    | dsimp only

theorem execGetQueueStatus_sys (hh : Nat) (s : State) :
    outSys (execGetQueueStatus hh s) s.sys = s.sys := by
  unfold execGetQueueStatus
  repeat' first
    | with_reducible rfl
    | with_reducible assumption
    | simp only [State_emit_sys, State_setSq_sys, State_setCq_sys]
    | split
    | (intro _)
    | refine Eq.trans (admCmd_sys _ _ _ _ _ ?_) ?_
    | refine Eq.trans (refused__sys (by assumption)) ?_
    | dsimp only

theorem State_setBk_sys (s : State) (b : Baulk) :
    (State.setBk s b).sys = s.sys := by
  unfold State.setBk
  repeat' first
    | with_reducible rfl
    | with_reducible assumption
    | split
    | (intro _)
    | dsimp only

theorem State_modBp_sys (s : State) (p : Nat) (f : BPort → BPort) :
    (State.modBp s p f).sys = s.sys := by
  unfold State.modBp
  repeat' first
    | with_reducible rfl
    | with_reducible assumption
    | simp only [State_setBk_sys]
    | split
    | (intro _)
    | dsimp only

theorem bkSend_sys (s : State) (p typ : Nat) (body : List Byte) :
    (bkSend s p typ body).sys = s.sys := by
  unfold bkSend
  repeat' first
    | with_reducible rfl
    | with_reducible assumption
    | simp only [State_emit_sys, State_modBp_sys]
    | split
    | (intro _)
    | dsimp only

theorem bkWait_sys (s : State) (p id kind : Nat) :
    (bkWait s p id kind).sys = s.sys := by
  unfold bkWait
  repeat' first
    | with_reducible rfl
    | with_reducible assumption
    | simp only [State_modBp_sys]
    | split
    | (intro _)
    | dsimp only

theorem bkWrites_sys (s : State) (p e off : Nat) (data : List Byte) (m0 : Nat) :
    (bkWrites s p e off data m0).sys = s.sys := by
  cases m0 <;> unfold bkWrites
  all_goals repeat' first
    | with_reducible rfl
    | with_reducible assumption
    | simp only [bkSend_sys]
    | split
    | (intro _)
    | refine Eq.trans (bkWrites_sys ..) ?_
    | dsimp only

theorem bkReads_sys (s : State) (p e off len : Nat) (m0 : Nat) :
    (bkReads s p e off len m0).sys = s.sys := by
  induction m0 generalizing s off len with
  | zero => rfl
  | succ n ih =>
    rw [bkReads]; split
    · rfl
    · exact (ih ..).trans (bkSend_sys ..)

theorem remoteFail_sys (s : State) (p id kind : Nat) :
    (remoteFail s p id kind).sys = s.sys := by
  unfold remoteFail
  repeat' first
    | with_reducible rfl
    | with_reducible assumption
    | simp only [State_setJob_sys, State_modCtx_sys, faultJob_sys]
    | split
    | (intro _)
    | dsimp only

theorem shiftStep_sys (op : DWord → DWord → Alu) (s : State) (k : Nat) (x : Ctx) (i : Ins) :
    (shiftStep op s k x i).sys = s.sys := by
  unfold shiftStep
  repeat' first
    | with_reducible rfl
    | with_reducible assumption
    | simp only [State_setCtx_sys, faultJob_sys]
    | split
    | (intro _)
    | dsimp only

theorem execAdd_sys (f c : Nat) (s : State) :
    outSys (execAdd f c s) s.sys = s.sys := by
  unfold execAdd
  repeat' first
    | with_reducible rfl
    | with_reducible assumption
    | simp only [issueCtx_sys, outSys_next]
    | split
    | (intro _)
    | dsimp only

theorem execSub_sys (f c : Nat) (s : State) :
    outSys (execSub f c s) s.sys = s.sys := by
  unfold execSub
  repeat' first
    | with_reducible rfl
    | with_reducible assumption
    | simp only [issueCtx_sys, outSys_next]
    | split
    | (intro _)
    | dsimp only

theorem execMul_sys (f c : Nat) (s : State) :
    outSys (execMul f c s) s.sys = s.sys := by
  unfold execMul
  repeat' first
    | with_reducible rfl
    | with_reducible assumption
    | simp only [issueCtx_sys, outSys_next]
    | split
    | (intro _)
    | dsimp only

theorem execAnd_sys (f c : Nat) (s : State) :
    outSys (execAnd f c s) s.sys = s.sys := by
  unfold execAnd
  repeat' first
    | with_reducible rfl
    | with_reducible assumption
    | simp only [issueCtx_sys, outSys_next]
    | split
    | (intro _)
    | dsimp only

theorem execOr_sys (f c : Nat) (s : State) :
    outSys (execOr f c s) s.sys = s.sys := by
  unfold execOr
  repeat' first
    | with_reducible rfl
    | with_reducible assumption
    | simp only [issueCtx_sys, outSys_next]
    | split
    | (intro _)
    | dsimp only

theorem execXor_sys (f c : Nat) (s : State) :
    outSys (execXor f c s) s.sys = s.sys := by
  unfold execXor
  repeat' first
    | with_reducible rfl
    | with_reducible assumption
    | simp only [issueCtx_sys, outSys_next]
    | split
    | (intro _)
    | dsimp only

theorem execShl_sys (f c : Nat) (s : State) :
    outSys (execShl f c s) s.sys = s.sys := by
  unfold execShl
  repeat' first
    | with_reducible rfl
    | with_reducible assumption
    | simp only [shiftStep_sys, outSys_next]
    | split
    | (intro _)
    | refine Eq.trans (issue_sys _ _ _ _ _ _ ?_) ?_
    | dsimp only

theorem execShr_sys (f c : Nat) (s : State) :
    outSys (execShr f c s) s.sys = s.sys := by
  unfold execShr
  repeat' first
    | with_reducible rfl
    | with_reducible assumption
    | simp only [shiftStep_sys, outSys_next]
    | split
    | (intro _)
    | refine Eq.trans (issue_sys _ _ _ _ _ _ ?_) ?_
    | dsimp only

theorem execSar_sys (f c : Nat) (s : State) :
    outSys (execSar f c s) s.sys = s.sys := by
  unfold execSar
  repeat' first
    | with_reducible rfl
    | with_reducible assumption
    | simp only [shiftStep_sys, outSys_next]
    | split
    | (intro _)
    | refine Eq.trans (issue_sys _ _ _ _ _ _ ?_) ?_
    | dsimp only

theorem execCmp_sys (f c : Nat) (s : State) :
    outSys (execCmp f c s) s.sys = s.sys := by
  unfold execCmp
  repeat' first
    | with_reducible rfl
    | with_reducible assumption
    | simp only [issueCtx_sys, outSys_next]
    | split
    | (intro _)
    | dsimp only

theorem execMov_sys (f c : Nat) (s : State) :
    outSys (execMov f c s) s.sys = s.sys := by
  unfold execMov
  repeat' first
    | with_reducible rfl
    | with_reducible assumption
    | simp only [issueCtx_sys, outSys_next]
    | split
    | (intro _)
    | dsimp only

theorem execMovx_sys (f c : Nat) (s : State) :
    outSys (execMovx f c s) s.sys = s.sys := by
  unfold execMovx
  repeat' first
    | with_reducible rfl
    | with_reducible assumption
    | simp only [issueCtx_sys, outSys_next]
    | split
    | (intro _)
    | dsimp only

theorem execLd_sys (f c : Nat) (s : State) :
    outSys (execLd f c s) s.sys = s.sys := by
  unfold execLd
  repeat' first
    | with_reducible rfl
    | with_reducible assumption
    | simp only [faultJob_sys, startWork_sys, bkWait_sys, bkReads_sys, remoteFail_sys, outSys_next]
    | split
    | (intro _)
    | refine Eq.trans (issue_sys _ _ _ _ _ _ ?_) ?_
    | dsimp only

theorem execLdComplete_sys (n : Nat) (v : DWord) (s : State) :
    outSys (execLdComplete n v s) s.sys = s.sys := by
  unfold execLdComplete
  repeat' first
    | with_reducible rfl
    | with_reducible assumption
    | simp only [endWork_sys, State_takeFree_sys2, outSys_next]
    | split
    | (intro _)
    | refine Eq.trans (State_takeFree_sys (by assumption)) ?_
    | dsimp only

theorem execSt_sys (f c : Nat) (s : State) :
    outSys (execSt f c s) s.sys = s.sys := by
  unfold execSt
  repeat' first
    | with_reducible rfl
    | with_reducible assumption
    | simp only [State_emit_sys, writeDev_sys, State_setCtx_sys, faultJob_sys, bkWrites_sys, outSys_next]
    | split
    | (intro _)
    | refine Eq.trans (issue_sys _ _ _ _ _ _ ?_) ?_
    | dsimp only

theorem execFence_sys (f c : Nat) (s : State) :
    outSys (execFence f c s) s.sys = s.sys := by
  unfold execFence
  repeat' first
    | with_reducible rfl
    | with_reducible assumption
    | simp only [State_setCtx_sys, faultJob_sys, outSys_next]
    | split
    | (intro _)
    | refine Eq.trans (issue_sys _ _ _ _ _ _ ?_) ?_
    | dsimp only

theorem sendFlushes_sys (s : State) (k need : Nat) :
    (sendFlushes s k need).sys = s.sys := by
  unfold sendFlushes
  repeat' first
    | with_reducible rfl
    | with_reducible assumption
    | simp only [bkSend_sys, bkWait_sys, remoteFail_sys]
    | split
    | (intro _)
    | refine Eq.trans (sys_foldl ?_ _ _) ?_
    | refine Eq.trans (sys_foldl_snd ?_ _ _) ?_
    | refine Eq.trans (sys_foldl_fst ?_ _ _) ?_
    | dsimp only

theorem fenceDone_sys (s : State) (k cls scope : Nat) (x : Ctx) :
    (fenceDone s k cls scope x).sys = s.sys := by
  unfold fenceDone
  repeat' first
    | with_reducible rfl
    | with_reducible assumption
    | simp only [State_emit_sys, State_setCtx_sys]
    | split
    | (intro _)
    | dsimp only

theorem execFenceComplete_sys (f c : Nat) (s : State) :
    outSys (execFenceComplete f c s) s.sys = s.sys := by
  unfold execFenceComplete
  repeat' first
    | with_reducible rfl
    | with_reducible assumption
    | simp only [sendFlushes_sys, fenceDone_sys, outSys_next]
    | split
    | (intro _)
    | dsimp only

theorem syncOk_sys (s : State) (k : Nat) :
    (syncOk s k).sys = s.sys := by
  unfold syncOk
  repeat' first
    | with_reducible rfl
    | with_reducible assumption
    | simp only [State_modCtx_sys]
    | split
    | (intro _)
    | dsimp only

theorem State_setSem_sys (s : State) (j : Nat) (m : Sem) :
    (State.setSem s j m).sys = s.sys := by
  unfold State.setSem
  repeat' first
    | with_reducible rfl
    | with_reducible assumption
    | simp only [State_setJob_sys]
    | split
    | (intro _)
    | dsimp only

theorem State_setBar_sys (s : State) (j : Nat) (b : Bar) :
    (State.setBar s j b).sys = s.sys := by
  unfold State.setBar
  repeat' first
    | with_reducible rfl
    | with_reducible assumption
    | simp only [State_setJob_sys]
    | split
    | (intro _)
    | dsimp only

theorem serveSem_sys (s : State) (j : Nat) (m0 : Nat) :
    (serveSem s j m0).sys = s.sys := by
  cases m0 <;> unfold serveSem
  all_goals repeat' first
    | with_reducible rfl
    | with_reducible assumption
    | simp only [syncOk_sys, State_setSem_sys]
    | split
    | (intro _)
    | refine Eq.trans (serveSem_sys ..) ?_
    | dsimp only

theorem addSem_sys {s : State} {j n : Nat} {v0} {tq : State}
    (h : (addSem s j n) = (v0, tq)) :
    tq.sys = s.sys := by
  revert h
  unfold addSem
  repeat' first
    | with_reducible rfl
    | with_reducible assumption
    | simp only [State_setSem_sys, serveSem_sys]
    | split
    | (intro h1; cases h1)
    | (intro _)
    | dsimp only

theorem addSem_sys2 (s : State) (j n : Nat) :
    (addSem s j n).2.sys = s.sys := by
  rcases hq : (addSem s j n) with ⟨v0, tq⟩; exact addSem_sys  hq

theorem execSignal_sys (f c : Nat) (s : State) :
    outSys (execSignal f c s) s.sys = s.sys := by
  unfold execSignal
  repeat' first
    | with_reducible rfl
    | with_reducible assumption
    | simp only [State_setCtx_sys, State_modCtx_sys, faultJob_sys, bkSend_sys, bkWait_sys, addSem_sys2, outSys_next]
    | split
    | (intro _)
    | refine Eq.trans (issue_sys _ _ _ _ _ _ ?_) ?_
    | refine Eq.trans (addSem_sys (by assumption)) ?_
    | dsimp only

theorem execWait_sys (f c : Nat) (s : State) :
    outSys (execWait f c s) s.sys = s.sys := by
  unfold execWait
  repeat' first
    | with_reducible rfl
    | with_reducible assumption
    | simp only [State_setCtx_sys, faultJob_sys, State_setSem_sys, serveSem_sys, outSys_next]
    | split
    | (intro _)
    | refine Eq.trans (issue_sys _ _ _ _ _ _ ?_) ?_
    | dsimp only

theorem syncTimeout_sys (s : State) (k : Nat) (x : Bool) :
    (syncTimeout s k x).sys = s.sys := by
  unfold syncTimeout
  repeat' first
    | with_reducible rfl
    | with_reducible assumption
    | simp only [State_modCtx_sys, faultJob_sys]
    | split
    | (intro _)
    | dsimp only

theorem execWaitTimeout_sys (f c : Nat) (s : State) :
    outSys (execWaitTimeout f c s) s.sys = s.sys := by
  unfold execWaitTimeout
  repeat' first
    | with_reducible rfl
    | with_reducible assumption
    | simp only [State_setJob_sys, serveSem_sys, syncTimeout_sys, outSys_next]
    | split
    | (intro _)
    | dsimp only

theorem execBarrier_sys (f c : Nat) (s : State) :
    outSys (execBarrier f c s) s.sys = s.sys := by
  unfold execBarrier
  repeat' first
    | with_reducible rfl
    | with_reducible assumption
    | simp only [State_setCtx_sys, faultJob_sys, syncOk_sys, State_setBar_sys, outSys_next]
    | split
    | (intro h1; obtain ⟨rfl, rfl⟩ := Prod.mk.inj h1)
    | (intro h1; obtain rfl := Option.some.inj h1)
    | (intro _)
    | refine Eq.trans (sys_foldl ?_ _ _) ?_
    | refine Eq.trans (sys_foldl_snd ?_ _ _) ?_
    | refine Eq.trans (sys_foldl_fst ?_ _ _) ?_
    | refine Eq.trans (issue_sys _ _ _ _ _ _ ?_) ?_
    | dsimp only

theorem execBarrierTimeout_sys (f c : Nat) (s : State) :
    outSys (execBarrierTimeout f c s) s.sys = s.sys := by
  unfold execBarrierTimeout
  repeat' first
    | with_reducible rfl
    | with_reducible assumption
    | simp only [State_setJob_sys, syncTimeout_sys, outSys_next]
    | split
    | (intro _)
    | dsimp only

theorem closeSem_sys (s : State) (j : Nat) :
    (closeSem s j).sys = s.sys := by
  unfold closeSem
  repeat' first
    | with_reducible rfl
    | with_reducible assumption
    | simp only [State_setJob_sys, faultJob_sys]
    | split
    | (intro _)
    | refine Eq.trans (sys_foldl ?_ _ _) ?_
    | refine Eq.trans (sys_foldl_snd ?_ _ _) ?_
    | refine Eq.trans (sys_foldl_fst ?_ _ _) ?_
    | dsimp only

theorem closeBar_sys (s : State) (j : Nat) :
    (closeBar s j).sys = s.sys := by
  unfold closeBar
  repeat' first
    | with_reducible rfl
    | with_reducible assumption
    | simp only [State_setJob_sys, faultJob_sys]
    | split
    | (intro h1; obtain ⟨rfl, rfl⟩ := Prod.mk.inj h1)
    | (intro h1; obtain rfl := Option.some.inj h1)
    | (intro _)
    | refine Eq.trans (sys_foldl ?_ _ _) ?_
    | refine Eq.trans (sys_foldl_snd ?_ _ _) ?_
    | refine Eq.trans (sys_foldl_fst ?_ _ _) ?_
    | refine Eq.trans (issue_sys _ _ _ _ _ _ ?_) ?_
    | dsimp only

theorem afterFence_sys (need : Bool) (s0 : State) (k : Nat) (x : Ctx) (body : State)
    (hs0_ : s0.sys = body.sys) :
    (afterFence need s0 k x body).sys = body.sys := by
  unfold afterFence
  repeat' first
    | with_reducible rfl
    | with_reducible assumption
    | simp only [State_modCtx_sys]
    | split
    | (intro _)
    | exact hs0_
    | dsimp only

theorem execPost_sys (f c : Nat) (s : State) :
    outSys (execPost f c s) s.sys = s.sys := by
  unfold execPost
  repeat' first
    | with_reducible rfl
    | with_reducible assumption
    | simp only [State_setCtx_sys, outSys_done]
    | split
    | (intro _)
    | refine Eq.trans (issue_sys _ _ _ _ _ _ ?_) ?_
    | refine Eq.trans (afterFence_sys _ _ _ _ _ (Eq.symm ?_)) ?_
    | refine Eq.trans (cqPost_sys (by assumption)) ?_

theorem execIrq_sys (f c : Nat) (s : State) :
    outSys (execIrq f c s) s.sys = s.sys := by
  unfold execIrq
  repeat' first
    | with_reducible rfl
    | with_reducible assumption
    | exact Eq.symm (by with_reducible assumption)
    | simp only [chanEvent_sys, State_setCtx_sys, faultJob_sys, outSys_done]
    | split
    | (intro h1; obtain ⟨rfl, rfl⟩ := Prod.mk.inj h1)
    | (intro h1; obtain rfl := Option.some.inj h1)
    | (intro _)
    | refine Eq.trans (sys_foldl ?_ _ _) ?_
    | refine Eq.trans (sys_foldl_snd ?_ _ _) ?_
    | refine Eq.trans (sys_foldl_fst ?_ _ _) ?_
    | refine Eq.trans (issue_sys _ _ _ _ _ _ ?_) ?_
    | refine Eq.trans (afterFence_sys _ _ _ _ _ ?_) ?_
    | exact Eq.symm (by simp only [chanEvent_sys, State_setCtx_sys, faultJob_sys, outSys_done]; with_reducible first | rfl | assumption)
    | dsimp only
    | contradiction

theorem addPool_sys (s : State) (hh c : Nat) (b : Blk) (m0 : Nat) :
    (addPool s hh c b m0).sys = s.sys := by
  cases m0 <;> unfold addPool
  all_goals repeat' first
    | with_reducible rfl
    | with_reducible assumption
    | simp only [State_addBuf_sys]
    | split
    | (intro _)
    | refine Eq.trans (addPool_sys ..) ?_
    | dsimp only

theorem openChannel_sys {s : State} {hh : Nat} {b : Blk} {field : Nat} {nums : List Nat} {v0} {tq : State}
    (h : (openChannel s hh b field nums) = (v0, tq)) :
    tq.sys = s.sys := by
  revert h
  unfold openChannel
  repeat' first
    | with_reducible rfl
    | with_reducible assumption
    | simp only [State_wch_sys, State_setSrc_sys, quotaHit_sys, State_setChan_sys, chargeDram_sys, addPool_sys]
    | split
    | (intro h1; cases h1)
    | (intro _)
    | refine Eq.trans (newHandle_sys (by assumption)) ?_
    | dsimp only

theorem openChannel_sys2 (s : State) (hh : Nat) (b : Blk) (field : Nat) (nums : List Nat) :
    (openChannel s hh b field nums).2.sys = s.sys := by
  rcases hq : (openChannel s hh b field nums) with ⟨v0, tq⟩; exact openChannel_sys  hq

theorem giveHandle_sys (s : State) (k : Nat) (i : Ins) (code : Nat) (hnd : Word) :
    (giveHandle s k i code hnd).sys = s.sys := by
  unfold giveHandle
  repeat' first
    | with_reducible rfl
    | with_reducible assumption
    | simp only [State_modCtx_sys]
    | split
    | (intro _)
    | refine Eq.trans (issue_sys _ _ _ _ _ _ ?_) ?_
    | dsimp only

theorem withBlock_sys (s0 s : State) (k : Nat) (x : Ctx) (i : Ins) (a : DWord) (len : Nat) (body : List Byte → State)
    (hbody : ∀ x0, (body x0).sys = s.sys)
    (hs0_ : s0.sys = s.sys) :
    (withBlock s0 s k x i a len body).sys = s.sys := by
  unfold withBlock
  repeat' first
    | with_reducible rfl
    | with_reducible assumption
    | simp only [faultJob_sys, giveHandle_sys]
    | split
    | (intro _)
    | exact hbody ..
    | exact hs0_
    | dsimp only

theorem execSopen_sys (f c : Nat) (s : State) :
    outSys (execSopen f c s) s.sys = s.sys := by
  unfold execSopen
  repeat' first
    | with_reducible rfl
    | with_reducible assumption
    | exact Eq.symm (by with_reducible assumption)
    | simp only [faultJob_sys, giveHandle_sys, outSys_done]
    | split
    | (intro h1; obtain ⟨rfl, rfl⟩ := Prod.mk.inj h1)
    | (intro h1; obtain rfl := Option.some.inj h1)
    | (intro _)
    | refine Eq.trans (sys_foldl ?_ _ _) ?_
    | refine Eq.trans (sys_foldl_snd ?_ _ _) ?_
    | refine Eq.trans (sys_foldl_fst ?_ _ _) ?_
    | refine Eq.trans (issue_sys _ _ _ _ _ _ ?_) ?_
    | refine Eq.trans (withBlock_sys _ _ _ _ _ _ _ _ ?_ ?_) ?_
    | refine Eq.trans (openChannel_sys (by assumption)) ?_
    | exact Eq.symm (by simp only [faultJob_sys, giveHandle_sys, outSys_done]; with_reducible first | rfl | assumption)
    | dsimp only
    | contradiction

theorem State_setGrp_sys (s : State) (g : Nat) (x : Grp) :
    (State.setGrp s g x).sys = s.sys := by
  unfold State.setGrp
  repeat' first
    | with_reducible rfl
    | with_reducible assumption
    | simp only [State_setVid_sys]
    | split
    | (intro _)
    | dsimp only

theorem State_setMux_sys (s : State) (m : Nat) (x : Mux) :
    (State.setMux s m x).sys = s.sys := by
  unfold State.setMux
  repeat' first
    | with_reducible rfl
    | with_reducible assumption
    | simp only [State_setVid_sys]
    | split
    | (intro _)
    | dsimp only

theorem execSopenGroup_sys (f c : Nat) (s : State) :
    outSys (execSopenGroup f c s) s.sys = s.sys := by
  unfold execSopenGroup
  repeat' first
    | with_reducible rfl
    | with_reducible assumption
    | exact Eq.symm (by with_reducible assumption)
    | simp only [faultJob_sys, giveHandle_sys, State_setGrp_sys, outSys_done]
    | split
    | (intro h1; obtain ⟨rfl, rfl⟩ := Prod.mk.inj h1)
    | (intro h1; obtain rfl := Option.some.inj h1)
    | (intro _)
    | refine Eq.trans (sys_foldl ?_ _ _) ?_
    | refine Eq.trans (sys_foldl_snd ?_ _ _) ?_
    | refine Eq.trans (sys_foldl_fst ?_ _ _) ?_
    | refine Eq.trans (issue_sys _ _ _ _ _ _ ?_) ?_
    | refine Eq.trans (withBlock_sys _ _ _ _ _ _ _ _ ?_ ?_) ?_
    | refine Eq.trans (newHandle_sys (by assumption)) ?_
    | exact Eq.symm (by simp only [faultJob_sys, giveHandle_sys, State_setGrp_sys, outSys_done]; with_reducible first | rfl | assumption)
    | dsimp only
    | contradiction

theorem execSopenMux_sys (f c : Nat) (s : State) :
    outSys (execSopenMux f c s) s.sys = s.sys := by
  unfold execSopenMux
  repeat' first
    | with_reducible rfl
    | with_reducible assumption
    | exact Eq.symm (by with_reducible assumption)
    | simp only [faultJob_sys, giveHandle_sys, State_setMux_sys, outSys_done]
    | split
    | (intro h1; obtain ⟨rfl, rfl⟩ := Prod.mk.inj h1)
    | (intro h1; obtain rfl := Option.some.inj h1)
    | (intro _)
    | refine Eq.trans (sys_foldl ?_ _ _) ?_
    | refine Eq.trans (sys_foldl_snd ?_ _ _) ?_
    | refine Eq.trans (sys_foldl_fst ?_ _ _) ?_
    | refine Eq.trans (issue_sys _ _ _ _ _ _ ?_) ?_
    | refine Eq.trans (withBlock_sys _ _ _ _ _ _ _ _ ?_ ?_) ?_
    | refine Eq.trans (newHandle_sys (by assumption)) ?_
    | exact Eq.symm (by simp only [faultJob_sys, giveHandle_sys, State_setMux_sys, outSys_done]; with_reducible first | rfl | assumption)
    | dsimp only
    | contradiction

theorem execSopenSem_sys (f c : Nat) (s : State) :
    outSys (execSopenSem f c s) s.sys = s.sys := by
  unfold execSopenSem
  repeat' first
    | with_reducible rfl
    | with_reducible assumption
    | simp only [State_setJob_sys, faultJob_sys, State_setSem_sys, giveHandle_sys, outSys_next]
    | split
    | (intro _)
    | refine Eq.trans (issue_sys _ _ _ _ _ _ ?_) ?_
    | refine Eq.trans (newHandle_sys (by assumption)) ?_
    | dsimp only

theorem execSopenBar_sys (f c : Nat) (s : State) :
    outSys (execSopenBar f c s) s.sys = s.sys := by
  unfold execSopenBar
  repeat' first
    | with_reducible rfl
    | with_reducible assumption
    | simp only [State_setJob_sys, faultJob_sys, State_setBar_sys, giveHandle_sys, outSys_next]
    | split
    | (intro _)
    | refine Eq.trans (issue_sys _ _ _ _ _ _ ?_) ?_
    | refine Eq.trans (newHandle_sys (by assumption)) ?_
    | dsimp only

theorem closeEgr_sys (s : State) (e : Nat) :
    (closeEgr s e).sys = s.sys := by
  unfold closeEgr
  repeat' first
    | with_reducible rfl
    | with_reducible assumption
    | simp only [freeSlot_sys, State_setEgr_sys, dropRefs_sys, endEgrFlow_sys]
    | split
    | (intro _)
    | dsimp only

theorem releaseFlows_sys (s : State) (c : Nat) :
    (releaseFlows s c).sys = s.sys := by
  unfold releaseFlows
  repeat' first
    | with_reducible rfl
    | with_reducible assumption
    | simp only [freeSlot_sys, State_setEgr_sys, endIngFlow_sys]
    | split
    | (intro _)
    | refine Eq.trans (sys_foldl ?_ _ _) ?_
    | refine Eq.trans (sys_foldl_snd ?_ _ _) ?_
    | refine Eq.trans (sys_foldl_fst ?_ _ _) ?_
    | dsimp only

theorem drainChannel_sys (s : State) (c k : Nat) :
    (drainChannel s c k).sys = s.sys := by
  unfold drainChannel
  repeat' first
    | with_reducible rfl
    | with_reducible assumption
    | simp only [freeSlot_sys, State_setVid_sys, State_modChan_sys, State_modCtx_sys, releaseFlows_sys]
    | split
    | (intro _)
    | dsimp only

theorem closeMux_sys (s : State) (m : Nat) :
    (closeMux s m).sys = s.sys := by
  unfold closeMux
  repeat' first
    | with_reducible rfl
    | with_reducible assumption
    | simp only [State_setVid_sys, State_modChan_sys]
    | split
    | (intro _)
    | refine Eq.trans (sys_foldl ?_ _ _) ?_
    | refine Eq.trans (sys_foldl_snd ?_ _ _) ?_
    | refine Eq.trans (sys_foldl_fst ?_ _ _) ?_
    | dsimp only

theorem execSclose_sys (f c : Nat) (s : State) :
    outSys (execSclose f c s) s.sys = s.sys := by
  unfold execSclose
  repeat' first
    | with_reducible rfl
    | with_reducible assumption
    | simp only [freeSlot_sys, State_setVid_sys, State_setCtx_sys, faultJob_sys, endIngFlow_sys, closeSem_sys, closeBar_sys, State_setGrp_sys, closeEgr_sys, drainChannel_sys, closeMux_sys, outSys_done]
    | split
    | (intro h1; obtain ⟨rfl, rfl⟩ := Prod.mk.inj h1)
    | (intro h1; obtain rfl := Option.some.inj h1)
    | (intro _)
    | refine Eq.trans (sys_foldl ?_ _ _) ?_
    | refine Eq.trans (sys_foldl_snd ?_ _ _) ?_
    | refine Eq.trans (sys_foldl_fst ?_ _ _) ?_
    | refine Eq.trans (issue_sys _ _ _ _ _ _ ?_) ?_
    | dsimp only

theorem execChannelDrainComplete_sys (c : Nat) (s : State) :
    outSys (execChannelDrainComplete c s) s.sys = s.sys := by
  unfold execChannelDrainComplete
  repeat' first
    | with_reducible rfl
    | with_reducible assumption
    | simp only [State_setVid_sys, closeChannel_sys, State_setGrp_sys, closeEgr_sys, outSys_next, outSys_done]
    | split
    | (intro _)
    | refine Eq.trans (sys_foldl ?_ _ _) ?_
    | refine Eq.trans (sys_foldl_snd ?_ _ _) ?_
    | refine Eq.trans (sys_foldl_fst ?_ _ _) ?_
    | dsimp only

theorem setParam_sys (is : Nat → Bool) (f c : Nat) (s : State) (body : State → Ctx → Nat → Nat → Obj → DWord → Option State)
    (hbody : ∀ x0 x1 x2 x3 x4 x5 t, x0.sys = s.sys → body x0 x1 x2 x3 x4 x5 = some t → t.sys = s.sys) :
    (setParam is f c s body).sys = s.sys := by
  unfold setParam
  repeat' first
    | with_reducible rfl
    | with_reducible assumption
    | simp only [State_setCtx_sys, faultJob_sys]
    | split
    | (intro _)
    | refine hbody _ _ _ _ _ _ _ ?_ (by assumption)
    | refine Eq.trans (issue_sys _ _ _ _ _ _ ?_) ?_
    | dsimp only

theorem execSparam_sys (f c : Nat) (s : State) :
    outSys (execSparam f c s) s.sys = s.sys := by
  unfold execSparam
  repeat' first
    | with_reducible rfl
    | with_reducible assumption
    | simp only [State_modChan_sys, State_setBuf_sys, outSys_next]
    | split
    | (intro h1; obtain ⟨rfl, rfl⟩ := Prod.mk.inj h1)
    | (intro h1; obtain rfl := Option.some.inj h1)
    | (intro h1; obtain ⟨rfl, rfl⟩ := Prod.mk.inj (Option.some.inj h1))
    | (intro h1; rw [Option.bind_eq_some_iff] at h1; obtain ⟨_, h0, h2⟩ := h1; revert h0 h2)
    | (intro h1; injection h1; done)
    | (intro _)
    | refine Eq.trans (sys_foldl ?_ _ _) ?_
    | refine Eq.trans (sys_foldl_snd ?_ _ _) ?_
    | refine Eq.trans (sys_foldl_fst ?_ _ _) ?_
    | refine Eq.trans (setParam_sys _ _ _ _ _ ?_) ?_
    | dsimp only

theorem execSparamHome_sys (f c : Nat) (s : State) :
    outSys (execSparamHome f c s) s.sys = s.sys := by
  unfold execSparamHome
  repeat' first
    | with_reducible rfl
    | with_reducible assumption
    | simp only [State_modChan_sys, outSys_next]
    | split
    | (intro h1; obtain ⟨rfl, rfl⟩ := Prod.mk.inj h1)
    | (intro h1; obtain rfl := Option.some.inj h1)
    | (intro h1; obtain ⟨rfl, rfl⟩ := Prod.mk.inj (Option.some.inj h1))
    | (intro h1; rw [Option.bind_eq_some_iff] at h1; obtain ⟨_, h0, h2⟩ := h1; revert h0 h2)
    | (intro h1; injection h1; done)
    | (intro _)
    | refine Eq.trans (sys_foldl ?_ _ _) ?_
    | refine Eq.trans (sys_foldl_snd ?_ _ _) ?_
    | refine Eq.trans (sys_foldl_fst ?_ _ _) ?_
    | refine Eq.trans (setParam_sys _ _ _ _ _ ?_) ?_
    | dsimp only

theorem execSparamBitrate_sys (f c : Nat) (s : State) :
    outSys (execSparamBitrate f c s) s.sys = s.sys := by
  unfold execSparamBitrate
  repeat' first
    | with_reducible rfl
    | with_reducible assumption
    | simp only [State_setChan_sys, outSys_next]
    | split
    | (intro h1; obtain ⟨rfl, rfl⟩ := Prod.mk.inj h1)
    | (intro h1; obtain rfl := Option.some.inj h1)
    | (intro h1; obtain ⟨rfl, rfl⟩ := Prod.mk.inj (Option.some.inj h1))
    | (intro h1; rw [Option.bind_eq_some_iff] at h1; obtain ⟨_, h0, h2⟩ := h1; revert h0 h2)
    | (intro h1; injection h1; done)
    | (intro _)
    | refine Eq.trans (sys_foldl ?_ _ _) ?_
    | refine Eq.trans (sys_foldl_snd ?_ _ _) ?_
    | refine Eq.trans (sys_foldl_fst ?_ _ _) ?_
    | refine Eq.trans (setParam_sys _ _ _ _ _ ?_) ?_
    | dsimp only

theorem forceIdr_sys (t : State) (ids : List Nat) (on : Bool) :
    (forceIdr t ids on).sys = t.sys := by
  unfold forceIdr
  repeat' first
    | with_reducible rfl
    | with_reducible assumption
    | simp only [State_modChan_sys]
    | split
    | (intro _)
    | refine Eq.trans (sys_foldl ?_ _ _) ?_
    | refine Eq.trans (sys_foldl_snd ?_ _ _) ?_
    | refine Eq.trans (sys_foldl_fst ?_ _ _) ?_
    | dsimp only

theorem execSparamForceIdr_sys (f c : Nat) (s : State) :
    outSys (execSparamForceIdr f c s) s.sys = s.sys := by
  unfold execSparamForceIdr
  repeat' first
    | with_reducible rfl
    | with_reducible assumption
    | simp only [forceIdr_sys, outSys_next]
    | split
    | (intro h1; obtain ⟨rfl, rfl⟩ := Prod.mk.inj h1)
    | (intro h1; obtain rfl := Option.some.inj h1)
    | (intro h1; obtain ⟨rfl, rfl⟩ := Prod.mk.inj (Option.some.inj h1))
    | (intro h1; rw [Option.bind_eq_some_iff] at h1; obtain ⟨_, h0, h2⟩ := h1; revert h0 h2)
    | (intro h1; injection h1; done)
    | (intro _)
    | refine Eq.trans (sys_foldl ?_ _ _) ?_
    | refine Eq.trans (sys_foldl_snd ?_ _ _) ?_
    | refine Eq.trans (sys_foldl_fst ?_ _ _) ?_
    | refine Eq.trans (setParam_sys _ _ _ _ _ ?_) ?_
    | dsimp only

theorem execSparamRung_sys (f c : Nat) (s : State) :
    outSys (execSparamRung f c s) s.sys = s.sys := by
  unfold execSparamRung
  repeat' first
    | with_reducible rfl
    | with_reducible assumption
    | simp only [State_modChan_sys, State_setCtx_sys, faultJob_sys, State_setGrp_sys, outSys_next]
    | split
    | (intro _)
    | refine Eq.trans (issue_sys _ _ _ _ _ _ ?_) ?_
    | dsimp only

theorem execSparamMuxMember_sys (f c : Nat) (s : State) :
    outSys (execSparamMuxMember f c s) s.sys = s.sys := by
  unfold execSparamMuxMember
  repeat' first
    | with_reducible rfl
    | with_reducible assumption
    | simp only [State_modChan_sys, State_setCtx_sys, faultJob_sys, State_setMux_sys, outSys_next]
    | split
    | (intro _)
    | refine Eq.trans (issue_sys _ _ _ _ _ _ ?_) ?_
    | dsimp only

theorem execSparamMuxRate_sys (f c : Nat) (s : State) :
    outSys (execSparamMuxRate f c s) s.sys = s.sys := by
  unfold execSparamMuxRate
  repeat' first
    | with_reducible rfl
    | with_reducible assumption
    | simp only [State_setMux_sys, outSys_next]
    | split
    | (intro h1; obtain ⟨rfl, rfl⟩ := Prod.mk.inj h1)
    | (intro h1; obtain rfl := Option.some.inj h1)
    | (intro h1; obtain ⟨rfl, rfl⟩ := Prod.mk.inj (Option.some.inj h1))
    | (intro h1; rw [Option.bind_eq_some_iff] at h1; obtain ⟨_, h0, h2⟩ := h1; revert h0 h2)
    | (intro h1; injection h1; done)
    | (intro _)
    | refine Eq.trans (sys_foldl ?_ _ _) ?_
    | refine Eq.trans (sys_foldl_snd ?_ _ _) ?_
    | refine Eq.trans (sys_foldl_fst ?_ _ _) ?_
    | refine Eq.trans (setParam_sys _ _ _ _ _ ?_) ?_
    | dsimp only

theorem execSparamLadderDepth_sys (f c : Nat) (s : State) :
    outSys (execSparamLadderDepth f c s) s.sys = s.sys := by
  unfold execSparamLadderDepth
  repeat' first
    | with_reducible rfl
    | with_reducible assumption
    | simp only [State_setGrp_sys, outSys_next]
    | split
    | (intro h1; obtain ⟨rfl, rfl⟩ := Prod.mk.inj h1)
    | (intro h1; obtain rfl := Option.some.inj h1)
    | (intro h1; obtain ⟨rfl, rfl⟩ := Prod.mk.inj (Option.some.inj h1))
    | (intro h1; rw [Option.bind_eq_some_iff] at h1; obtain ⟨_, h0, h2⟩ := h1; revert h0 h2)
    | (intro h1; injection h1; done)
    | (intro _)
    | refine Eq.trans (sys_foldl ?_ _ _) ?_
    | refine Eq.trans (sys_foldl_snd ?_ _ _) ?_
    | refine Eq.trans (sys_foldl_fst ?_ _ _) ?_
    | refine Eq.trans (setParam_sys _ _ _ _ _ ?_) ?_
    | dsimp only

theorem execSparamBufFormat_sys (f c : Nat) (s : State) :
    outSys (execSparamBufFormat f c s) s.sys = s.sys := by
  unfold execSparamBufFormat
  repeat' first
    | with_reducible rfl
    | with_reducible assumption
    | simp only [State_setBuf_sys, outSys_next]
    | split
    | (intro h1; obtain ⟨rfl, rfl⟩ := Prod.mk.inj h1)
    | (intro h1; obtain rfl := Option.some.inj h1)
    | (intro h1; obtain ⟨rfl, rfl⟩ := Prod.mk.inj (Option.some.inj h1))
    | (intro h1; rw [Option.bind_eq_some_iff] at h1; obtain ⟨_, h0, h2⟩ := h1; revert h0 h2)
    | (intro h1; injection h1; done)
    | (intro _)
    | refine Eq.trans (sys_foldl ?_ _ _) ?_
    | refine Eq.trans (sys_foldl_snd ?_ _ _) ?_
    | refine Eq.trans (sys_foldl_fst ?_ _ _) ?_
    | refine Eq.trans (setParam_sys _ _ _ _ _ ?_) ?_
    | dsimp only

theorem execSparamGet_sys (f c : Nat) (s : State) :
    outSys (execSparamGet f c s) s.sys = s.sys := by
  unfold execSparamGet
  repeat' first
    | with_reducible rfl
    | with_reducible assumption
    | simp only [State_setCtx_sys, faultJob_sys, State_takeFree_sys2, outSys_next]
    | split
    | (intro _)
    | refine Eq.trans (issue_sys _ _ _ _ _ _ ?_) ?_
    | refine Eq.trans (State_takeFree_sys (by assumption)) ?_
    | dsimp only

theorem poolShort_sys (s : State) (c : Nat) :
    (poolShort s c).sys = s.sys := by
  unfold poolShort
  repeat' first
    | with_reducible rfl
    | with_reducible assumption
    | simp only [chanEvent_sys]
    | split
    | (intro _)
    | dsimp only

theorem execPalloc_sys (f c : Nat) (s : State) :
    outSys (execPalloc f c s) s.sys = s.sys := by
  unfold execPalloc
  repeat' first
    | with_reducible rfl
    | with_reducible assumption
    | simp only [State_modBuf_sys, faultJob_sys, giveHandle_sys, poolShort_sys, outSys_done]
    | split
    | (intro _)
    | refine Eq.trans (issue_sys _ _ _ _ _ _ ?_) ?_
    | refine Eq.trans (newHandle_sys (by assumption)) ?_
    | dsimp only

theorem execPallocB_sys (f c at_ : Nat) (s : State) :
    outSys (execPallocB f c at_ s) s.sys = s.sys := by
  unfold execPallocB
  repeat' first
    | with_reducible rfl
    | with_reducible assumption
    | simp only [quotaHit_sys, State_addBuf_sys, chargeDram_sys, faultJob_sys, giveHandle_sys, outSys_done]
    | split
    | (intro _)
    | refine Eq.trans (issue_sys _ _ _ _ _ _ ?_) ?_
    | refine Eq.trans (newHandle_sys (by assumption)) ?_
    | dsimp only

theorem execPfree_sys (f c : Nat) (s : State) :
    outSys (execPfree f c s) s.sys = s.sys := by
  unfold execPfree
  repeat' first
    | with_reducible rfl
    | with_reducible assumption
    | simp only [freeSlot_sys, State_modBuf_sys, reapBuf_sys, State_setCtx_sys, faultJob_sys, outSys_next]
    | split
    | (intro _)
    | refine Eq.trans (issue_sys _ _ _ _ _ _ ?_) ?_
    | dsimp only

theorem report_sys (s : State) (k : Nat) (i : Ins) (code : Nat) :
    (report s k i code).sys = s.sys := by
  unfold report
  repeat' first
    | with_reducible rfl
    | with_reducible assumption
    | simp only [State_modCtx_sys]
    | split
    | (intro _)
    | dsimp only

theorem execPmarkHold_sys (f c : Nat) (s : State) :
    outSys (execPmarkHold f c s) s.sys = s.sys := by
  unfold execPmarkHold
  repeat' first
    | with_reducible rfl
    | with_reducible assumption
    | simp only [State_setBuf_sys, faultJob_sys, poolShort_sys, report_sys, outSys_done]
    | split
    | (intro _)
    | refine Eq.trans (issue_sys _ _ _ _ _ _ ?_) ?_
    | dsimp only

theorem execPmarkUnhold_sys (f c : Nat) (s : State) :
    outSys (execPmarkUnhold f c s) s.sys = s.sys := by
  unfold execPmarkUnhold
  repeat' first
    | with_reducible rfl
    | with_reducible assumption
    | simp only [State_setBuf_sys, faultJob_sys, report_sys, outSys_next]
    | split
    | (intro _)
    | refine Eq.trans (issue_sys _ _ _ _ _ _ ?_) ?_
    | dsimp only

theorem pltr_sys (op : Nat) (f c : Nat) (s : State) (body : State → Nat → Ctx → Ins → Nat → Chan → State)
    (hbody : ∀ x0 x1 x2 x3 x4 x5, x0.sys = s.sys → (body x0 x1 x2 x3 x4 x5).sys = s.sys) :
    (pltr op f c s body).sys = s.sys := by
  unfold pltr
  repeat' first
    | with_reducible rfl
    | with_reducible assumption
    | simp only [faultJob_sys]
    | split
    | (intro _)
    | refine hbody _ _ _ _ _ _ ?_
    | refine Eq.trans (issue_sys _ _ _ _ _ _ ?_) ?_
    | dsimp only

theorem markBuf_sys (s : State) (n : Nat) (m : Mark) :
    (markBuf s n m).sys = s.sys := by
  unfold markBuf
  repeat' first
    | with_reducible rfl
    | with_reducible assumption
    | simp only [State_modBuf_sys]
    | split
    | (intro _)
    | dsimp only

theorem dropLtr_sys (s : State) (c slot : Nat) :
    (dropLtr s c slot).sys = s.sys := by
  unfold dropLtr
  repeat' first
    | with_reducible rfl
    | with_reducible assumption
    | simp only [State_setChan_sys, reapBuf_sys, markBuf_sys]
    | split
    | (intro _)
    | dsimp only

theorem execPltrSet_sys (f c : Nat) (s : State) :
    outSys (execPltrSet f c s) s.sys = s.sys := by
  unfold execPltrSet
  repeat' first
    | with_reducible rfl
    | with_reducible assumption
    | simp only [State_modChan_sys, State_setCtx_sys, faultJob_sys, outSys_next]
    | split
    | (intro _)
    | refine Eq.trans (pltr_sys _ _ _ _ _ ?_) ?_
    | dsimp only

theorem execPltrAck_sys (f c : Nat) (s : State) :
    outSys (execPltrAck f c s) s.sys = s.sys := by
  unfold execPltrAck
  repeat' first
    | with_reducible rfl
    | with_reducible assumption
    | simp only [State_modChan_sys, report_sys, outSys_next]
    | split
    | (intro _)
    | refine Eq.trans (pltr_sys _ _ _ _ _ ?_) ?_
    | dsimp only

theorem execPltrLoss_sys (f c : Nat) (s : State) :
    outSys (execPltrLoss f c s) s.sys = s.sys := by
  unfold execPltrLoss
  repeat' first
    | with_reducible rfl
    | with_reducible assumption
    | simp only [State_modChan_sys, State_setCtx_sys, outSys_next]
    | split
    | (intro _)
    | refine Eq.trans (pltr_sys _ _ _ _ _ ?_) ?_
    | dsimp only

theorem execPltrDrop_sys (f c : Nat) (s : State) :
    outSys (execPltrDrop f c s) s.sys = s.sys := by
  unfold execPltrDrop
  repeat' first
    | with_reducible rfl
    | with_reducible assumption
    | simp only [State_setCtx_sys, faultJob_sys, dropLtr_sys, outSys_next]
    | split
    | (intro _)
    | refine Eq.trans (pltr_sys _ _ _ _ _ ?_) ?_
    | dsimp only

theorem setStats_sys (s : State) (c src : Nat) (b : Buf) (nref : Nat) (secs : Tab (List StatSec)) :
    (setStats s c src b nref secs).sys = s.sys := by
  unfold setStats
  repeat' first
    | with_reducible rfl
    | with_reducible assumption
    | simp only [State_modChan_sys]
    | split
    | (intro _)
    | dsimp only

theorem latency_sys (s : State) (c : Nat) (t0 : DWord) :
    (latency s c t0).sys = s.sys := by
  unfold latency
  repeat' first
    | with_reducible rfl
    | with_reducible assumption
    | simp only [State_wch_sys]
    | split
    | (intro _)
    | dsimp only

theorem addWaits_sys (s : State) (c : Nat) (w : List Nat) :
    (addWaits s c w).sys = s.sys := by
  unfold addWaits
  repeat' first
    | with_reducible rfl
    | with_reducible assumption
    | simp only [State_addqch_sys]
    | split
    | (intro _)
    | refine Eq.trans (sys_foldl ?_ _ _) ?_
    | refine Eq.trans (sys_foldl_snd ?_ _ _) ?_
    | refine Eq.trans (sys_foldl_fst ?_ _ _) ?_
    | dsimp only

end Sys2Proof.Machine
end

