-- ==== Sys2Proof/Laws/Fuse3.lean ====
section
/-! SUPPORT. What leaves fuses alone, part 3: the fuses and the boot state stay through the operations of:
DecodeVideo, EncodeOps, Encode, Ladder, Scale, Moves, Time, Power. One lemma per function. -/

set_option linter.unusedSimpArgs false
set_option linter.unusedVariables false

namespace Sys2Proof.Machine

open State

theorem fifoEat_sys (s : State) (k n : Nat) :
    (fifoEat s k n).sys = s.sys := by
  unfold fifoEat
  repeat' first
    | with_reducible rfl
    | with_reducible assumption
    | simp only [State_setFifo_sys, dropItems_sys, fifoReleaseIn_sys]
    | split
    | (intro _)
    | dsimp only

theorem addEmpty_sys {s : State} {hh : Nat} {rows : Bool} {v0} {tq : State}
    (h : (addEmpty s hh rows) = some (v0, tq)) :
    tq.sys = s.sys := by
  revert h
  unfold addEmpty
  intro h
  obtain ⟨⟨w, t⟩, h1, h2⟩ := Option.map_eq_some_iff.mp h
  cases h2
  exact (State_addBuf_sys ..).trans (newHandle_sys h1)

theorem endNow_sys (s : State) (k : Nat) (x : Ctx) (i : Ins) (w : DWord) :
    (endNow s k x i w).sys = s.sys := by
  unfold endNow
  repeat' first
    | with_reducible rfl
    | with_reducible assumption
    | simp only [State_setCtx_sys]
    | split
    | (intro _)
    | dsimp only

theorem reachChan_sys (s : State) (c f : Nat) :
    (reachChan s c f).sys = s.sys := by
  unfold reachChan
  repeat' first
    | with_reducible rfl
    | with_reducible assumption
    | simp only [State_modChan_sys, beginChan_sys]
    | split
    | (intro _)
    | dsimp only

theorem execDecPic_sys (f c : Nat) (s : State) :
    outSys (execDecPic f c s) s.sys = s.sys := by
  unfold execDecPic
  repeat' first
    | with_reducible rfl
    | with_reducible assumption
    | exact Eq.symm (by with_reducible assumption)
    | simp only [faultJob_sys, startWork_sys, askSpan_sys, endNow_sys, reachChan_sys, outSys_done]
    | split
    | (intro h1; obtain ⟨rfl, rfl⟩ := Prod.mk.inj h1)
    | (intro h1; obtain rfl := Option.some.inj h1)
    | (intro _)
    | refine Eq.trans (sys_foldl ?_ _ _) ?_
    | refine Eq.trans (sys_foldl_snd ?_ _ _) ?_
    | refine Eq.trans (sys_foldl_fst ?_ _ _) ?_
    | refine Eq.trans (issue_sys _ _ _ _ _ _ ?_) ?_
    | refine Eq.trans (withEngine_sys _ _ _ _ _ _ _ ?_ ?_) ?_
    | refine Eq.trans (addEmpty_sys (by assumption)) ?_
    | exact Eq.symm (by simp only [faultJob_sys, startWork_sys, askSpan_sys, endNow_sys, reachChan_sys, outSys_done]; with_reducible first | rfl | assumption)
    | dsimp only
    | contradiction

theorem execDecRowPublish_sys (n rows used : Nat) (bad : Bool) (s : State) :
    outSys (execDecRowPublish n rows used bad s) s.sys = s.sys := by
  unfold execDecRowPublish
  repeat' first
    | with_reducible rfl
    | with_reducible assumption
    | simp only [fifoReset_sys, State_modBuf_sys, fifoEat_sys, outSys_next, outSys_done]
    | split
    | (intro _)
    | dsimp only

theorem glean_sys {s : State} {c : Nat} {b : Blk} {m : Missing} {v0} {tq : State}
    (h : (glean s c b m) = (v0, tq)) :
    tq.sys = s.sys := by
  revert h
  unfold glean
  repeat' first
    | with_reducible rfl
    | with_reducible assumption
    | simp only [State_cntch_sys, State_modChan_sys, State_modBuf_sys]
    | split
    | (intro h1; rw [Option.bind_eq_some_iff] at h1; obtain ⟨_, h0, h2⟩ := h1; revert h0 h2)
    | (intro h1; cases h1)
    | (intro _)
    | dsimp only

theorem glean_sys2 (s : State) (c : Nat) (b : Blk) (m : Missing) :
    (glean s c b m).2.sys = s.sys := by
  rcases hq : (glean s c b m) with ⟨v0, tq⟩; exact glean_sys  hq

theorem applyMarks_sys (s : State) (c : Nat) (l : List (Nat × Bool)) :
    (applyMarks s c l).sys = s.sys := by
  unfold applyMarks
  repeat' first
    | with_reducible rfl
    | with_reducible assumption
    | simp only [State_modChan_sys, State_modBuf_sys]
    | split
    | (intro _)
    | refine Eq.trans (sys_foldl ?_ _ _) ?_
    | refine Eq.trans (sys_foldl_snd ?_ _ _) ?_
    | refine Eq.trans (sys_foldl_fst ?_ _ _) ?_
    | dsimp only

theorem stampPic_sys {s : State} {c : Nat} {y : Chan} {p : DecPic} {v0} {v1} {v2} {tq : State}
    (h : (stampPic s c y p) = (v0, v1, v2, tq)) :
    tq.sys = s.sys := by
  revert h
  unfold stampPic
  repeat' first
    | with_reducible rfl
    | with_reducible assumption
    | simp only [chanEvent_sys, State_modChan_sys]
    | split
    | (intro h1; cases h1)
    | (intro _)
    | dsimp only

theorem stampPic_sys2 (s : State) (c : Nat) (y : Chan) (p : DecPic) :
    (stampPic s c y p).2.2.2.sys = s.sys := by
  rcases hq : (stampPic s c y p) with ⟨v0, v1, v2, tq⟩; exact stampPic_sys  hq

theorem dropPrior_sys (s : State) (c : Nat) (on : Bool) :
    (dropPrior s c on).sys = s.sys := by
  unfold dropPrior
  repeat' first
    | with_reducible rfl
    | with_reducible assumption
    | simp only [State_modBuf_sys]
    | split
    | (intro _)
    | refine Eq.trans (sys_foldl ?_ _ _) ?_
    | refine Eq.trans (sys_foldl_snd ?_ _ _) ?_
    | refine Eq.trans (sys_foldl_fst ?_ _ _) ?_
    | dsimp only

theorem gleanAll_sys {c : Nat} {blk : Blk} {l : List Missing} {s : State} {v0} {tq : State}
    (h : (gleanAll c blk l s) = (v0, tq)) :
    tq.sys = s.sys := by
  unfold gleanAll at h
  have h2 := congrArg (fun p => p.2.sys) h
  refine Eq.trans h2.symm (sys_foldl_snd (fun a m => ?_) _ _)
  dsimp only
  split
  · rfl
  · exact glean_sys2 ..

theorem gleanAll_sys2 (c : Nat) (blk : Blk) (l : List Missing) (s : State) :
    (gleanAll c blk l s).2.sys = s.sys := by
  rcases hq : (gleanAll c blk l s) with ⟨v0, tq⟩; exact gleanAll_sys  hq

theorem decodeInto_sys (c n : Nat) (t0 : DWord) (nv : Bool) (y : Chan) (s : State) (p : DecPic) :
    (decodeInto c n t0 nv y s p).sys = s.sys := by
  unfold decodeInto
  repeat' first
    | with_reducible rfl
    | with_reducible assumption
    | simp only [State_addq2_sys, State_raise_sys, State_modChan_sys, State_modBuf_sys, fifoEat_sys, applyMarks_sys, dropPrior_sys, stampPic_sys2, gleanAll_sys2]
    | split
    | (intro _)
    | refine Eq.trans (stampPic_sys (by assumption)) ?_
    | refine Eq.trans (gleanAll_sys (by assumption)) ?_
    | dsimp only

theorem decodeShow_sys (c n : Nat) (t0 : DWord) (y : Chan) (s : State) (p : DecPic) :
    (decodeShow c n t0 y s p).sys = s.sys := by
  unfold decodeShow
  repeat' first
    | with_reducible rfl
    | with_reducible assumption
    | simp only [State_modBuf_sys, fifoEat_sys, stampPic_sys2]
    | split
    | (intro _)
    | refine Eq.trans (stampPic_sys (by assumption)) ?_
    | dsimp only

theorem decodeOne_sys {c : Nat} {nv : Bool} {s : State} {p : DecPic} {v0} {tq : State}
    (h : (decodeOne c nv s p) = (tq, v0)) :
    tq.sys = s.sys := by
  revert h
  unfold decodeOne
  repeat' first
    | with_reducible rfl
    | with_reducible assumption
    | simp only [fifoEat_sys, decodeInto_sys, decodeShow_sys]
    | split
    | (intro h1; cases h1)
    | (intro _)
    | dsimp only

theorem decodeOne_sys2 (c : Nat) (nv : Bool) (s : State) (p : DecPic) :
    (decodeOne c nv s p).1.sys = s.sys := by
  rcases hq : (decodeOne c nv s p) with ⟨tq, v0⟩; exact decodeOne_sys  hq

theorem decodeAll_sys {c : Nat} {nv : Bool} {m0 : List DecPic} {s : State} {v0} {tq : State}
    (h : (decodeAll c nv m0 s) = (tq, v0)) :
    tq.sys = s.sys := by
  induction m0 generalizing s v0 with
  | nil => cases h; rfl
  | cons p l ih =>
    rw [decodeAll] at h
    split at h
    · exact (ih h).trans (decodeOne_sys (by assumption))
    · exact decodeOne_sys h

theorem decodeAll_sys2 (c : Nat) (nv : Bool) (m0 : List DecPic) (s : State) :
    (decodeAll c nv m0 s).1.sys = s.sys := by
  rcases hq : (decodeAll c nv m0 s) with ⟨tq, v0⟩; exact decodeAll_sys  hq

theorem remapBuf_sys (s : State) (a b : Nat) :
    (remapBuf s a b).sys = s.sys := by
  unfold remapBuf
  repeat' first
    | with_reducible rfl
    | with_reducible assumption
    | split
    | (intro _)
    | dsimp only

theorem decNone_sys (s : State) (n p code : Nat) :
    (decNone s n p code).sys = s.sys := by
  unfold decNone
  repeat' first
    | with_reducible rfl
    | with_reducible assumption
    | simp only [State_modBuf_sys, endWork_sys]
    | split
    | (intro _)
    | dsimp only

theorem decReturn_sys (s : State) (c n p m : Nat) (bits : List Nat) :
    (decReturn s c n p m bits).sys = s.sys := by
  unfold decReturn
  repeat' first
    | with_reducible rfl
    | with_reducible assumption
    | simp only [State_wch_sys, State_cntch_sys, State_setVid_sys, State_modChan_sys, endWork_sys, setStats_sys, latency_sys, remapBuf_sys]
    | split
    | (intro _)
    | dsimp only

theorem decExtras_sys (s : State) (c : Nat) (r : DecIn) :
    (decExtras s c r).sys = s.sys := by
  unfold decExtras
  repeat' first
    | with_reducible rfl
    | with_reducible assumption
    | simp only [State_addch_sys, State_addq2_sys, addWaits_sys, fifoEat_sys]
    | split
    | (intro _)
    | dsimp only

theorem execDecPicComplete_sys (n : Nat) (r : DecIn) (s : State) :
    outSys (execDecPicComplete n r s) s.sys = s.sys := by
  unfold execDecPicComplete
  repeat' first
    | with_reducible rfl
    | with_reducible assumption
    | simp only [homeMove_sys, poolShort_sys, decNone_sys, decReturn_sys, decExtras_sys, decodeAll_sys2, outSys_next, outSys_done]
    | split
    | (intro _)
    | refine Eq.trans (decodeAll_sys (by assumption)) ?_
    | dsimp only

theorem execDecodeCeilingReached_sys (n cyc : Nat) (s : State) :
    outSys (execDecodeCeilingReached n cyc s) s.sys = s.sys := by
  unfold execDecodeCeilingReached
  repeat' first
    | with_reducible rfl
    | with_reducible assumption
    | simp only [State_setChan_sys, outSys_next]
    | split
    | (intro _)
    | dsimp only

theorem repeatPic_sys (s : State) (y : Chan) (m : Nat) :
    (repeatPic s y m).sys = s.sys := by
  unfold repeatPic
  repeat' first
    | with_reducible rfl
    | with_reducible assumption
    | simp only [State_modBuf_sys]
    | split
    | (intro _)
    | dsimp only

theorem execDecodeDeadlineExpiry_sys (n : Nat) (r : DecIn) (s : State) :
    outSys (execDecodeDeadlineExpiry n r s) s.sys = s.sys := by
  unfold execDecodeDeadlineExpiry
  repeat' first
    | with_reducible rfl
    | with_reducible assumption
    | simp only [homeMove_sys, poolShort_sys, decNone_sys, decReturn_sys, decExtras_sys, repeatPic_sys, decodeAll_sys2, outSys_next, outSys_done]
    | split
    | (intro _)
    | refine Eq.trans (decodeAll_sys (by assumption)) ?_
    | dsimp only

theorem execSpanGrantTimeout_sys (c f : Nat) (s : State) :
    outSys (execSpanGrantTimeout c f s) s.sys = s.sys := by
  unfold execSpanGrantTimeout
  repeat' first
    | with_reducible rfl
    | with_reducible assumption
    | simp only [State_setChan_sys, outSys_next]
    | split
    | (intro _)
    | dsimp only

theorem absorbChan_sys (s : State) (c : Nat) (l : List (Nat × PreIn)) :
    (absorbChan s c l).sys = s.sys := by
  unfold absorbChan
  repeat' first
    | with_reducible rfl
    | with_reducible assumption
    | simp only [State_setChan_sys, reapBufs_sys]
    | split
    | (intro _)
    | refine Eq.trans (sys_foldl ?_ _ _) ?_
    | refine Eq.trans (sys_foldl_snd ?_ _ _) ?_
    | refine Eq.trans (sys_foldl_fst ?_ _ _) ?_
    | dsimp only

theorem keepShort_sys (s : State) (c : Nat) (keep : List Nat) :
    (keepShort s c keep).sys = s.sys := by
  unfold keepShort
  repeat' first
    | with_reducible rfl
    | with_reducible assumption
    | simp only [State_modBuf_sys]
    | split
    | (intro _)
    | refine Eq.trans (sys_foldl ?_ _ _) ?_
    | refine Eq.trans (sys_foldl_snd ?_ _ _) ?_
    | refine Eq.trans (sys_foldl_fst ?_ _ _) ?_
    | dsimp only

theorem dropLtrs_sys (s : State) (c : Nat) (f : Ltr → Bool) :
    (dropLtrs s c f).sys = s.sys := by
  unfold dropLtrs
  repeat' first
    | with_reducible rfl
    | with_reducible assumption
    | simp only [dropLtr_sys]
    | split
    | (intro _)
    | refine Eq.trans (sys_foldl ?_ _ _) ?_
    | refine Eq.trans (sys_foldl_snd ?_ _ _) ?_
    | refine Eq.trans (sys_foldl_fst ?_ _ _) ?_
    | dsimp only

theorem startMarks_sys (s : State) (c : Nat) (idr rec : Bool) (keep : List Nat) :
    (startMarks s c idr rec keep).sys = s.sys := by
  unfold startMarks
  repeat' first
    | with_reducible rfl
    | with_reducible assumption
    | simp only [keepShort_sys, dropLtrs_sys]
    | split
    | (intro _)
    | dsimp only

theorem budgetPic_sys (s : State) (c : Nat) (y : Chan) (p : LkPic) (ptype depth : Nat) (idr ltrRef : Bool) (e : EncStart) (behind : List (Nat × Nat × Nat)) (w0 h0 : Nat) :
    (budgetPic s c y p ptype depth idr ltrRef e behind w0 h0).sys = s.sys := by
  unfold budgetPic
  repeat' first
    | with_reducible rfl
    | with_reducible assumption
    | simp only [State_wch_sys, State_setChan_sys]
    | split
    | (intro _)
    | dsimp only

theorem takeBuf_sys (s : State) (c : Nat) :
    (takeBuf s c).sys = s.sys := by
  unfold takeBuf
  repeat' first
    | with_reducible rfl
    | with_reducible assumption
    | simp only [State_setChan_sys, State_modBuf_sys]
    | split
    | (intro _)
    | dsimp only

theorem beginPic_sys (s : State) (c : Nat) (p : LkPic) (ptype depth : Nat) (idr : Bool) (e : EncStart) (behind : List (Nat × Nat × Nat)) (w0 h0 : Nat) :
    (beginPic s c p ptype depth idr e behind w0 h0).sys = s.sys := by
  unfold beginPic
  repeat' first
    | with_reducible rfl
    | with_reducible assumption
    | simp only [chanEvent_sys, homeMove_sys, startMarks_sys, budgetPic_sys, takeBuf_sys]
    | split
    | (intro _)
    | dsimp only

theorem setStaged_sys (s : State) (c b : Nat) (l : List Item) :
    (setStaged s c b l).sys = s.sys := by
  unfold setStaged
  repeat' first
    | with_reducible rfl
    | with_reducible assumption
    | split
    | (intro _)
    | dsimp only

theorem fillRow_sys {s : State} {hh lim need : Nat} {head : Option Nat} {have_ used : Nat} {m0 : Nat} {v0} {v1} {tq : State}
    (h : (fillRow s hh lim need head have_ used m0) = (v0, v1, tq)) :
    tq.sys = s.sys := by
  revert h
  cases m0 <;> unfold fillRow
  all_goals repeat' first
    | with_reducible rfl
    | with_reducible assumption
    | simp only [cellFail_sys]
    | split
    | (intro h1; cases h1)
    | (intro _)
    | refine Eq.trans (growChain_sys (by assumption)) ?_
    | refine Eq.trans (fillRow_sys  (by assumption)) ?_
    | dsimp only

theorem fillRow_sys2 (s : State) (hh lim need : Nat) (head : Option Nat) (have_ used : Nat) (m0 : Nat) :
    (fillRow s hh lim need head have_ used m0).2.2.sys = s.sys := by
  rcases hq : (fillRow s hh lim need head have_ used m0) with ⟨v0, v1, tq⟩; exact fillRow_sys  hq

theorem egressClock_sys (s : State) (c : Nat) (dts : DWord) (disc : Bool) :
    (egressClock s c dts disc).sys = s.sys := by
  unfold egressClock
  repeat' first
    | with_reducible rfl
    | with_reducible assumption
    | simp only [State_setEgr_sys]
    | split
    | (intro _)
    | dsimp only

theorem commitItems_sys (s : State) (c hh : Nat) (l : List Item) :
    (commitItems s c hh l).sys = s.sys := by
  unfold commitItems
  repeat' first
    | with_reducible rfl
    | with_reducible assumption
    | simp only [State_setFifo_sys, dropItems_sys, egressClock_sys]
    | split
    | (intro _)
    | refine Eq.trans (commitPending_sys (by assumption)) ?_
    | dsimp only

theorem commitBand_sys (s : State) (c hh b keep : Nat) (front : Bool) :
    (commitBand s c hh b keep front).sys = s.sys := by
  unfold commitBand
  repeat' first
    | with_reducible rfl
    | with_reducible assumption
    | simp only [State_setFifo_sys, setStaged_sys, commitItems_sys]
    | split
    | (intro _)
    | dsimp only

theorem putRow_sys (s : State) (c b : Nat) (i : Item) :
    (putRow s c b i).sys = s.sys := by
  unfold putRow
  repeat' first
    | with_reducible rfl
    | with_reducible assumption
    | simp only [State_setFifo_sys, setStaged_sys]
    | split
    | (intro _)
    | dsimp only

theorem rewindRow_sys (s : State) (c b : Nat) :
    (rewindRow s c b).sys = s.sys := by
  unfold rewindRow
  repeat' first
    | with_reducible rfl
    | with_reducible assumption
    | simp only [dropItems_sys, producerRewind_sys, setStaged_sys]
    | split
    | (intro _)
    | dsimp only

theorem keepRecon_sys (s : State) (c : Nat) (u : Cur) (r : RowIn) :
    (keepRecon s c u r).sys = s.sys := by
  unfold keepRecon
  repeat' first
    | with_reducible rfl
    | with_reducible assumption
    | simp only [State_modChan_sys, State_modBuf_sys, dropLtr_sys]
    | split
    | (intro _)
    | dsimp only

theorem showCoded_sys (s : State) (c : Nat) (r : Coded) :
    (showCoded s c r).sys = s.sys := by
  unfold showCoded
  repeat' first
    | with_reducible rfl
    | with_reducible assumption
    | simp only [State_wch_sys, State_cntch_sys, State_modChan_sys]
    | split
    | (intro _)
    | dsimp only

theorem putCoded_sys (s : State) (c : Nat) (r : Coded) :
    (putCoded s c r).sys = s.sys := by
  unfold putCoded
  repeat' first
    | with_reducible rfl
    | with_reducible assumption
    | simp only [State_setVid_sys, State_setChan_sys, showCoded_sys]
    | split
    | (intro _)
    | dsimp only

theorem groupDone_sys (s : State) (g : Nat) :
    (groupDone s g).sys = s.sys := by
  unfold groupDone
  repeat' first
    | with_reducible rfl
    | with_reducible assumption
    | simp only [reapBufs_sys, State_setGrp_sys]
    | split
    | (intro _)
    | dsimp only

theorem endPic_sys (s : State) (c : Nat) (r : RowIn) (force : Option Nat) :
    (endPic s c r force).sys = s.sys := by
  unfold endPic
  repeat' first
    | with_reducible rfl
    | with_reducible assumption
    | simp only [State_addq2_sys, State_setVid_sys, State_setChan_sys, reapBufs_sys, latency_sys, keepRecon_sys, putCoded_sys, groupDone_sys]
    | split
    | (intro _)
    | refine Eq.trans (sys_foldl ?_ _ _) ?_
    | refine Eq.trans (sys_foldl_snd ?_ _ _) ?_
    | refine Eq.trans (sys_foldl_fst ?_ _ _) ?_
    | dsimp only

theorem advanceFront_sys {s : State} {c hh : Nat} {u : Cur} {m0 : Nat} {v0} {tq : State}
    (h : (advanceFront s c hh u m0) = (v0, tq)) :
    tq.sys = s.sys := by
  have H : ∀ n, (advanceFront s c hh u n).2.sys = s.sys := by
    intro n
    induction n with
    | zero => rfl
    | succ n ih =>
      rw [advanceFront]
      dsimp only
      repeat' first
        | exact ih
        | split
        | simp only [commitBand_sys]
  have h2 := congrArg (fun p => p.2.sys) h
  exact h2.symm.trans (H m0)

theorem advanceFront_sys2 (s : State) (c hh : Nat) (u : Cur) (m0 : Nat) :
    (advanceFront s c hh u m0).2.sys = s.sys := by
  rcases hq : (advanceFront s c hh u m0) with ⟨v0, tq⟩; exact advanceFront_sys  hq

theorem rowDone_sys (s : State) (c : Nat) (y : Chan) (u : Cur) (b : Nat) (x : Band) (r : RowIn) (i : Item) :
    (rowDone s c y u b x r i).sys = s.sys := by
  unfold rowDone
  repeat' first
    | with_reducible rfl
    | with_reducible assumption
    | simp only [State_cntch_sys, State_setChan_sys, State_modChan_sys, commitBand_sys, putRow_sys, rewindRow_sys, endPic_sys, advanceFront_sys2]
    | split
    | (intro _)
    | refine Eq.trans (advanceFront_sys (by assumption)) ?_
    | dsimp only

theorem stuffDone_sys (s : State) (c : Nat) (y : Chan) (u : Cur) (r : RowIn) (i : Item) :
    (stuffDone s c y u r i).sys = s.sys := by
  unfold stuffDone
  repeat' first
    | with_reducible rfl
    | with_reducible assumption
    | simp only [State_setChan_sys, commitItems_sys, endPic_sys]
    | split
    | (intro _)
    | dsimp only

theorem cutPic_sys (s : State) (c code : Nat) :
    (cutPic s c code).sys = s.sys := by
  unfold cutPic
  repeat' first
    | with_reducible rfl
    | with_reducible assumption
    | simp only [decRef_sys, State_setFifo_sys, dropItems_sys, State_modChan_sys, setStaged_sys, endPic_sys]
    | split
    | (intro _)
    | refine Eq.trans (sys_foldl ?_ _ _) ?_
    | refine Eq.trans (sys_foldl_snd ?_ _ _) ?_
    | refine Eq.trans (sys_foldl_fst ?_ _ _) ?_
    | dsimp only

theorem placeRow_sys (s : State) (c : Nat) (y : Chan) (u : Cur) (st : Stall) :
    (placeRow s c y u st).sys = s.sys := by
  unfold placeRow
  repeat' first
    | with_reducible rfl
    | with_reducible assumption
    | simp only [State_setChan_sys, rowDone_sys, stuffDone_sys, cutPic_sys, fillRow_sys2]
    | split
    | (intro _)
    | refine Eq.trans (fillRow_sys (by assumption)) ?_
    | dsimp only

theorem resumeRow_sys (s : State) (c : Nat) :
    (resumeRow s c).sys = s.sys := by
  unfold resumeRow
  repeat' first
    | with_reducible rfl
    | with_reducible assumption
    | simp only [placeRow_sys]
    | split
    | (intro _)
    | dsimp only

theorem execEncPic_sys (f c : Nat) (s : State) :
    outSys (execEncPic f c s) s.sys = s.sys := by
  unfold execEncPic
  repeat' first
    | with_reducible rfl
    | with_reducible assumption
    | exact Eq.symm (by with_reducible assumption)
    | simp only [State_setChan_sys, faultJob_sys, startWork_sys, askSpan_sys, endNow_sys, reachChan_sys, outSys_done]
    | split
    | (intro h1; obtain ⟨rfl, rfl⟩ := Prod.mk.inj h1)
    | (intro h1; obtain rfl := Option.some.inj h1)
    | (intro _)
    | refine Eq.trans (sys_foldl ?_ _ _) ?_
    | refine Eq.trans (sys_foldl_snd ?_ _ _) ?_
    | refine Eq.trans (sys_foldl_fst ?_ _ _) ?_
    | refine Eq.trans (issue_sys _ _ _ _ _ _ ?_) ?_
    | refine Eq.trans (withEngine_sys _ _ _ _ _ _ _ ?_ ?_) ?_
    | exact Eq.symm (by simp only [State_setChan_sys, faultJob_sys, startWork_sys, askSpan_sys, endNow_sys, reachChan_sys, outSys_done]; with_reducible first | rfl | assumption)
    | dsimp only
    | contradiction

theorem rungBegin_sys (s : State) (g c r : Nat) (y : Chan) (p : GrpPic) (e : EncStart) :
    (rungBegin s g c r y p e).sys = s.sys := by
  unfold rungBegin
  repeat' first
    | with_reducible rfl
    | with_reducible assumption
    | simp only [State_setVid_sys, beginPic_sys, putCoded_sys, groupDone_sys]
    | split
    | (intro _)
    | dsimp only

theorem execEncPictureStart_sys (c : Nat) (e : EncStart) (s : State) :
    outSys (execEncPictureStart c e s) s.sys = s.sys := by
  unfold execEncPictureStart
  repeat' first
    | with_reducible rfl
    | with_reducible assumption
    | simp only [State_setChan_sys, reapBufs_sys, State_setGrp_sys, absorbChan_sys, beginPic_sys, rungBegin_sys, outSys_next, outSys_done]
    | split
    | (intro _)
    | dsimp only

theorem execEncRowCoded_sys (c : Nat) (r : RowIn) (s : State) :
    outSys (execEncRowCoded c r s) s.sys = s.sys := by
  unfold execEncRowCoded
  repeat' first
    | with_reducible rfl
    | with_reducible assumption
    | simp only [State_addch_sys, State_addq2_sys, State_setChan_sys, addWaits_sys, takeBuf_sys, placeRow_sys, outSys_next, outSys_done]
    | split
    | (intro _)
    | dsimp only

theorem execEncTimeBudgetExpiry_sys (c : Nat) (s : State) :
    outSys (execEncTimeBudgetExpiry c s) s.sys = s.sys := by
  unfold execEncTimeBudgetExpiry
  repeat' first
    | with_reducible rfl
    | with_reducible assumption
    | simp only [State_setChan_sys, takeBuf_sys, cutPic_sys, outSys_next, outSys_done]
    | split
    | (intro _)
    | dsimp only

theorem execEncPicComplete_sys (n : Nat) (q : PreIn) (s : State) :
    outSys (execEncPicComplete n q s) s.sys = s.sys := by
  unfold execEncPicComplete
  repeat' first
    | with_reducible rfl
    | with_reducible assumption
    | simp only [State_setChan_sys, endWork_sys, absorbChan_sys, showCoded_sys, outSys_next, outSys_done]
    | split
    | (intro _)
    | dsimp only

theorem execMuxRateTick_sys (m : Nat) (s : State) :
    outSys (execMuxRateTick m s) s.sys = s.sys := by
  unfold execMuxRateTick
  repeat' first
    | with_reducible rfl
    | with_reducible assumption
    | simp only [State_wch_sys, State_setChan_sys, State_modChan_sys, State_setMux_sys, outSys_next]
    | split
    | (intro _)
    | refine Eq.trans (sys_foldl ?_ _ _) ?_
    | refine Eq.trans (sys_foldl_snd ?_ _ _) ?_
    | refine Eq.trans (sys_foldl_fst ?_ _ _) ?_
    | dsimp only

theorem ladderNow_sys (s : State) (k : Nat) (x : Ctx) (i : Ins) (g : Grp) (counter : Word) (code : Nat) :
    (ladderNow s k x i g counter code).sys = s.sys := by
  unfold ladderNow
  repeat' first
    | with_reducible rfl
    | with_reducible assumption
    | simp only [endNow_sys]
    | split
    | (intro _)
    | dsimp only

theorem acceptRungs_sys (s : State) (g : Grp) (f : Nat) :
    (acceptRungs s g f).sys = s.sys := by
  unfold acceptRungs
  repeat' first
    | with_reducible rfl
    | with_reducible assumption
    | simp only [State_modChan_sys, reachChan_sys]
    | split
    | (intro _)
    | refine Eq.trans (sys_foldl ?_ _ _) ?_
    | refine Eq.trans (sys_foldl_snd ?_ _ _) ?_
    | refine Eq.trans (sys_foldl_fst ?_ _ _) ?_
    | dsimp only

theorem execEncLadder_sys (f c : Nat) (s : State) :
    outSys (execEncLadder f c s) s.sys = s.sys := by
  unfold execEncLadder
  repeat' first
    | with_reducible rfl
    | with_reducible assumption
    | exact Eq.symm (by with_reducible assumption)
    | simp only [faultJob_sys, startWork_sys, State_setGrp_sys, ladderNow_sys, acceptRungs_sys, outSys_done]
    | split
    | (intro h1; obtain ⟨rfl, rfl⟩ := Prod.mk.inj h1)
    | (intro h1; obtain rfl := Option.some.inj h1)
    | (intro _)
    | refine Eq.trans (sys_foldl ?_ _ _) ?_
    | refine Eq.trans (sys_foldl_snd ?_ _ _) ?_
    | refine Eq.trans (sys_foldl_fst ?_ _ _) ?_
    | refine Eq.trans (issue_sys _ _ _ _ _ _ ?_) ?_
    | refine Eq.trans (withEngine_sys _ _ _ _ _ _ _ ?_ ?_) ?_
    | exact Eq.symm (by simp only [faultJob_sys, startWork_sys, State_setGrp_sys, ladderNow_sys, acceptRungs_sys, outSys_done]; with_reducible first | rfl | assumption)
    | dsimp only
    | contradiction

theorem execEncLadderComplete_sys (n : Nat) (q : PreIn) (s : State) :
    outSys (execEncLadderComplete n q s) s.sys = s.sys := by
  unfold execEncLadderComplete
  repeat' first
    | with_reducible rfl
    | with_reducible assumption
    | simp only [State_modChan_sys, reapBufs_sys, endWork_sys, State_setGrp_sys, showCoded_sys, outSys_next, outSys_done]
    | split
    | (intro _)
    | refine Eq.trans (sys_foldl ?_ _ _) ?_
    | refine Eq.trans (sys_foldl_snd ?_ _ _) ?_
    | refine Eq.trans (sys_foldl_fst ?_ _ _) ?_
    | dsimp only

theorem execAnalyze_sys (f c : Nat) (s : State) :
    outSys (execAnalyze f c s) s.sys = s.sys := by
  unfold execAnalyze
  repeat' first
    | with_reducible rfl
    | with_reducible assumption
    | exact Eq.symm (by with_reducible assumption)
    | simp only [faultJob_sys, startWork_sys, endNow_sys, reachChan_sys, outSys_done]
    | split
    | (intro h1; obtain ⟨rfl, rfl⟩ := Prod.mk.inj h1)
    | (intro h1; obtain rfl := Option.some.inj h1)
    | (intro _)
    | refine Eq.trans (sys_foldl ?_ _ _) ?_
    | refine Eq.trans (sys_foldl_snd ?_ _ _) ?_
    | refine Eq.trans (sys_foldl_fst ?_ _ _) ?_
    | refine Eq.trans (issue_sys _ _ _ _ _ _ ?_) ?_
    | refine Eq.trans (withEngine_sys _ _ _ _ _ _ _ ?_ ?_) ?_
    | exact Eq.symm (by simp only [faultJob_sys, startWork_sys, endNow_sys, reachChan_sys, outSys_done]; with_reducible first | rfl | assumption)
    | dsimp only
    | contradiction

theorem execAnalyzeComplete_sys (n : Nat) (q : PreIn) (s : State) :
    outSys (execAnalyzeComplete n q s) s.sys = s.sys := by
  unfold execAnalyzeComplete
  repeat' first
    | with_reducible rfl
    | with_reducible assumption
    | simp only [State_setChan_sys, endWork_sys, outSys_next, outSys_done]
    | split
    | (intro _)
    | dsimp only

theorem issueScale_sys (op : Nat) (f c : Nat) (s : State) (ok : State → Ctx → Ins → Nat → Buf → Nat × Nat × Nat × Nat → Bool) (now : State → Buf → Buf → Option Nat) (kind : Ctx → Ins → Nat → Nat → WorkKind) :
    (issueScale op f c s ok now kind).sys = s.sys := by
  unfold issueScale
  repeat' first
    | with_reducible rfl
    | with_reducible assumption
    | exact Eq.symm (by with_reducible assumption)
    | simp only [State_modBuf_sys, faultJob_sys, startWork_sys, endNow_sys]
    | split
    | (intro h1; obtain ⟨rfl, rfl⟩ := Prod.mk.inj h1)
    | (intro h1; obtain rfl := Option.some.inj h1)
    | (intro _)
    | refine Eq.trans (sys_foldl ?_ _ _) ?_
    | refine Eq.trans (sys_foldl_snd ?_ _ _) ?_
    | refine Eq.trans (sys_foldl_fst ?_ _ _) ?_
    | refine Eq.trans (issue_sys _ _ _ _ _ _ ?_) ?_
    | refine Eq.trans (withEngine_sys _ _ _ _ _ _ _ ?_ ?_) ?_
    | exact Eq.symm (by simp only [State_modBuf_sys, faultJob_sys, startWork_sys, endNow_sys]; with_reducible first | rfl | assumption)
    | dsimp only
    | contradiction

theorem execScale_sys (f c : Nat) (s : State) :
    outSys (execScale f c s) s.sys = s.sys := by
  unfold execScale
  repeat' first
    | with_reducible rfl
    | with_reducible assumption
    | simp only [issueScale_sys, outSys_done]
    | split
    | (intro _)
    | dsimp only

theorem execConvert_sys (f c : Nat) (s : State) :
    outSys (execConvert f c s) s.sys = s.sys := by
  unfold execConvert
  repeat' first
    | with_reducible rfl
    | with_reducible assumption
    | simp only [issueScale_sys, outSys_done]
    | split
    | (intro _)
    | dsimp only

theorem scaleEnd_sys (s : State) (n d code : Nat) :
    (scaleEnd s n d code).sys = s.sys := by
  unfold scaleEnd
  repeat' first
    | with_reducible rfl
    | with_reducible assumption
    | simp only [State_modBuf_sys, endWork_sys]
    | split
    | (intro _)
    | dsimp only

theorem putPicture_sys (s : State) (n d : Nat) (planes : List (List (List Nat))) (depth : Nat) (hh : Hdr) (motion : List (List Byte)) :
    (putPicture s n d planes depth hh motion).sys = s.sys := by
  unfold putPicture
  repeat' first
    | with_reducible rfl
    | with_reducible assumption
    | simp only [State_modBuf_sys, endWork_sys]
    | split
    | (intro _)
    | dsimp only

theorem execScaleComplete_sys (n : Nat) (s : State) :
    outSys (execScaleComplete n s) s.sys = s.sys := by
  unfold execScaleComplete
  repeat' first
    | with_reducible rfl
    | with_reducible assumption
    | simp only [scaleEnd_sys, putPicture_sys, outSys_next, outSys_done]
    | split
    | (intro _)
    | dsimp only

theorem execConvertComplete_sys (n : Nat) (s : State) :
    outSys (execConvertComplete n s) s.sys = s.sys := by
  unfold execConvertComplete
  repeat' first
    | with_reducible rfl
    | with_reducible assumption
    | simp only [scaleEnd_sys, putPicture_sys, outSys_next, outSys_done]
    | split
    | (intro _)
    | dsimp only

theorem sendFrames_sys (s : State) (q typ : Nat) (l : List (List Byte)) :
    (sendFrames s q typ l).sys = s.sys := by
  unfold sendFrames
  repeat' first
    | with_reducible rfl
    | with_reducible assumption
    | simp only [State_emit_sys, State_modBp_sys]
    | split
    | (intro _)
    | refine Eq.trans (sys_foldl ?_ _ _) ?_
    | refine Eq.trans (sys_foldl_snd ?_ _ _) ?_
    | refine Eq.trans (sys_foldl_fst ?_ _ _) ?_
    | dsimp only

theorem readFrames_sys (s : State) (hh : Nat) (p : Place) (len : Nat) :
    (readFrames s hh p len).sys = s.sys := by
  unfold readFrames
  repeat' first
    | with_reducible rfl
    | with_reducible assumption
    | simp only [sendFrames_sys]
    | split
    | (intro _)
    | dsimp only

theorem moveWrite_sys {s : State} {hh : Nat} {p : Place} {bs : List Byte} {rem : Nat} {v0} {tq : State}
    (h : (moveWrite s hh p bs rem) = some (tq, v0)) :
    tq.sys = s.sys := by
  revert h
  unfold moveWrite
  repeat' first
    | with_reducible rfl
    | with_reducible assumption
    | simp only [State_emit_sys, writeDev_sys, sendFrames_sys]
    | split
    | (intro h1; rw [Option.map_eq_some_iff] at h1; obtain ⟨_, h0, h2⟩ := h1; revert h0 h2)
    | (intro h1; cases h1)
    | (intro _)
    | dsimp only

theorem countDma_sys (s : State) (hh n : Nat) :
    (countDma s hh n).sys = s.sys := by
  unfold countDma
  repeat' first
    | with_reducible rfl
    | with_reducible assumption
    | simp only [State_addq0_sys]
    | split
    | (intro _)
    | dsimp only

theorem freeBytes_sys {s : State} {n : Nat} {v0} {tq : State}
    (h : (freeBytes s n) = (v0, tq)) :
    tq.sys = s.sys := by
  revert h
  unfold freeBytes
  repeat' first
    | with_reducible rfl
    | with_reducible assumption
    | split
    | (intro h1; rw [Option.map_eq_some_iff] at h1; obtain ⟨_, h0, h2⟩ := h1; revert h0 h2)
    | (intro h1; cases h1)
    | (intro _)
    | dsimp only

theorem freeBytes_sys2 (s : State) (n : Nat) :
    (freeBytes s n).2.sys = s.sys := by
  rcases hq : (freeBytes s n) with ⟨v0, tq⟩; exact freeBytes_sys  hq

theorem moveAll_sys {s : State} {hh : Nat} {dst src : Place} {len : Nat} {bf : Bool} {m : MoveIn} {v0} {tq : State}
    (h : (moveAll s hh dst src len bf m) = some (tq, v0)) :
    tq.sys = s.sys := by
  revert h
  unfold moveAll
  repeat' first
    | with_reducible rfl
    | with_reducible assumption
    | simp only [State_emit_sys, readFrames_sys, countDma_sys, freeBytes_sys2]
    | split
    | (intro h1; cases h1)
    | (intro _)
    | refine Eq.trans (moveWrite_sys (by assumption)) ?_
    | refine Eq.trans (freeBytes_sys (by assumption)) ?_
    | dsimp only

theorem noteMove_sys (s : State) (hh k : Nat) (p : Place) :
    (noteMove s hh k p).sys = s.sys := by
  unfold noteMove
  repeat' first
    | with_reducible rfl
    | with_reducible assumption
    | simp only [State_modCtx_sys]
    | split
    | (intro _)
    | dsimp only

theorem execXfer_sys (f c : Nat) (s : State) :
    outSys (execXfer f c s) s.sys = s.sys := by
  unfold execXfer
  repeat' first
    | with_reducible rfl
    | with_reducible assumption
    | simp only [faultJob_sys, startWork_sys, outSys_next]
    | split
    | (intro _)
    | refine Eq.trans (issue_sys _ _ _ _ _ _ ?_) ?_
    | dsimp only

theorem execFill_sys (f c : Nat) (s : State) :
    outSys (execFill f c s) s.sys = s.sys := by
  unfold execFill
  repeat' first
    | with_reducible rfl
    | with_reducible assumption
    | simp only [faultJob_sys, startWork_sys, outSys_next]
    | split
    | (intro _)
    | refine Eq.trans (issue_sys _ _ _ _ _ _ ?_) ?_
    | dsimp only

theorem issuePack_sys (inn : Bool) (f c : Nat) (s : State) :
    (issuePack inn f c s).sys = s.sys := by
  unfold issuePack
  repeat' first
    | with_reducible rfl
    | with_reducible assumption
    | exact Eq.symm (by with_reducible assumption)
    | simp only [faultJob_sys, startWork_sys, endNow_sys]
    | split
    | (intro h1; obtain ⟨rfl, rfl⟩ := Prod.mk.inj h1)
    | (intro h1; obtain rfl := Option.some.inj h1)
    | (intro _)
    | refine Eq.trans (sys_foldl ?_ _ _) ?_
    | refine Eq.trans (sys_foldl_snd ?_ _ _) ?_
    | refine Eq.trans (sys_foldl_fst ?_ _ _) ?_
    | refine Eq.trans (issue_sys _ _ _ _ _ _ ?_) ?_
    | refine Eq.trans (withEngine_sys _ _ _ _ _ _ _ ?_ ?_) ?_
    | exact Eq.symm (by simp only [faultJob_sys, startWork_sys, endNow_sys]; with_reducible first | rfl | assumption)
    | dsimp only
    | contradiction

theorem execPack_sys (f c : Nat) (s : State) :
    outSys (execPack f c s) s.sys = s.sys := by
  unfold execPack
  repeat' first
    | with_reducible rfl
    | with_reducible assumption
    | simp only [issuePack_sys, outSys_done]
    | split
    | (intro _)
    | dsimp only

theorem execPackIn_sys (f c : Nat) (s : State) :
    outSys (execPackIn f c s) s.sys = s.sys := by
  unfold execPackIn
  repeat' first
    | with_reducible rfl
    | with_reducible assumption
    | simp only [issuePack_sys, outSys_done]
    | split
    | (intro _)
    | dsimp only

theorem packOut_sys {s : State} {hh : Nat} {b : Buf} {p : Place} {stride : Nat} {m : MoveIn} {tq : State}
    (h : (packOut s hh b p stride m) = some tq) :
    tq.sys = s.sys := by
  unfold packOut at h
  have H : ∀ (l : List (Nat × Nat × Nat × Nat)) (o : Option State), (∀ t, o = some t → t.sys = s.sys) →
      ∀ t, l.foldl (fun (o : Option State) r =>
        o.bind fun t =>
          let bs := packRow b m r.1 r.2.1 r.2.2.2
          (moveWrite t hh (p.at_ r.2.2.1) bs 0).map fun u => countDma u.1 hh (hostBytes p bs.length)) o = some t →
        t.sys = s.sys := by
    intro l
    induction l with
    | nil => intro o ho t ht; exact ho t ht
    | cons r l ih =>
      intro o ho t ht
      refine ih _ ?_ t ht
      intro t1 h1
      obtain ⟨t0, h2, h3⟩ := Option.bind_eq_some_iff.mp h1
      obtain ⟨u, h4, h5⟩ := Option.map_eq_some_iff.mp h3
      cases h5
      exact (countDma_sys ..).trans ((moveWrite_sys h4).trans (ho t0 h2))
  exact H _ _ (fun t ht => by cases ht; rfl) _ h

theorem moveEnd_sys (s : State) (n : Nat) (w : Work) (dst : Place) (code : Nat) :
    (moveEnd s n w dst code).sys = s.sys := by
  unfold moveEnd
  repeat' first
    | with_reducible rfl
    | with_reducible assumption
    | simp only [endWork_sys, noteMove_sys]
    | split
    | (intro _)
    | dsimp only

theorem moveDone_sys {s : State} {n : Nat} {w : Work} {m : MoveIn} {tq : State}
    (h : (moveDone s n w m) = some tq) :
    tq.sys = s.sys := by
  revert h
  unfold moveDone
  repeat' first
    | with_reducible rfl
    | with_reducible assumption
    | simp only [State_emit_sys, State_setBuf_sys, endWork_sys, countDma_sys, moveEnd_sys]
    | split
    | (intro h1; rw [Option.map_eq_some_iff] at h1; obtain ⟨_, h0, h2⟩ := h1; revert h0 h2)
    | (intro h1; cases h1)
    | (intro _)
    | refine Eq.trans (moveWrite_sys (by assumption)) ?_
    | refine Eq.trans (moveAll_sys (by assumption)) ?_
    | refine Eq.trans (packOut_sys (by assumption)) ?_
    | dsimp only

theorem endTurn_sys (s : State) (k : WorkKind) :
    (endTurn s k).sys = s.sys := by
  unfold endTurn
  repeat' first
    | with_reducible rfl
    | with_reducible assumption
    | split
    | (intro _)
    | dsimp only

theorem execDmaMoveComplete_sys (n : Nat) (m : MoveIn) (s : State) :
    outSys (execDmaMoveComplete n m s) s.sys = s.sys := by
  unfold execDmaMoveComplete
  repeat' first
    | with_reducible rfl
    | with_reducible assumption
    | simp only [endWork_sys, endTurn_sys, outSys_next, outSys_done]
    | split
    | (intro _)
    | refine Eq.trans (moveDone_sys (by assumption)) ?_
    | dsimp only

theorem idleTick_sys (s : State) :
    (idleTick s).sys = s.sys := by
  unfold idleTick
  repeat' first
    | with_reducible rfl
    | with_reducible assumption
    | split
    | (intro _)
    | dsimp only

theorem execDtbStepWrite_sys (w : Nat) (v : Word) (s : State) :
    outSys (execDtbStepWrite w v s) s.sys = s.sys := by
  unfold execDtbStepWrite
  repeat' first
    | with_reducible rfl
    | with_reducible assumption
    | simp only [outSys_done]
    | split
    | (intro _)
    | refine Eq.trans (adminWrite_sys _ _ _ ?_) ?_
    | dsimp only

theorem execDtbSetWrite_sys (w : Nat) (v : DWord) (s : State) :
    outSys (execDtbSetWrite w v s) s.sys = s.sys := by
  unfold execDtbSetWrite
  repeat' first
    | with_reducible rfl
    | with_reducible assumption
    | simp only [State_wq2_sys, outSys_done]
    | split
    | (intro _)
    | refine Eq.trans (adminWrite_sys _ _ _ ?_) ?_
    | dsimp only

theorem execYokeGrantAdmit_sys (aged : List Nat) (s : State) :
    outSys (execYokeGrantAdmit aged s) s.sys = s.sys := by
  unfold execYokeGrantAdmit
  repeat' first
    | with_reducible rfl
    | with_reducible assumption
    | simp only [admitPass_sys, recallPass_sys, upgradePass_sys, envAdvance_sys, outSys_done]
    | split
    | (intro _)
    | dsimp only

theorem execYokeRecallDone_sys (key : Nat) (s : State) :
    outSys (execYokeRecallDone key s) s.sys = s.sys := by
  unfold execYokeRecallDone
  repeat' first
    | with_reducible rfl
    | with_reducible assumption
    | simp only [devEvent_sys, recallPass_sys, releaseGrant_sys, askGrant_sys, envAdvance_sys, State_setCtx_sys, outSys_next, outSys_done]
    | split
    | (intro _)
    | dsimp only

theorem execRampStep_sys (s : State) :
    outSys (execRampStep s) s.sys = s.sys := by
  unfold execRampStep
  repeat' first
    | with_reducible rfl
    | with_reducible assumption
    | simp only [State_modFs_sys, State_setYoke_sys, grantProceed_sys, outSys_next, outSys_done]
    | split
    | (intro _)
    | dsimp only

theorem execFieldIdleTimer_sys (f l : Nat) (s : State) :
    outSys (execFieldIdleTimer f l s) s.sys = s.sys := by
  unfold execFieldIdleTimer
  repeat' first
    | with_reducible rfl
    | with_reducible assumption
    | simp only [State_modFs_sys, outSys_next]
    | split
    | (intro _)
    | dsimp only

theorem execFieldWakeDone_sys (f : Nat) (s : State) :
    outSys (execFieldWakeDone f s) s.sys = s.sys := by
  unfold execFieldWakeDone
  repeat' first
    | with_reducible rfl
    | with_reducible assumption
    | simp only [State_modFs_sys, outSys_next]
    | split
    | (intro _)
    | dsimp only

theorem execPllStopTimer_sys (i : Nat) (s : State) :
    outSys (execPllStopTimer i s) s.sys = s.sys := by
  unfold execPllStopTimer
  repeat' first
    | with_reducible rfl
    | with_reducible assumption
    | simp only [State_modFs_sys, State_setYoke_sys, outSys_next]
    | split
    | (intro _)
    | dsimp only

theorem execPllLockLoss_sys (i : Nat) (s : State) :
    outSys (execPllLockLoss i s) s.sys = s.sys := by
  unfold execPllLockLoss
  repeat' first
    | with_reducible rfl
    | with_reducible assumption
    | simp only [State_raise_sys, State_setYoke_sys, setCause_sys, outSys_next, outSys_done]
    | split
    | (intro _)
    | dsimp only

theorem execPllRelock_sys (i : Nat) (s : State) :
    outSys (execPllRelock i s) s.sys = s.sys := by
  unfold execPllRelock
  repeat' first
    | with_reducible rfl
    | with_reducible assumption
    | simp only [State_setYoke_sys, setCause_sys, outSys_next]
    | split
    | (intro _)
    | dsimp only

theorem askCl2s_sys (s : State) :
    (askCl2s s).sys = s.sys := by
  unfold askCl2s
  repeat' first
    | with_reducible rfl
    | with_reducible assumption
    | simp only [State_emit_sys]
    | split
    | (intro _)
    | refine Eq.trans (sys_foldl ?_ _ _) ?_
    | refine Eq.trans (sys_foldl_snd ?_ _ _) ?_
    | refine Eq.trans (sys_foldl_fst ?_ _ _) ?_
    | dsimp only

theorem execUncoreLevelEntry_sys (l : Nat) (s : State) :
    outSys (execUncoreLevelEntry l s) s.sys = s.sys := by
  unfold execUncoreLevelEntry
  repeat' first
    | with_reducible rfl
    | with_reducible assumption
    | simp only [State_setYoke_sys, askCl2s_sys, outSys_next]
    | split
    | (intro _)
    | dsimp only

theorem execUncoreWake_sys (l : Nat) (s : State) :
    outSys (execUncoreWake l s) s.sys = s.sys := by
  unfold execUncoreWake
  repeat' first
    | with_reducible rfl
    | with_reducible assumption
    | simp only [State_setYoke_sys, outSys_next]
    | split
    | (intro _)
    | dsimp only

theorem execUncoreWakeDone_sys (s : State) :
    outSys (execUncoreWakeDone s) s.sys = s.sys := by
  unfold execUncoreWakeDone
  repeat' first
    | with_reducible rfl
    | with_reducible assumption
    | simp only [devEvent_sys, State_setYoke_sys, outSys_next, outSys_done]
    | split
    | (intro _)
    | dsimp only

theorem execEnvelopeChange_sys (w : Nat) (v : Word) (s : State) :
    outSys (execEnvelopeChange w v s) s.sys = s.sys := by
  unfold execEnvelopeChange
  repeat' first
    | with_reducible rfl
    | with_reducible assumption
    | simp only [State_put2_sys, State_setYoke_sys, recallFor_sys, envAdvance_sys, outSys_done]
    | split
    | (intro _)
    | refine Eq.trans (adminWrite_sys _ _ _ ?_) ?_
    | dsimp only

theorem envAbandon_sys (s : State) :
    (envAbandon s).sys = s.sys := by
  unfold envAbandon
  repeat' first
    | with_reducible rfl
    | with_reducible assumption
    | simp only [State_put2_sys, devEvent_sys, State_setYoke_sys]
    | split
    | (intro _)
    | dsimp only

theorem execEnvelopeFitTimeout_sys (s : State) :
    outSys (execEnvelopeFitTimeout s) s.sys = s.sys := by
  unfold execEnvelopeFitTimeout
  repeat' first
    | with_reducible rfl
    | with_reducible assumption
    | simp only [envAbandon_sys, outSys_next, outSys_done]
    | split
    | (intro _)
    | dsimp only

theorem envRaise_sys (s : State) (e : Nat) : (envRaise s e).sys = s.sys := by
  unfold envRaise
  repeat' first
    | with_reducible rfl
    | with_reducible assumption
    | simp only [State_modFs_sys]
    | split
    | (intro _)
    | refine Eq.trans (sys_foldl ?_ _ _) ?_
    | dsimp only

theorem execVoutPoll_sys (mv : Nat) (s : State) :
    outSys (execVoutPoll mv s) s.sys = s.sys := by
  unfold execVoutPoll
  repeat' first
    | with_reducible rfl
    | with_reducible assumption
    | simp only [State_put2_sys, State_setYoke_sys, envRaise_sys, outSys_next]
    | split
    | (intro _)
    | dsimp only

theorem execVoutSettleTimeout_sys (s : State) :
    outSys (execVoutSettleTimeout s) s.sys = s.sys := by
  unfold execVoutSettleTimeout
  repeat' first
    | with_reducible rfl
    | with_reducible assumption
    | simp only [State_put2_sys, State_setYoke_sys, devEvent_sys, askVolt_sys, envAbandon_sys, outSys_next, outSys_done]
    | split
    | (intro _)
    | dsimp only

theorem execEnvelopeChangeDone_sys (s : State) :
    outSys (execEnvelopeChangeDone s) s.sys = s.sys := by
  unfold execEnvelopeChangeDone
  repeat' first
    | with_reducible rfl
    | with_reducible assumption
    | simp only [State_put2_sys, devEvent_sys, State_setYoke_sys, recharge_sys, outSys_next, outSys_done]
    | split
    | (intro _)
    | refine Eq.trans (sys_foldl ?_ _ _) ?_
    | refine Eq.trans (sys_foldl_snd ?_ _ _) ?_
    | refine Eq.trans (sys_foldl_fst ?_ _ _) ?_
    | dsimp only

theorem execYokeCeilingWrite_sys (w : Nat) (v : Word) (s : State) :
    outSys (execYokeCeilingWrite w v s) s.sys = s.sys := by
  unfold execYokeCeilingWrite
  repeat' first
    | with_reducible rfl
    | with_reducible assumption
    | simp only [State_put2_sys, devEvent_sys, recallFor_sys, outSys_done]
    | split
    | (intro _)
    | refine Eq.trans (adminWrite_sys _ _ _ ?_) ?_
    | dsimp only

theorem execIoutSample_sys (cu : Nat) (s : State) :
    outSys (execIoutSample cu s) s.sys = s.sys := by
  unfold execIoutSample
  repeat' first
    | with_reducible rfl
    | with_reducible assumption
    | simp only [State_w2_sys, devEvent_sys, State_raise_sys, outSys_done]
    | split
    | (intro _)
    | dsimp only

theorem execYokeCalUpdate_sys (s : State) :
    outSys (execYokeCalUpdate s) s.sys = s.sys := by
  unfold execYokeCalUpdate
  repeat' first
    | with_reducible rfl
    | with_reducible assumption
    | simp only [State_setYoke_sys, outSys_next]
    | split
    | (intro _)
    | dsimp only

theorem execFallowTaskStart_sys (k u : Nat) (due : Bool) (s : State) :
    outSys (execFallowTaskStart k u due s) s.sys = s.sys := by
  unfold execFallowTaskStart
  repeat' first
    | with_reducible rfl
    | with_reducible assumption
    | simp only [State_modFs_sys, State_setYoke_sys, askGrant_sys, outSys_next]
    | split
    | (intro _)
    | dsimp only

theorem execLaneRecal_sys (l : Nat) (s : State) :
    outSys (execLaneRecal l s) s.sys = s.sys := by
  unfold execLaneRecal
  repeat' first
    | with_reducible rfl
    | with_reducible assumption
    | simp only [State_setYoke_sys, outSys_next]
    | split
    | (intro _)
    | dsimp only

theorem execFieldSelftestStart_sys (f : Nat) (s : State) :
    outSys (execFieldSelftestStart f s) s.sys = s.sys := by
  unfold execFieldSelftestStart
  repeat' first
    | with_reducible rfl
    | with_reducible assumption
    | simp only [State_modFs_sys, outSys_next]
    | split
    | (intro _)
    | dsimp only

theorem throttleDown_sys (s : State) (f : Nat) :
    (throttleDown s f).sys = s.sys := by
  unfold throttleDown
  repeat' first
    | with_reducible rfl
    | with_reducible assumption
    | simp only [State_modFs_sys, recharge_sys]
    | split
    | (intro _)
    | dsimp only

theorem throttleUp_sys (s : State) (f : Nat) :
    (throttleUp s f).sys = s.sys := by
  unfold throttleUp
  repeat' first
    | with_reducible rfl
    | with_reducible assumption
    | simp only [State_modFs_sys, State_setYoke_sys, recharge_sys]
    | split
    | (intro _)
    | dsimp only

theorem tempNote_sys (s : State) (t : List Int) :
    (tempNote s t).sys = s.sys := by
  unfold tempNote
  repeat' first
    | with_reducible rfl
    | with_reducible assumption
    | simp only [State_w2_sys, devEvent_sys]
    | split
    | (intro _)
    | dsimp only

theorem tempHot_sys (s : State) (lim : Nat) (top : Int) :
    (tempHot s lim top).sys = s.sys := by
  unfold tempHot
  repeat' first
    | with_reducible rfl
    | with_reducible assumption
    | simp only [devEvent_sys, State_setYoke_sys]
    | split
    | (intro _)
    | dsimp only

theorem tempPace_sys (s : State) (t : List Int) :
    (tempPace s t).sys = s.sys := by
  unfold tempPace
  repeat' first
    | with_reducible rfl
    | with_reducible assumption
    | simp only [throttleDown_sys, throttleUp_sys]
    | split
    | (intro _)
    | refine Eq.trans (sys_foldl ?_ _ _) ?_
    | refine Eq.trans (sys_foldl_snd ?_ _ _) ?_
    | refine Eq.trans (sys_foldl_fst ?_ _ _) ?_
    | dsimp only

theorem tempTrip_sys (s : State) (trip : Bool) :
    (tempTrip s trip).sys = s.sys := by
  unfold tempTrip
  repeat' first
    | with_reducible rfl
    | with_reducible assumption
    | simp only [State_raise_sys, setCause_sys]
    | split
    | (intro _)
    | dsimp only

theorem execTempSample_sys (t0 : List Int) (s : State) :
    outSys (execTempSample t0 s) s.sys = s.sys := by
  unfold execTempSample
  repeat' first
    | with_reducible rfl
    | with_reducible assumption
    | simp only [tempNote_sys, tempHot_sys, tempPace_sys, tempTrip_sys, outSys_done]
    | split
    | (intro _)
    | dsimp only

end Sys2Proof.Machine
end

