-- ==== Sys2Proof/Laws/Fuse4.lean ====
section
/-! SUPPORT. What leaves fuses alone, part 4: the fuses and the boot state stay through the operations of: Baulk,
DmaRings, Classify, Bind, Gatherer. One lemma per function. -/

set_option linter.unusedSimpArgs false
set_option linter.unusedVariables false

namespace Sys2Proof.Machine

open State

theorem bkEvent_sys (s : State) (p b : Nat) :
    (bkEvent s p b).sys = s.sys := by
  unfold bkEvent
  repeat' first
    | with_reducible rfl
    | with_reducible assumption
    | simp only [devEvent_sys]
    | split
    | (intro _)
    | dsimp only

theorem bkEnable_sys (s : State) (p : Nat) :
    (bkEnable s p).sys = s.sys := by
  unfold bkEnable
  repeat' first
    | with_reducible rfl
    | with_reducible assumption
    | simp only [State_put2_sys, claimPll_sys]
    | split
    | (intro _)
    | dsimp only

theorem execBaulkPortEnable_sys (w p : Nat) (s : State) :
    outSys (execBaulkPortEnable w p s) s.sys = s.sys := by
  unfold execBaulkPortEnable
  repeat' first
    | with_reducible rfl
    | with_reducible assumption
    | simp only [bkEnable_sys, outSys_done]
    | split
    | (intro _)
    | refine Eq.trans (adminWrite_sys _ _ _ ?_) ?_
    | dsimp only

theorem execBaulkBringupRetry_sys (p : Nat) (s : State) :
    outSys (execBaulkBringupRetry p s) s.sys = s.sys := by
  unfold execBaulkBringupRetry
  repeat' first
    | with_reducible rfl
    | with_reducible assumption
    | simp only [State_emit_sys, outSys_next]
    | split
    | (intro _)
    | dsimp only

theorem misrouted_sys (s : State) (p : Nat) :
    (misrouted s p).sys = s.sys := by
  unfold misrouted
  repeat' first
    | with_reducible rfl
    | with_reducible assumption
    | simp only [State_cnt2_sys]
    | split
    | (intro _)
    | dsimp only

theorem execLink_sys (p d id port : Nat) (s : State) :
    outSys (execLink p d id port s) s.sys = s.sys := by
  unfold execLink
  repeat' first
    | with_reducible rfl
    | with_reducible assumption
    | simp only [State_put2_sys, State_emit_sys, State_raise_sys, State_modBp_sys, bkEvent_sys, misrouted_sys, outSys_next, outSys_done]
    | split
    | (intro _)
    | dsimp only

theorem bkDown_sys (s : State) (p : Nat) :
    (bkDown s p).sys = s.sys := by
  unfold bkDown
  repeat' first
    | with_reducible rfl
    | with_reducible assumption
    | simp only [State_modBp_sys, remoteFail_sys]
    | split
    | (intro _)
    | refine Eq.trans (sys_foldl ?_ _ _) ?_
    | refine Eq.trans (sys_foldl_snd ?_ _ _) ?_
    | refine Eq.trans (sys_foldl_fst ?_ _ _) ?_
    | dsimp only

theorem bkLost_sys (s : State) (p : Nat) :
    (bkLost s p).sys = s.sys := by
  unfold bkLost
  repeat' first
    | with_reducible rfl
    | with_reducible assumption
    | simp only [State_raise_sys, bkEvent_sys, bkDown_sys]
    | split
    | (intro _)
    | dsimp only

theorem bkDisable_sys (s : State) (p : Nat) :
    (bkDisable s p).sys = s.sys := by
  unfold bkDisable
  repeat' first
    | with_reducible rfl
    | with_reducible assumption
    | simp only [State_put2_sys, bkLost_sys]
    | split
    | (intro _)
    | dsimp only

theorem execBaulkLaneLockLoss_sys (p : Nat) (s : State) :
    outSys (execBaulkLaneLockLoss p s) s.sys = s.sys := by
  unfold execBaulkLaneLockLoss
  repeat' first
    | with_reducible rfl
    | with_reducible assumption
    | simp only [bkLost_sys, outSys_next, outSys_done]
    | split
    | (intro _)
    | dsimp only

theorem execBaulkAckTimeout_sys (p : Nat) (s : State) :
    outSys (execBaulkAckTimeout p s) s.sys = s.sys := by
  unfold execBaulkAckTimeout
  repeat' first
    | with_reducible rfl
    | with_reducible assumption
    | simp only [bkLost_sys, outSys_next, outSys_done]
    | split
    | (intro _)
    | dsimp only

theorem bkAck_sys (s : State) (p seq room : Nat) (ans : Option Nat) :
    (bkAck s p seq room ans).sys = s.sys := by
  unfold bkAck
  repeat' first
    | with_reducible rfl
    | with_reducible assumption
    | simp only [State_emit_sys]
    | split
    | (intro _)
    | dsimp only

theorem bkNak_sys (s : State) (p : Nat) :
    (bkNak s p).sys = s.sys := by
  unfold bkNak
  repeat' first
    | with_reducible rfl
    | with_reducible assumption
    | simp only [State_emit_sys]
    | split
    | (intro _)
    | dsimp only

theorem bkRecv_sys (s : State) (p : Nat) (hh : BkHdr) (len : Nat) (apply : State → Option (State × Option Nat))
    (happly : ∀ x0 u v, x0.sys = s.sys → apply x0 = some (u, v) → u.sys = s.sys) :
    outSys (bkRecv s p hh len apply) s.sys = s.sys := by
  unfold bkRecv
  repeat' first
    | with_reducible rfl
    | with_reducible assumption
    | simp only [State_modBp_sys, misrouted_sys, bkAck_sys, bkNak_sys, outSys_next, outSys_done]
    | split
    | (intro _)
    | refine happly _ _ _ ?_ (by assumption)
    | dsimp only

theorem execWrite_sys (p : Nat) (hh : BkHdr) (e off : Nat) (data : List Byte) (s : State) :
    outSys (execWrite p hh e off data s) s.sys = s.sys := by
  unfold execWrite
  repeat' first
    | with_reducible rfl
    | with_reducible assumption
    | simp only [writeDev_sys]
    | split
    | (intro h1; obtain ⟨rfl, rfl⟩ := Prod.mk.inj h1)
    | (intro h1; obtain rfl := Option.some.inj h1)
    | (intro h1; obtain ⟨rfl, rfl⟩ := Prod.mk.inj (Option.some.inj h1))
    | (intro h1; rw [Option.bind_eq_some_iff] at h1; obtain ⟨_, h0, h2⟩ := h1; revert h0 h2)
    | (intro h1; injection h1; done)
    | (intro _)
    | refine Eq.trans (sys_foldl ?_ _ _) ?_
    | refine Eq.trans (sys_foldl_snd ?_ _ _) ?_
    | refine Eq.trans (sys_foldl_fst ?_ _ _) ?_
    | refine Eq.trans (bkRecv_sys _ _ _ _ _ ?_) ?_
    | dsimp only

theorem bkAnswer_sys (s : State) (p req st : Nat) (data : List Byte) (m0 : Nat) :
    (bkAnswer s p req st data m0).sys = s.sys := by
  cases m0 <;> unfold bkAnswer
  all_goals repeat' first
    | with_reducible rfl
    | with_reducible assumption
    | simp only [bkSend_sys]
    | split
    | (intro _)
    | refine Eq.trans (bkAnswer_sys ..) ?_
    | dsimp only

theorem execReadReq_sys (p : Nat) (hh : BkHdr) (e off len : Nat) (s : State) :
    outSys (execReadReq p hh e off len s) s.sys = s.sys := by
  unfold execReadReq
  repeat' first
    | with_reducible rfl
    | with_reducible assumption
    | simp only [bkAnswer_sys]
    | split
    | (intro h1; obtain ⟨rfl, rfl⟩ := Prod.mk.inj h1)
    | (intro h1; obtain rfl := Option.some.inj h1)
    | (intro h1; obtain ⟨rfl, rfl⟩ := Prod.mk.inj (Option.some.inj h1))
    | (intro h1; rw [Option.bind_eq_some_iff] at h1; obtain ⟨_, h0, h2⟩ := h1; revert h0 h2)
    | (intro h1; injection h1; done)
    | (intro _)
    | refine Eq.trans (sys_foldl ?_ _ _) ?_
    | refine Eq.trans (sys_foldl_snd ?_ _ _) ?_
    | refine Eq.trans (sys_foldl_fst ?_ _ _) ?_
    | refine Eq.trans (bkRecv_sys _ _ _ _ _ ?_) ?_
    | dsimp only

theorem loadFail_sys (s : State) (n code : Nat) :
    (loadFail s n code).sys = s.sys := by
  unfold loadFail
  repeat' first
    | with_reducible rfl
    | with_reducible assumption
    | simp only [State_setJob_sys, faultJob_sys]
    | split
    | (intro _)
    | dsimp only

theorem execReadData_sys (p : Nat) (hh : BkHdr) (req st : Nat) (data : List Byte) (s : State) :
    outSys (execReadData p hh req st data s) s.sys = s.sys := by
  unfold execReadData
  repeat' first
    | with_reducible rfl
    | with_reducible assumption
    | simp only [endWork_sys, State_modBp_sys, loadFail_sys]
    | split
    | (intro h1; obtain ⟨rfl, rfl⟩ := Prod.mk.inj h1)
    | (intro h1; obtain rfl := Option.some.inj h1)
    | (intro h1; obtain ⟨rfl, rfl⟩ := Prod.mk.inj (Option.some.inj h1))
    | (intro h1; rw [Option.bind_eq_some_iff] at h1; obtain ⟨_, h0, h2⟩ := h1; revert h0 h2)
    | (intro h1; injection h1; done)
    | (intro _)
    | refine Eq.trans (sys_foldl ?_ _ _) ?_
    | refine Eq.trans (sys_foldl_snd ?_ _ _) ?_
    | refine Eq.trans (sys_foldl_fst ?_ _ _) ?_
    | refine Eq.trans (bkRecv_sys _ _ _ _ _ ?_) ?_
    | dsimp only

theorem execSignalFrame_sys (p : Nat) (hh : BkHdr) (e j n : Nat) (s : State) :
    outSys (execSignalFrame p hh e j n s) s.sys = s.sys := by
  unfold execSignalFrame
  repeat' first
    | with_reducible rfl
    | with_reducible assumption
    | simp only [addSem_sys2]
    | split
    | (intro h1; obtain ⟨rfl, rfl⟩ := Prod.mk.inj h1)
    | (intro h1; obtain rfl := Option.some.inj h1)
    | (intro h1; obtain ⟨rfl, rfl⟩ := Prod.mk.inj (Option.some.inj h1))
    | (intro h1; rw [Option.bind_eq_some_iff] at h1; obtain ⟨_, h0, h2⟩ := h1; revert h0 h2)
    | (intro h1; injection h1; done)
    | (intro _)
    | refine Eq.trans (sys_foldl ?_ _ _) ?_
    | refine Eq.trans (sys_foldl_snd ?_ _ _) ?_
    | refine Eq.trans (sys_foldl_fst ?_ _ _) ?_
    | refine Eq.trans (bkRecv_sys _ _ _ _ _ ?_) ?_
    | refine Eq.trans (addSem_sys (by assumption)) ?_
    | dsimp only

theorem execFlush_sys (p : Nat) (hh : BkHdr) (s : State) :
    outSys (execFlush p hh s) s.sys = s.sys := by
  unfold execFlush
  repeat' first
    | with_reducible rfl
    | with_reducible assumption
    | simp only [outSys_next, outSys_refused, outSys_fault, outSys_done]
    | split
    | (intro h1; obtain ⟨rfl, rfl⟩ := Prod.mk.inj h1)
    | (intro h1; obtain rfl := Option.some.inj h1)
    | (intro h1; obtain ⟨rfl, rfl⟩ := Prod.mk.inj (Option.some.inj h1))
    | (intro h1; rw [Option.bind_eq_some_iff] at h1; obtain ⟨_, h0, h2⟩ := h1; revert h0 h2)
    | (intro h1; injection h1; done)
    | (intro _)
    | refine Eq.trans (sys_foldl ?_ _ _) ?_
    | refine Eq.trans (sys_foldl_snd ?_ _ _) ?_
    | refine Eq.trans (sys_foldl_fst ?_ _ _) ?_
    | refine Eq.trans (bkRecv_sys _ _ _ _ _ ?_) ?_
    | dsimp only

theorem bkAnswered_sys (s : State) (p seq ans : Nat) :
    (bkAnswered s p seq ans).sys = s.sys := by
  unfold bkAnswered
  repeat' first
    | with_reducible rfl
    | with_reducible assumption
    | simp only [State_modCtx_sys, State_modBp_sys]
    | split
    | (intro _)
    | refine Eq.trans (sys_foldl ?_ _ _) ?_
    | refine Eq.trans (sys_foldl_snd ?_ _ _) ?_
    | refine Eq.trans (sys_foldl_fst ?_ _ _) ?_
    | dsimp only

theorem execAck_sys (p : Nat) (hh : BkHdr) (credit : Nat) (ans : Option Nat) (s : State) :
    outSys (execAck p hh credit ans s) s.sys = s.sys := by
  unfold execAck
  repeat' first
    | with_reducible rfl
    | with_reducible assumption
    | simp only [State_modBp_sys, misrouted_sys, bkAnswered_sys, outSys_next, outSys_done]
    | split
    | (intro _)
    | dsimp only

theorem execNak_sys (p : Nat) (hh : BkHdr) (s : State) :
    outSys (execNak p hh s) s.sys = s.sys := by
  unfold execNak
  repeat' first
    | with_reducible rfl
    | with_reducible assumption
    | simp only [State_cnt2_sys, State_emit_sys, State_raise_sys, State_modBp_sys, misrouted_sys, bkLost_sys, outSys_next, outSys_done]
    | split
    | (intro _)
    | refine Eq.trans (sys_foldl ?_ _ _) ?_
    | refine Eq.trans (sys_foldl_snd ?_ _ _) ?_
    | refine Eq.trans (sys_foldl_fst ?_ _ _) ?_
    | dsimp only

theorem execBaulkFrameCrcError_sys (p : Nat) (s : State) :
    outSys (execBaulkFrameCrcError p s) s.sys = s.sys := by
  unfold execBaulkFrameCrcError
  repeat' first
    | with_reducible rfl
    | with_reducible assumption
    | simp only [bkNak_sys, outSys_next]
    | split
    | (intro _)
    | dsimp only

theorem exportWrite_sys (s : State) (a : Nat) (v : Word) :
    (exportWrite s a v).sys = s.sys := by
  unfold exportWrite
  repeat' first
    | with_reducible rfl
    | with_reducible assumption
    | simp only [State_w2_sys]
    | split
    | (intro _)
    | dsimp only

theorem execBaulkExportWrite_sys (w off : Nat) (v : Word) (s : State) :
    outSys (execBaulkExportWrite w off v s) s.sys = s.sys := by
  unfold execBaulkExportWrite
  repeat' first
    | with_reducible rfl
    | with_reducible assumption
    | simp only [exportWrite_sys, outSys_done]
    | split
    | (intro _)
    | refine Eq.trans (adminWrite_sys _ _ _ ?_) ?_
    | dsimp only

theorem importWrite_sys (s : State) (a : Nat) (v : Word) :
    (importWrite s a v).sys = s.sys := by
  unfold importWrite
  repeat' first
    | with_reducible rfl
    | with_reducible assumption
    | simp only [State_w2_sys, State_setBk_sys]
    | split
    | (intro _)
    | dsimp only

theorem execBaulkImportWrite_sys (w off : Nat) (v : Word) (s : State) :
    outSys (execBaulkImportWrite w off v s) s.sys = s.sys := by
  unfold execBaulkImportWrite
  repeat' first
    | with_reducible rfl
    | with_reducible assumption
    | simp only [importWrite_sys, outSys_done]
    | split
    | (intro _)
    | refine Eq.trans (adminWrite_sys _ _ _ ?_) ?_
    | dsimp only

theorem poolEvent_sys (s : State) (b : Nat) :
    (poolEvent s b).sys = s.sys := by
  unfold poolEvent
  repeat' first
    | with_reducible rfl
    | with_reducible assumption
    | simp only [devEvent_sys]
    | split
    | (intro _)
    | dsimp only

theorem elect_sys (s0 s : State) :
    (elect s0 s).sys = s.sys := by
  unfold elect
  repeat' first
    | with_reducible rfl
    | with_reducible assumption
    | simp only [State_put2_sys, setCause_sys, State_setBk_sys]
    | split
    | (intro _)
    | dsimp only

theorem setShare_sys (s : State) (n : Nat) :
    (setShare s n).sys = s.sys := by
  unfold setShare
  repeat' first
    | with_reducible rfl
    | with_reducible assumption
    | simp only [State_put2_sys, devEvent_sys, recallFor_sys, poolEvent_sys]
    | split
    | (intro _)
    | dsimp only

theorem giveShare_sys (s : State) (kind i n : Nat) :
    (giveShare s kind i n).sys = s.sys := by
  unfold giveShare
  repeat' first
    | with_reducible rfl
    | with_reducible assumption
    | simp only [State_emit_sys, State_setBk_sys, setShare_sys]
    | split
    | (intro _)
    | dsimp only

theorem recallSlack_sys (s : State) (i need : Nat) (m0 : Nat) :
    (recallSlack s i need m0).sys = s.sys := by
  cases m0 <;> unfold recallSlack
  all_goals repeat' first
    | with_reducible rfl
    | with_reducible assumption
    | simp only [giveShare_sys]
    | split
    | (intro _)
    | refine Eq.trans (recallSlack_sys ..) ?_
    | dsimp only

theorem poolGrant_sys (s : State) :
    (poolGrant s).sys = s.sys := by
  unfold poolGrant
  repeat' first
    | with_reducible rfl
    | with_reducible assumption
    | simp only [State_setBk_sys, giveShare_sys]
    | split
    | (intro _)
    | refine Eq.trans (sys_foldl ?_ _ _) ?_
    | refine Eq.trans (sys_foldl_snd ?_ _ _) ?_
    | refine Eq.trans (sys_foldl_fst ?_ _ _) ?_
    | dsimp only

theorem poolRequest_sys (s : State) (i n : Nat) :
    (poolRequest s i n).sys = s.sys := by
  unfold poolRequest
  repeat' first
    | with_reducible rfl
    | with_reducible assumption
    | simp only [State_setBk_sys, recallSlack_sys, poolGrant_sys]
    | split
    | (intro _)
    | dsimp only

theorem poolAsk_sys (s : State) (n : Nat) :
    (poolAsk s n).sys = s.sys := by
  unfold poolAsk
  repeat' first
    | with_reducible rfl
    | with_reducible assumption
    | simp only [State_emit_sys, poolRequest_sys]
    | split
    | (intro _)
    | dsimp only

theorem poolCtrl_sys (s : State) (v : Word) :
    (poolCtrl s v).sys = s.sys := by
  unfold poolCtrl
  repeat' first
    | with_reducible rfl
    | with_reducible assumption
    | simp only [State_put2_sys, elect_sys, poolAsk_sys]
    | split
    | (intro _)
    | dsimp only

theorem execPoolEnable_sys (w : Nat) (v : Word) (s : State) :
    outSys (execPoolEnable w v s) s.sys = s.sys := by
  unfold execPoolEnable
  repeat' first
    | with_reducible rfl
    | with_reducible assumption
    | simp only [poolCtrl_sys, outSys_done]
    | split
    | (intro _)
    | refine Eq.trans (adminWrite_sys _ _ _ ?_) ?_
    | dsimp only

theorem execPoolWantWrite_sys (w : Nat) (v : Word) (s : State) :
    outSys (execPoolWantWrite w v s) s.sys = s.sys := by
  unfold execPoolWantWrite
  repeat' first
    | with_reducible rfl
    | with_reducible assumption
    | simp only [State_put2_sys, poolAsk_sys, outSys_done]
    | split
    | (intro _)
    | refine Eq.trans (adminWrite_sys _ _ _ ?_) ?_
    | dsimp only

theorem execPoolHeartbeat_sys (s : State) :
    outSys (execPoolHeartbeat s) s.sys = s.sys := by
  unfold execPoolHeartbeat
  repeat' first
    | with_reducible rfl
    | with_reducible assumption
    | simp only [State_emit_sys, outSys_next]
    | split
    | (intro _)
    | dsimp only

theorem poolHeard_sys (s : State) (i val : Nat) :
    (poolHeard s i val).sys = s.sys := by
  unfold poolHeard
  repeat' first
    | with_reducible rfl
    | with_reducible assumption
    | simp only [setCause_sys, State_setBk_sys, elect_sys, poolGrant_sys]
    | split
    | (intro _)
    | dsimp only

theorem execPoolMessage_sys (i kind dest val : Nat) (s : State) :
    outSys (execPoolMessage i kind dest val s) s.sys = s.sys := by
  unfold execPoolMessage
  repeat' first
    | with_reducible rfl
    | with_reducible assumption
    | simp only [setShare_sys, poolRequest_sys, poolHeard_sys, outSys_next, outSys_done]
    | split
    | (intro _)
    | dsimp only

theorem fitBudget_sys (s : State) (m0 : Nat) :
    (fitBudget s m0).sys = s.sys := by
  cases m0 <;> unfold fitBudget
  all_goals repeat' first
    | with_reducible rfl
    | with_reducible assumption
    | simp only [giveShare_sys]
    | split
    | (intro _)
    | refine Eq.trans (fitBudget_sys ..) ?_
    | dsimp only

theorem execPoolGatherEnd_sys (s : State) :
    outSys (execPoolGatherEnd s) s.sys = s.sys := by
  unfold execPoolGatherEnd
  repeat' first
    | with_reducible rfl
    | with_reducible assumption
    | simp only [State_setBk_sys, poolGrant_sys, fitBudget_sys, outSys_next, outSys_done]
    | split
    | (intro _)
    | dsimp only

theorem execPoolLeaderLost_sys (s : State) :
    outSys (execPoolLeaderLost s) s.sys = s.sys := by
  unfold execPoolLeaderLost
  repeat' first
    | with_reducible rfl
    | with_reducible assumption
    | simp only [State_raise_sys, setCause_sys, State_setBk_sys, poolEvent_sys, elect_sys, outSys_next, outSys_done]
    | split
    | (intro _)
    | dsimp only

theorem execBkSyncDrive_sys (s : State) :
    outSys (execBkSyncDrive s) s.sys = s.sys := by
  unfold execBkSyncDrive
  repeat' first
    | with_reducible rfl
    | with_reducible assumption
    | simp only [State_emit_sys, outSys_next]
    | split
    | (intro _)
    | dsimp only

theorem syncCtrl_sys (s : State) (v : Word) :
    (syncCtrl s v).sys = s.sys := by
  unfold syncCtrl
  repeat' first
    | with_reducible rfl
    | with_reducible assumption
    | simp only [State_put2_sys, setCause_sys, State_setBk_sys]
    | split
    | (intro _)
    | dsimp only

theorem execBkSyncEdge_sys (s : State) :
    outSys (execBkSyncEdge s) s.sys = s.sys := by
  unfold execBkSyncEdge
  repeat' first
    | with_reducible rfl
    | with_reducible assumption
    | simp only [State_put2_sys, setCause_sys, State_setBk_sys, State_takeFree_sys2, outSys_next, outSys_done]
    | split
    | (intro _)
    | refine Eq.trans (State_takeFree_sys (by assumption)) ?_
    | dsimp only

theorem execBkSyncLost_sys (s : State) :
    outSys (execBkSyncLost s) s.sys = s.sys := by
  unfold execBkSyncLost
  repeat' first
    | with_reducible rfl
    | with_reducible assumption
    | simp only [State_put2_sys, State_raise_sys, setCause_sys, outSys_next, outSys_done]
    | split
    | (intro _)
    | dsimp only

theorem State_setRing_sys (s : State) (r : Nat) (x : DRing) :
    (State.setRing s r x).sys = s.sys := by
  unfold State.setRing
  repeat' first
    | with_reducible rfl
    | with_reducible assumption
    | split
    | (intro _)
    | dsimp only

theorem execDmaRingOwnerWrite_sys (w r : Nat) (v : Word) (s : State) :
    outSys (execDmaRingOwnerWrite w r v s) s.sys = s.sys := by
  unfold execDmaRingOwnerWrite
  repeat' first
    | with_reducible rfl
    | with_reducible assumption
    | simp only [State_w2_sys, outSys_done]
    | split
    | (intro _)
    | refine Eq.trans (adminWrite_sys _ _ _ ?_) ?_
    | dsimp only

theorem ringEnable_sys (s : State) (hh r : Nat) :
    (ringEnable s hh r).sys = s.sys := by
  unfold ringEnable
  repeat' first
    | with_reducible rfl
    | with_reducible assumption
    | simp only [State_put0_sys, State_setRing_sys]
    | split
    | (intro _)
    | dsimp only

theorem ringDisable_sys (s : State) (r : Nat) :
    (ringDisable s r).sys = s.sys := by
  unfold ringDisable
  repeat' first
    | with_reducible rfl
    | with_reducible assumption
    | simp only [State_put0_sys, State_setRing_sys]
    | split
    | (intro _)
    | dsimp only

theorem ringPoke_sys (s : State) (r : Nat) :
    (ringPoke s r).sys = s.sys := by
  unfold ringPoke
  repeat' first
    | with_reducible rfl
    | with_reducible assumption
    | simp only [State_setRing_sys]
    | split
    | (intro _)
    | dsimp only

theorem execDmarEnable_sys (hh r : Nat) (s : State) :
    outSys (execDmarEnable hh r s) s.sys = s.sys := by
  unfold execDmarEnable
  repeat' first
    | with_reducible rfl
    | with_reducible assumption
    | simp only [ringEnable_sys, outSys_next]
    | split
    | (intro _)
    | dsimp only

theorem execDmarDisable_sys (hh r : Nat) (s : State) :
    outSys (execDmarDisable hh r s) s.sys = s.sys := by
  unfold execDmarDisable
  repeat' first
    | with_reducible rfl
    | with_reducible assumption
    | simp only [ringDisable_sys, outSys_next]
    | split
    | (intro _)
    | dsimp only

theorem execDmarPoke_sys (hh r : Nat) (s : State) :
    outSys (execDmarPoke hh r s) s.sys = s.sys := by
  unfold execDmarPoke
  repeat' first
    | with_reducible rfl
    | with_reducible assumption
    | simp only [ringPoke_sys, outSys_next]
    | split
    | (intro _)
    | dsimp only

theorem ringDone_sys {s : State} {hh r code moved : Nat} {d : Desc} {tq : State}
    (h : (ringDone s hh r code moved d) = some tq) :
    tq.sys = s.sys := by
  revert h
  unfold ringDone
  repeat' first
    | with_reducible rfl
    | with_reducible assumption
    | simp only [State_emit_sys, decRef_sys, State_setRing_sys]
    | split
    | (intro h1; rw [Option.map_eq_some_iff] at h1; obtain ⟨_, h0, h2⟩ := h1; revert h0 h2)
    | (intro h1; cases h1)
    | (intro _)
    | refine Eq.trans (cqPost_sys (by assumption)) ?_
    | dsimp only

theorem ringFill_sys (s : State) (r hh c need : Nat) :
    (ringFill s r hh c need).sys = s.sys := by
  unfold ringFill
  repeat' first
    | with_reducible rfl
    | with_reducible assumption
    | simp only [State_setRing_sys, fillRow_sys2]
    | split
    | (intro _)
    | refine Eq.trans (fillRow_sys (by assumption)) ?_
    | dsimp only

theorem ringCommit_sys {s : State} {r hh c : Nat} {bs : List Byte} {tq : State}
    (h : (ringCommit s r hh c bs) = some tq) :
    tq.sys = s.sys := by
  revert h
  unfold ringCommit
  repeat' first
    | with_reducible rfl
    | with_reducible assumption
    | simp only [State_setFifo_sys, State_setRing_sys]
    | split
    | (intro h1; cases h1)
    | (intro _)
    | refine Eq.trans (commitPending_sys (by assumption)) ?_
    | dsimp only

theorem descRead_sys {s : State} {hh : Nat} {a : DEnd} {d : Desc} {m : MoveIn} {v0} {v1} {tq : State}
    (h : (descRead s hh a d m) = some (v0, v1, tq)) :
    tq.sys = s.sys := by
  revert h
  unfold descRead
  repeat' first
    | with_reducible rfl
    | with_reducible assumption
    | simp only [State_setFifo_sys, dropItems_sys, readFrames_sys, countDma_sys]
    | split
    | (intro h1; rw [Option.map_eq_some_iff] at h1; obtain ⟨_, h0, h2⟩ := h1; revert h0 h2)
    | (intro h1; cases h1)
    | (intro _)
    | dsimp only

theorem descRun_sys {s : State} {hh r : Nat} {d : Desc} {a b : DEnd} {m : MoveIn} {tq : State}
    (h : (descRun s hh r d a b m) = some tq) :
    tq.sys = s.sys := by
  revert h
  unfold descRun
  repeat' first
    | with_reducible rfl
    | with_reducible assumption
    | simp only [State_emit_sys, countDma_sys, State_setRing_sys, ringFill_sys, freeBytes_sys2]
    | split
    | (intro h1; rw [Option.bind_eq_some_iff] at h1; obtain ⟨_, h0, h2⟩ := h1; revert h0 h2)
    | (intro h1; cases h1)
    | (intro _)
    | refine Eq.trans (moveWrite_sys (by assumption)) ?_
    | refine Eq.trans (freeBytes_sys (by assumption)) ?_
    | refine Eq.trans (ringDone_sys (by assumption)) ?_
    | refine Eq.trans (ringCommit_sys (by assumption)) ?_
    | refine Eq.trans (descRead_sys (by assumption)) ?_
    | dsimp only

theorem execDmaDescriptorFetch_sys (r : Nat) (d : List Word) (s : State) :
    outSys (execDmaDescriptorFetch r d s) s.sys = s.sys := by
  unfold execDmaDescriptorFetch
  repeat' first
    | with_reducible rfl
    | with_reducible assumption
    | simp only [State_setRing_sys, outSys_next]
    | split
    | (intro _)
    | dsimp only

theorem descDone_sys {s : State} {hh r : Nat} {d : Desc} {m : MoveIn} {tq : State}
    (h : (descDone s hh r d m) = some tq) :
    tq.sys = s.sys := by
  revert h
  unfold descDone
  repeat' first
    | with_reducible rfl
    | with_reducible assumption
    | split
    | (intro h1; cases h1)
    | (intro _)
    | refine Eq.trans (ringDone_sys (by assumption)) ?_
    | refine Eq.trans (descRun_sys (by assumption)) ?_
    | dsimp only

theorem execDmaDescriptorDone_sys (r : Nat) (m : MoveIn) (s : State) :
    outSys (execDmaDescriptorDone r m s) s.sys = s.sys := by
  unfold execDmaDescriptorDone
  repeat' first
    | with_reducible rfl
    | with_reducible assumption
    | simp only [outSys_next, outSys_done]
    | split
    | (intro _)
    | refine Eq.trans (descDone_sys (by assumption)) ?_
    | dsimp only

theorem ringResume_sys (s : State) (r : Nat) :
    (ringResume s r).sys = s.sys := by
  unfold ringResume
  repeat' first
    | with_reducible rfl
    | with_reducible assumption
    | simp only [ringFill_sys]
    | split
    | (intro _)
    | dsimp only

theorem execGranaryWaitResume_sys (ring : Bool) (n : Nat) (s : State) :
    outSys (execGranaryWaitResume ring n s) s.sys = s.sys := by
  unfold execGranaryWaitResume
  repeat' first
    | with_reducible rfl
    | with_reducible assumption
    | simp only [resumeRow_sys, ringResume_sys, outSys_next, outSys_done]
    | split
    | (intro _)
    | dsimp only

theorem execDmaStarvationTurn_sys (ch : Nat) (s : State) :
    outSys (execDmaStarvationTurn ch s) s.sys = s.sys := by
  unfold execDmaStarvationTurn
  repeat' first
    | with_reducible rfl
    | with_reducible assumption
    | simp only [outSys_next]
    | split
    | (intro _)
    | dsimp only

theorem rxEnable_sys (s : State) (hh i : Nat) :
    (rxEnable s hh i).sys = s.sys := by
  unfold rxEnable
  repeat' first
    | with_reducible rfl
    | with_reducible assumption
    | simp only [State_w0_sys, State_put0_sys]
    | split
    | (intro _)
    | dsimp only

theorem execRxrEnable_sys (hh r : Nat) (s : State) :
    outSys (execRxrEnable hh r s) s.sys = s.sys := by
  unfold execRxrEnable
  repeat' first
    | with_reducible rfl
    | with_reducible assumption
    | simp only [rxEnable_sys, outSys_next]
    | split
    | (intro _)
    | dsimp only

theorem execRxrCiWrite_sys (hh r : Nat) (v : Word) (s : State) :
    outSys (execRxrCiWrite hh r v s) s.sys = s.sys := by
  unfold execRxrCiWrite
  repeat' first
    | with_reducible rfl
    | with_reducible assumption
    | simp only [State_w0_sys, outSys_next]
    | split
    | (intro _)
    | dsimp only

theorem meterFrame_sys {s : State} {m n : Nat} {v0} {tq : State}
    (h : (meterFrame s m n) = (v0, tq)) :
    tq.sys = s.sys := by
  revert h
  unfold meterFrame
  repeat' first
    | with_reducible rfl
    | with_reducible assumption
    | simp only [State_setIng_sys]
    | split
    | (intro h1; cases h1)
    | (intro _)
    | dsimp only

theorem meterFrame_sys2 (s : State) (m n : Nat) :
    (meterFrame s m n).2.sys = s.sys := by
  rcases hq : (meterFrame s m n) with ⟨v0, tq⟩; exact meterFrame_sys  hq

theorem ringDrop_sys (s : State) (ring : Nat) :
    (ringDrop s ring).sys = s.sys := by
  unfold ringDrop
  repeat' first
    | with_reducible rfl
    | with_reducible assumption
    | split
    | (intro _)
    | dsimp only

theorem rxPut_sys {s : State} {ring reason : Nat} {mirror : Bool} {m : Meta} {f : Frame} {v0} {v1} {tq : State}
    (h : (rxPut s ring reason mirror m f) = (v0, v1, tq)) :
    tq.sys = s.sys := by
  revert h
  unfold rxPut
  repeat' first
    | with_reducible rfl
    | with_reducible assumption
    | simp only [State_emit_sys, decRef_sys, countDma_sys, ringDrop_sys]
    | split
    | (intro h1; cases h1)
    | (intro _)
    | refine Eq.trans (allocChain_sys (by assumption)) ?_
    | refine Eq.trans (cqPost_sys (by assumption)) ?_
    | dsimp only

theorem rxPut_sys2 (s : State) (ring reason : Nat) (mirror : Bool) (m : Meta) (f : Frame) :
    (rxPut s ring reason mirror m f).2.2.sys = s.sys := by
  rcases hq : (rxPut s ring reason mirror m f) with ⟨v0, v1, tq⟩; exact rxPut_sys  hq

theorem pvDrop_sys (s : State) (p : Nat) :
    (pvDrop s p).sys = s.sys := by
  unfold pvDrop
  repeat' first
    | with_reducible rfl
    | with_reducible assumption
    | simp only [State_cnt0_sys]
    | split
    | (intro _)
    | dsimp only

theorem sys_foldl_cls {β : Type} {g : Cls → β → Cls} (hg : ∀ c x, (g c x).s.sys = c.s.sys) (l : List β) (c : Cls) :
    (l.foldl g c).s.sys = c.s.sys := by
  induction l generalizing c with
  | nil => rfl
  | cons x l ih => exact (ih (g c x)).trans (hg c x)

theorem sys_foldl_cls2 {α β : Type} {g : Cls × α → β → Cls × α} (hg : ∀ c x, (g c x).1.s.sys = c.1.s.sys) (l : List β)
    (c : Cls × α) : (l.foldl g c).1.s.sys = c.1.s.sys := by
  induction l generalizing c with
  | nil => rfl
  | cons x l ih => exact (ih (g c x)).trans (hg c x)

theorem except_sys (c : Cls) (m : Meta) (reason : Nat) (f : Frame) :
    (except c m reason f).s.sys = c.s.sys := by
  unfold except
  repeat' first
    | with_reducible rfl
    | with_reducible assumption
    | simp only [State_cnt2_sys, State_setIng_sys, pvDrop_sys, rxPut_sys2]
    | split
    | (intro _)
    | refine Eq.trans (rxPut_sys (by assumption)) ?_
    | dsimp only

theorem mirrorCopy_sys (c : Cls) (m : Meta) (f : Frame) :
    (mirrorCopy c m f).s.sys = c.s.sys := by
  unfold mirrorCopy
  repeat' first
    | with_reducible rfl
    | with_reducible assumption
    | simp only [State_cnt2_sys, rxPut_sys2]
    | split
    | (intro _)
    | refine Eq.trans (rxPut_sys (by assumption)) ?_
    | dsimp only

theorem State_setFlow_sys (s : State) (t : Nat) (x : Flow) :
    (State.setFlow s t x).sys = s.sys := by
  unfold State.setFlow
  repeat' first
    | with_reducible rfl
    | with_reducible assumption
    | simp only [State_setIng_sys]
    | split
    | (intro _)
    | dsimp only

theorem showPath_sys (s : State) (x : Flow) :
    (showPath s x).sys = s.sys := by
  unfold showPath
  repeat' first
    | with_reducible rfl
    | with_reducible assumption
    | simp only [State_wch_sys]
    | split
    | (intro _)
    | dsimp only

theorem sourceBack_sys (s : State) (c : Nat) :
    (sourceBack s c).sys = s.sys := by
  unfold sourceBack
  repeat' first
    | with_reducible rfl
    | with_reducible assumption
    | simp only [State_modChan_sys]
    | split
    | (intro _)
    | dsimp only

theorem toChannel_sys {s : State} {c : Nat} {pay : List Byte} {t : DWord} {v0} {tq : State}
    (h : (toChannel s c pay t) = (v0, tq)) :
    tq.sys = s.sys := by
  revert h
  unfold toChannel
  repeat' first
    | with_reducible rfl
    | with_reducible assumption
    | simp only [sourceBack_sys]
    | split
    | (intro h1; cases h1)
    | (intro _)
    | refine Eq.trans (commitWhole_sys (by assumption)) ?_
    | dsimp only

theorem toChannel_sys2 (s : State) (c : Nat) (pay : List Byte) (t : DWord) :
    (toChannel s c pay t).2.sys = s.sys := by
  rcases hq : (toChannel s c pay t) with ⟨v0, tq⟩; exact toChannel_sys  hq

theorem deliverPkt_sys (s : State) (t : Nat) (num : Option Nat) (pay : List Byte) (arrive : DWord) :
    (deliverPkt s t num pay arrive).sys = s.sys := by
  unfold deliverPkt
  repeat' first
    | with_reducible rfl
    | with_reducible assumption
    | simp only [State_addqch_sys, State_setFifo_sys, State_setFlow_sys, toChannel_sys2]
    | split
    | (intro _)
    | refine Eq.trans (toChannel_sys (by assumption)) ?_
    | dsimp only

theorem drainHeld_sys (s : State) (t : Nat) (m0 : Nat) :
    (drainHeld s t m0).sys = s.sys := by
  cases m0 <;> unfold drainHeld
  all_goals repeat' first
    | with_reducible rfl
    | with_reducible assumption
    | simp only [decRef_sys, State_setFlow_sys, deliverPkt_sys]
    | split
    | (intro _)
    | refine Eq.trans (drainHeld_sys ..) ?_
    | dsimp only

theorem slide_sys (s : State) (t : Nat) (m0 : Nat) :
    (slide s t m0).sys = s.sys := by
  cases m0 <;> unfold slide
  all_goals repeat' first
    | with_reducible rfl
    | with_reducible assumption
    | simp only [State_cntch_sys, State_setFlow_sys, drainHeld_sys]
    | split
    | (intro _)
    | refine Eq.trans (slide_sys ..) ?_
    | dsimp only

theorem windowIn_sys {s : State} {t : Nat} {x : Flow} {n : Nat} {pay rtp : List Byte} {arrive : DWord} {v0} {tq : State}
    (h : (windowIn s t x n pay rtp arrive) = (v0, tq)) :
    tq.sys = s.sys := by
  revert h
  unfold windowIn
  repeat' first
    | with_reducible rfl
    | with_reducible assumption
    | simp only [State_wch_sys, State_cntch_sys, State_setFlow_sys, deliverPkt_sys, drainHeld_sys, slide_sys]
    | split
    | (intro h1; cases h1)
    | (intro _)
    | refine Eq.trans (allocChain_sys (by assumption)) ?_
    | dsimp only

theorem windowIn_sys2 (s : State) (t : Nat) (x : Flow) (n : Nat) (pay rtp : List Byte) (arrive : DWord) :
    (windowIn s t x n pay rtp arrive).2.sys = s.sys := by
  rcases hq : (windowIn s t x n pay rtp arrive) with ⟨v0, tq⟩; exact windowIn_sys  hq

theorem keepHist_sys (s : State) (t n : Nat) (rtp : List Byte) (arrive : DWord) :
    (keepHist s t n rtp arrive).sys = s.sys := by
  unfold keepHist
  repeat' first
    | with_reducible rfl
    | with_reducible assumption
    | simp only [dropPkts_sys, State_setFlow_sys]
    | split
    | (intro _)
    | refine Eq.trans (allocChain_sys (by assumption)) ?_
    | dsimp only

theorem recover_sys (c : Cls) (t : Nat) (f : Frame) :
    (recover c t f).s.sys = c.s.sys := by
  unfold recover
  repeat' first
    | with_reducible rfl
    | with_reducible assumption
    | simp only [State_cntch_sys]
    | split
    | (intro _)
    | dsimp only

theorem mediaIn_sys (c : Cls) (t : Nat) (x : Flow) (f : Frame) (pass2 : Bool) (hdr rtp pay : List Byte) :
    (mediaIn c t x f pass2 hdr rtp pay).s.sys = c.s.sys := by
  unfold mediaIn
  repeat' first
    | with_reducible rfl
    | with_reducible assumption
    | simp only [State_setFlow_sys, showPath_sys, deliverPkt_sys, keepHist_sys, recover_sys, windowIn_sys2]
    | split
    | (intro _)
    | refine Eq.trans (windowIn_sys (by assumption)) ?_
    | dsimp only

theorem fecIn_sys (c : Cls) (t : Nat) (x : Flow) (row : Bool) (pay : List Byte) (f : Frame) :
    (fecIn c t x row pay f).s.sys = c.s.sys := by
  unfold fecIn
  repeat' first
    | with_reducible rfl
    | with_reducible assumption
    | simp only [State_cntch_sys, State_setFlow_sys, recover_sys]
    | split
    | (intro _)
    | dsimp only

theorem misdirect_sys (c : Cls) (p : Nat) :
    (misdirect c p).s.sys = c.s.sys := by
  unfold misdirect
  repeat' first
    | with_reducible rfl
    | with_reducible assumption
    | simp only [State_cnt2_sys, pvDrop_sys]
    | split
    | (intro _)
    | dsimp only

theorem actChannel_sys (c : Cls) (p : Pass) (ch : Nat) (pay : List Byte) :
    (actChannel c p ch pay).s.sys = c.s.sys := by
  unfold actChannel
  repeat' first
    | with_reducible rfl
    | with_reducible assumption
    | simp only [mediaIn_sys, fecIn_sys, misdirect_sys, toChannel_sys2]
    | split
    | (intro _)
    | refine Eq.trans (toChannel_sys (by assumption)) ?_
    | dsimp only

theorem actRecirc_sys (c : Cls) (p : Pass) (a : Word) :
    (actRecirc c p a).s.sys = c.s.sys := by
  unfold actRecirc
  repeat' first
    | with_reducible rfl
    | with_reducible assumption
    | simp only [except_sys]
    | split
    | (intro _)
    | dsimp only

theorem actOne_sys (c : Cls) (p : Pass) (a : Option Word) (pay : List Byte) (f : Frame) :
    (actOne c p a pay f).s.sys = c.s.sys := by
  unfold actOne
  repeat' first
    | with_reducible rfl
    | with_reducible assumption
    | simp only [pvDrop_sys, except_sys, misdirect_sys, actChannel_sys, actRecirc_sys, rxPut_sys2]
    | split
    | (intro _)
    | refine Eq.trans (rxPut_sys (by assumption)) ?_
    | dsimp only

theorem meterDrop_sys (s : State) (p : Pass) :
    (meterDrop s p).sys = s.sys := by
  unfold meterDrop
  repeat' first
    | with_reducible rfl
    | with_reducible assumption
    | simp only [State_cntch_sys]
    | split
    | (intro _)
    | dsimp only

theorem meterPass_sys {c : Cls} {p : Pass} {m : Option Nat} {target : Option Nat} {v0} {tq : Cls}
    (h : (meterPass c p m target) = (v0, tq)) :
    tq.s.sys = c.s.sys := by
  have X : ∀ (k : Nat) (q : Colr × State), q.2.sys = c.s.sys →
      (if (decide (q.1 = .green) || (decide (q.1 = .yellow) && !meterFull q.2 k target)) = true then
        ((true, { c with s := q.2 }) : Bool × Cls) else (false, { c with s := meterDrop q.2 p })).2.s.sys = c.s.sys := by
    intro k q hm
    split
    · exact hm
    · exact (meterDrop_sys ..).trans hm
  have H : (meterPass c p m target).2.s.sys = c.s.sys := by
    cases m with
    | none => rfl
    | some k =>
      simp only [meterPass]
      split
      · rfl
      · exact X k _ (meterFrame_sys2 ..)
  exact (congrArg (fun q => q.2.s.sys) h).symm.trans H

theorem meterPass_sys2 (c : Cls) (p : Pass) (m : Option Nat) (target : Option Nat) :
    (meterPass c p m target).2.s.sys = c.s.sys := by
  rcases hq : (meterPass c p m target) with ⟨v0, tq⟩; exact meterPass_sys  hq

theorem pidMiss_sys (s : State) (t : Nat) (found : Bool) :
    (pidMiss s t found).sys = s.sys := by
  unfold pidMiss
  repeat' first
    | with_reducible rfl
    | with_reducible assumption
    | simp only [State_cntch_sys]
    | split
    | (intro _)
    | dsimp only

theorem tsStage_sys (c : Cls) (p : Pass) (acts : List Word) (hh : Heads) (t o : Nat) :
    (tsStage c p acts hh t o).s.sys = c.s.sys := by
  unfold tsStage
  dsimp only
  have K : ∀ q b, (tsOne p acts hh t b q).1.s.sys = q.1.s.sys := by
    intro q b
    unfold tsOne
    dsimp only
    split
    · rfl
    · split
      · exact pidMiss_sys ..
      · exact (actOne_sys ..).trans (pidMiss_sys ..)
  refine Eq.trans (sys_foldl_cls (fun d x => actChannel_sys ..) _ _) ?_
  have H := sys_foldl_cls2 (fun q i => K q (slice p.f.data (o + 188 * i) 188))
    (List.range ((p.w.enc - o) / 188)) (c, [], false)
  split
  · exact (mirrorCopy_sys ..).trans H
  · exact H

theorem classifyPass_sys (c : Cls) (f : Frame) (start : Nat) (pass2 : Bool) :
    (classifyPass c f start pass2).s.sys = c.s.sys := by
  unfold classifyPass
  repeat' first
    | with_reducible rfl
    | with_reducible assumption
    | simp only [except_sys, mirrorCopy_sys, actOne_sys, tsStage_sys, meterPass_sys2]
    | split
    | (intro _)
    | refine Eq.trans (meterPass_sys (by assumption)) ?_
    | dsimp only

theorem classifyAll_sys  (m0 : Nat) (c : Cls) :
    (classifyAll m0 c).s.sys = c.s.sys := by
  cases m0 <;> unfold classifyAll
  all_goals repeat' first
    | with_reducible rfl
    | with_reducible assumption
    | simp only [classifyPass_sys]
    | split
    | (intro _)
    | refine Eq.trans (classifyAll_sys ..) ?_
    | dsimp only

theorem classifyFrame_sys (s : State) (f : Frame) :
    (classifyFrame s f).s.sys = s.sys := by
  unfold classifyFrame
  repeat' first
    | with_reducible rfl
    | with_reducible assumption
    | simp only [classifyPass_sys, classifyAll_sys]
    | split
    | (intro _)
    | dsimp only

theorem ingRegs0_sys (s : State) (c : Nat) :
    (ingRegs0 s c).sys = s.sys := by
  unfold ingRegs0
  repeat' first
    | with_reducible rfl
    | with_reducible assumption
    | simp only [State_wch_sys, State_wqch_sys]
    | split
    | (intro _)
    | dsimp only

theorem bindIngest_sys {s : State} {hh c : Nat} {b : IngIn} {v0} {tq : State}
    (h : (bindIngest s hh c b) = some (v0, tq)) :
    tq.sys = s.sys := by
  revert h
  unfold bindIngest
  repeat' first
    | with_reducible rfl
    | with_reducible assumption
    | simp only [State_setIng_sys, ingRegs0_sys]
    | split
    | (intro h1; cases h1)
    | (intro _)
    | refine Eq.trans (newHandle_sys (by assumption)) ?_
    | dsimp only

theorem execIngestBind_sys (f c : Nat) (s : State) :
    outSys (execIngestBind f c s) s.sys = s.sys := by
  unfold execIngestBind
  repeat' first
    | with_reducible rfl
    | with_reducible assumption
    | exact Eq.symm (by with_reducible assumption)
    | simp only [faultJob_sys, giveHandle_sys, outSys_done]
    | split
    | (intro h1; obtain ⟨rfl, rfl⟩ := Prod.mk.inj h1)
    | (intro h1; obtain rfl := Option.some.inj h1)
    | (intro _)
    | refine Eq.trans (sys_foldl ?_ _ _) ?_
    | refine Eq.trans (sys_foldl_snd ?_ _ _) ?_
    | refine Eq.trans (sys_foldl_fst ?_ _ _) ?_
    | refine Eq.trans (issue_sys _ _ _ _ _ _ ?_) ?_
    | refine Eq.trans (withBlock_sys _ _ _ _ _ _ _ _ ?_ ?_) ?_
    | refine Eq.trans (bindIngest_sys (by assumption)) ?_
    | exact Eq.symm (by simp only [faultJob_sys, giveHandle_sys, outSys_done]; with_reducible first | rfl | assumption)
    | dsimp only
    | contradiction

theorem bindEgress_sys {s : State} {x : EFlow} {v0} {tq : State}
    (h : (bindEgress s x) = some (v0, tq)) :
    tq.sys = s.sys := by
  revert h
  unfold bindEgress
  repeat' first
    | with_reducible rfl
    | with_reducible assumption
    | simp only [State_w2_sys, State_w0_sys, State_setJob_sys, State_setEgr_sys]
    | split
    | (intro h1; cases h1)
    | (intro _)
    | dsimp only

theorem execEgressBind_sys (f c : Nat) (s : State) :
    outSys (execEgressBind f c s) s.sys = s.sys := by
  unfold execEgressBind
  repeat' first
    | with_reducible rfl
    | with_reducible assumption
    | exact Eq.symm (by with_reducible assumption)
    | simp only [faultJob_sys, giveHandle_sys, outSys_done]
    | split
    | (intro h1; obtain ⟨rfl, rfl⟩ := Prod.mk.inj h1)
    | (intro h1; obtain rfl := Option.some.inj h1)
    | (intro _)
    | refine Eq.trans (sys_foldl ?_ _ _) ?_
    | refine Eq.trans (sys_foldl_snd ?_ _ _) ?_
    | refine Eq.trans (sys_foldl_fst ?_ _ _) ?_
    | refine Eq.trans (issue_sys _ _ _ _ _ _ ?_) ?_
    | refine Eq.trans (withBlock_sys _ _ _ _ _ _ _ _ ?_ ?_) ?_
    | refine Eq.trans (bindEgress_sys (by assumption)) ?_
    | exact Eq.symm (by simp only [faultJob_sys, giveHandle_sys, outSys_done]; with_reducible first | rfl | assumption)
    | dsimp only
    | contradiction

theorem igfRefuse_sys (s : State) (hh : Nat) :
    (igfRefuse s hh).sys = s.sys := by
  unfold igfRefuse
  repeat' first
    | with_reducible rfl
    | with_reducible assumption
    | simp only [State_cnt0_sys]
    | split
    | (intro _)
    | dsimp only

theorem execIgfClaim_sys (hh v : Nat) (s : State) :
    outSys (execIgfClaim hh v s) s.sys = s.sys := by
  unfold execIgfClaim
  repeat' first
    | with_reducible rfl
    | with_reducible assumption
    | simp only [State_cnt2_sys, State_setSrc_sys, State_setVac_sys, outSys_next, outSys_done]
    | split
    | (intro _)
    | dsimp only

theorem completeSrc_sys {s : State} {hh v n : Nat} {tq : State}
    (h : (completeSrc s hh v n) = some tq) :
    tq.sys = s.sys := by
  revert h
  unfold completeSrc
  repeat' first
    | with_reducible rfl
    | with_reducible assumption
    | simp only [State_setSrc_sys, State_setVac_sys]
    | split
    | (intro h1; cases h1)
    | (intro _)
    | dsimp only

theorem execIgfComplete_sys (hh vec : Nat) (v : Word) (s : State) :
    outSys (execIgfComplete hh vec v s) s.sys = s.sys := by
  unfold execIgfComplete
  repeat' first
    | with_reducible rfl
    | with_reducible assumption
    | simp only [sendMsg_sys, igfRefuse_sys, outSys_next, outSys_done]
    | split
    | (intro _)
    | refine Eq.trans (completeSrc_sys (by assumption)) ?_
    | dsimp only

theorem igfAct_sys (s : State) (hh : Nat) (v : Word) (g : Src → Src) :
    (igfAct s hh v g).sys = s.sys := by
  unfold igfAct
  repeat' first
    | with_reducible rfl
    | with_reducible assumption
    | simp only [State_setSrc_sys, igfRefuse_sys]
    | split
    | (intro _)
    | dsimp only

theorem execIgfMaskSet_sys (hh : Nat) (v : Word) (s : State) :
    outSys (execIgfMaskSet hh v s) s.sys = s.sys := by
  unfold execIgfMaskSet
  repeat' first
    | with_reducible rfl
    | with_reducible assumption
    | simp only [igfAct_sys, outSys_next, outSys_done]
    | split
    | (intro _)
    | dsimp only

theorem execIgfMaskClr_sys (hh : Nat) (v : Word) (s : State) :
    outSys (execIgfMaskClr hh v s) s.sys = s.sys := by
  unfold execIgfMaskClr
  repeat' first
    | with_reducible rfl
    | with_reducible assumption
    | simp only [igfAct_sys, outSys_next, outSys_done]
    | split
    | (intro _)
    | dsimp only

theorem execIgfPendSet_sys (hh : Nat) (v : Word) (s : State) :
    outSys (execIgfPendSet hh v s) s.sys = s.sys := by
  unfold execIgfPendSet
  repeat' first
    | with_reducible rfl
    | with_reducible assumption
    | simp only [igfAct_sys, outSys_next, outSys_done]
    | split
    | (intro _)
    | dsimp only

theorem execIgfPendClr_sys (hh : Nat) (v : Word) (s : State) :
    outSys (execIgfPendClr hh v s) s.sys = s.sys := by
  unfold execIgfPendClr
  repeat' first
    | with_reducible rfl
    | with_reducible assumption
    | simp only [igfAct_sys, outSys_next, outSys_done]
    | split
    | (intro _)
    | dsimp only

theorem execIgfCoalWrite_sys (hh : Nat) (v : Word) (s : State) :
    outSys (execIgfCoalWrite hh v s) s.sys = s.sys := by
  unfold execIgfCoalWrite
  repeat' first
    | with_reducible rfl
    | with_reducible assumption
    | simp only [State_setSrc_sys, igfRefuse_sys, outSys_next, outSys_done]
    | split
    | (intro _)
    | dsimp only

theorem retarget_sys (s : State) (n : Nat) (y : Src) :
    (retarget s n y).sys = s.sys := by
  unfold retarget
  repeat' first
    | with_reducible rfl
    | with_reducible assumption
    | simp only [State_setSrc_sys]
    | split
    | (intro _)
    | dsimp only

theorem execIgfRouteWrite_sys (hh : Nat) (v : Word) (s : State) :
    outSys (execIgfRouteWrite hh v s) s.sys = s.sys := by
  unfold execIgfRouteWrite
  repeat' first
    | with_reducible rfl
    | with_reducible assumption
    | simp only [igfRefuse_sys, retarget_sys, outSys_next, outSys_done]
    | split
    | (intro _)
    | dsimp only

theorem execIgTargetWrite_sys (w n : Nat) (v : Word) (s : State) :
    outSys (execIgTargetWrite w n v s) s.sys = s.sys := by
  unfold execIgTargetWrite
  repeat' first
    | with_reducible rfl
    | with_reducible assumption
    | simp only [State_cnt2_sys, retarget_sys, outSys_done]
    | split
    | (intro _)
    | refine Eq.trans (adminWrite_sys _ _ _ ?_) ?_
    | dsimp only

theorem execCoalesceTimerExpiry_sys (n : Nat) (s : State) :
    outSys (execCoalesceTimerExpiry n s) s.sys = s.sys := by
  unfold execCoalesceTimerExpiry
  repeat' first
    | with_reducible rfl
    | with_reducible assumption
    | simp only [State_setSrc_sys, outSys_next, outSys_done]
    | split
    | (intro _)
    | dsimp only

theorem releaseMsgs_sys (s : State) (hh : Nat) :
    (releaseMsgs s hh).sys = s.sys := by
  unfold releaseMsgs
  repeat' first
    | with_reducible rfl
    | with_reducible assumption
    | simp only [State_emit_sys]
    | split
    | (intro _)
    | refine Eq.trans (sys_foldl ?_ _ _) ?_
    | refine Eq.trans (sys_foldl_snd ?_ _ _) ?_
    | refine Eq.trans (sys_foldl_fst ?_ _ _) ?_
    | dsimp only

theorem execMsixMaskRelease_sys (hh v : Nat) (s : State) :
    outSys (execMsixMaskRelease hh v s) s.sys = s.sys := by
  unfold execMsixMaskRelease
  repeat' first
    | with_reducible rfl
    | with_reducible assumption
    | simp only [State_put0_sys, State_modHd_sys, releaseMsgs_sys, outSys_next]
    | split
    | (intro _)
    | dsimp only

theorem execChnByhandle_sys (hh : Nat) (v : Word) (s : State) :
    outSys (execChnByhandle hh v s) s.sys = s.sys := by
  unfold execChnByhandle
  repeat' first
    | with_reducible rfl
    | with_reducible assumption
    | simp only [State_w0_sys, State_put0_sys, outSys_next]
    | split
    | (intro _)
    | dsimp only

end Sys2Proof.Machine
end

