-- ==== Sys2Proof/Laws/Fuse5.lean ====
section
/-! SUPPORT. What leaves fuses alone, part 5: the fuses and the boot state stay through the operations of:
Holdings, NetPorts, IngTables, EgressOps, Egress, PvOps, HostPort, Complete, Control, Dram. One lemma per function.
-/

set_option linter.unusedSimpArgs false
set_option linter.unusedVariables false

namespace Sys2Proof.Machine

open State

theorem refuse_sys (s : State) (code : Nat) :
    (refuse s code).sys = s.sys := by
  unfold refuse
  repeat' first
    | with_reducible rfl
    | with_reducible assumption
    | split
    | (intro _)
    | dsimp only

theorem functionAppear_sys (s : State) (hh : Nat) :
    (functionAppear s hh).sys = s.sys := by
  unfold functionAppear
  repeat' first
    | with_reducible rfl
    | with_reducible assumption
    | simp only [State_setHd_sys, holdEvent_sys]
    | split
    | (intro _)
    | dsimp only

theorem execFunctionPresent_sys (hh : Nat) (s : State) :
    outSys (execFunctionPresent hh s) s.sys = s.sys := by
  unfold execFunctionPresent
  repeat' first
    | with_reducible rfl
    | with_reducible assumption
    | simp only [functionAppear_sys, outSys_next, outSys_done]
    | split
    | (intro _)
    | dsimp only

theorem functionGone_sys (s : State) (hh : Nat) (td : Td) :
    (functionGone s hh td).sys = s.sys := by
  unfold functionGone
  repeat' first
    | with_reducible rfl
    | with_reducible assumption
    | simp only [State_setHd_sys, teardownStart_sys]
    | split
    | (intro _)
    | dsimp only

theorem execSriovNumvfsWrite_sys (p n : Nat) (s : State) :
    outSys (execSriovNumvfsWrite p n s) s.sys = s.sys := by
  unfold execSriovNumvfsWrite
  repeat' first
    | with_reducible rfl
    | with_reducible assumption
    | simp only [State_modHp_sys, functionAppear_sys, functionGone_sys, outSys_next, outSys_done]
    | split
    | (intro _)
    | refine Eq.trans (sys_foldl ?_ _ _) ?_
    | refine Eq.trans (sys_foldl_snd ?_ _ _) ?_
    | refine Eq.trans (sys_foldl_fst ?_ _ _) ?_
    | dsimp only

theorem execFunctionLevelReset_sys (hh : Nat) (s : State) :
    outSys (execFunctionLevelReset hh s) s.sys = s.sys := by
  unfold execFunctionLevelReset
  repeat' first
    | with_reducible rfl
    | with_reducible assumption
    | simp only [State_modHd_sys, teardownStart_sys, outSys_next, outSys_done]
    | split
    | (intro _)
    | dsimp only

theorem execD3hotToD0_sys (hh : Nat) (s : State) :
    outSys (execD3hotToD0 hh s) s.sys = s.sys := by
  unfold execD3hotToD0
  repeat' first
    | with_reducible rfl
    | with_reducible assumption
    | simp only [State_modHd_sys, teardownStart_sys, outSys_next, outSys_done]
    | split
    | (intro _)
    | dsimp only

theorem execD0ToD3hot_sys (hh : Nat) (s : State) :
    outSys (execD0ToD3hot hh s) s.sys = s.sys := by
  unfold execD0ToD3hot
  repeat' first
    | with_reducible rfl
    | with_reducible assumption
    | simp only [State_modHd_sys, outSys_next, outSys_done]
    | split
    | (intro _)
    | dsimp only

theorem cutPictures_sys (s : State) (hh : Nat) :
    (cutPictures s hh).sys = s.sys := by
  unfold cutPictures
  repeat' first
    | with_reducible rfl
    | with_reducible assumption
    | simp only [State_setJob_sys, State_setVid_sys, reapBufs_sys]
    | split
    | (intro _)
    | dsimp only

theorem execTeardownPictureCutoff_sys (hh : Nat) (s : State) :
    outSys (execTeardownPictureCutoff hh s) s.sys = s.sys := by
  unfold execTeardownPictureCutoff
  repeat' first
    | with_reducible rfl
    | with_reducible assumption
    | simp only [State_modHd_sys, cutPictures_sys, outSys_next, outSys_done]
    | split
    | (intro _)
    | dsimp only

theorem dropObjects_sys (s : State) (hh : Nat) :
    (dropObjects s hh).sys = s.sys := by
  unfold dropObjects
  repeat' first
    | with_reducible rfl
    | with_reducible assumption
    | simp only [freeSlot_sys, closeChannel_sys, cutPictures_sys]
    | split
    | (intro _)
    | refine Eq.trans (sys_foldl ?_ _ _) ?_
    | refine Eq.trans (sys_foldl_snd ?_ _ _) ?_
    | refine Eq.trans (sys_foldl_fst ?_ _ _) ?_
    | dsimp only

theorem dropSources_sys (s : State) (hh : Nat) :
    (dropSources s hh).sys = s.sys := by
  unfold dropSources clearSources
  repeat' first
    | with_reducible rfl
    | with_reducible assumption
    | split
    | (intro _)
    | dsimp only

theorem unmapFrom_sys (s : State) (hh g : Nat) :
    (unmapFrom s hh g).sys = s.sys := by
  unfold unmapFrom
  repeat' first
    | with_reducible rfl
    | with_reducible assumption
    | split
    | (intro _)
    | dsimp only

theorem pvInit_sys (s : State) (hh : Nat) :
    (pvInit s hh).sys = s.sys := by
  unfold pvInit
  repeat' first
    | with_reducible rfl
    | with_reducible assumption
    | simp only [State_setSrc_sys, State_setCq_sys]
    | split
    | (intro _)
    | refine Eq.trans (sys_foldl ?_ _ _) ?_
    | refine Eq.trans (sys_foldl_snd ?_ _ _) ?_
    | refine Eq.trans (sys_foldl_fst ?_ _ _) ?_
    | dsimp only

theorem endTeardown_sys (s : State) (hh : Nat) :
    (endTeardown s hh).sys = s.sys := by
  unfold endTeardown
  repeat' first
    | with_reducible rfl
    | with_reducible assumption
    | simp only [State_setHd_sys, holdEvent_sys, State_raise_sys, functionAppear_sys, unmapFrom_sys, resetBar0_sys, pvInit_sys]
    | split
    | (intro _)
    | dsimp only

theorem execTeardownComplete_sys (hh : Nat) (s : State) :
    outSys (execTeardownComplete hh s) s.sys = s.sys := by
  unfold execTeardownComplete
  repeat' first
    | with_reducible rfl
    | with_reducible assumption
    | simp only [dropObjects_sys, dropSources_sys, endTeardown_sys, outSys_next, outSys_done]
    | split
    | (intro _)
    | dsimp only

theorem enableHolding_sys (s : State) (hh : Nat) (pers : Bool) :
    (enableHolding s hh pers).sys = s.sys := by
  unfold enableHolding
  repeat' first
    | with_reducible rfl
    | with_reducible assumption
    | simp only [State_setHd_sys, refuse_sys, pvInit_sys]
    | split
    | (intro _)
    | dsimp only

theorem execHoldingEnable_sys (w hh : Nat) (pers : Bool) (s : State) :
    outSys (execHoldingEnable w hh pers s) s.sys = s.sys := by
  unfold execHoldingEnable
  repeat' first
    | with_reducible rfl
    | with_reducible assumption
    | simp only [enableHolding_sys, outSys_done]
    | split
    | (intro _)
    | refine Eq.trans (adminWrite_sys _ _ _ ?_) ?_
    | dsimp only

theorem execHoldingDisable_sys (w hh : Nat) (pers : Bool) (s : State) :
    outSys (execHoldingDisable w hh pers s) s.sys = s.sys := by
  unfold execHoldingDisable
  repeat' first
    | with_reducible rfl
    | with_reducible assumption
    | simp only [State_setHd_sys, clearEnable_sys, refuse_sys, unmapFrom_sys, outSys_done]
    | split
    | (intro _)
    | refine Eq.trans (adminWrite_sys _ _ _ ?_) ?_
    | dsimp only

theorem execQuotaWrite_sys (w hh reg : Nat) (v : Word) (s : State) :
    outSys (execQuotaWrite w hh reg v s) s.sys = s.sys := by
  unfold execQuotaWrite
  repeat' first
    | with_reducible rfl
    | with_reducible assumption
    | simp only [State_setHd_sys, refuse_sys, unmapFrom_sys, outSys_done]
    | split
    | (intro _)
    | refine Eq.trans (adminWrite_sys _ _ _ ?_) ?_
    | dsimp only

theorem takeRole_sys (s : State) (hh : Nat) :
    (takeRole s hh).sys = s.sys := by
  unfold takeRole
  repeat' first
    | with_reducible rfl
    | with_reducible assumption
    | simp only [State_setSrc_sys]
    | split
    | (intro _)
    | refine Eq.trans (sys_foldl ?_ _ _) ?_
    | refine Eq.trans (sys_foldl_snd ?_ _ _) ?_
    | refine Eq.trans (sys_foldl_fst ?_ _ _) ?_
    | dsimp only

theorem admResult_sys (s : State) (hh code : Nat) :
    (admResult s hh code).sys = s.sys := by
  unfold admResult
  repeat' first
    | with_reducible rfl
    | with_reducible assumption
    | simp only [State_modHd_sys]
    | split
    | (intro _)
    | dsimp only

theorem execHeartbeat_sys (w : Nat) (s : State) :
    outSys (execHeartbeat w s) s.sys = s.sys := by
  unfold execHeartbeat
  repeat' first
    | with_reducible rfl
    | with_reducible assumption
    | simp only [outSys_next]
    | split
    | (intro _)
    | dsimp only

theorem execPromote_sys (w : Nat) (s : State) :
    outSys (execPromote w s) s.sys = s.sys := by
  unfold execPromote
  repeat' first
    | with_reducible rfl
    | with_reducible assumption
    | simp only [takeRole_sys, admResult_sys, outSys_next, outSys_done]
    | split
    | (intro _)
    | dsimp only

theorem execHandover_sys (w : Nat) (s : State) :
    outSys (execHandover w s) s.sys = s.sys := by
  unfold execHandover
  repeat' first
    | with_reducible rfl
    | with_reducible assumption
    | simp only [takeRole_sys, admResult_sys, outSys_next, outSys_done]
    | split
    | (intro _)
    | dsimp only

theorem execAdmLeaseExpiry_sys (s : State) :
    outSys (execAdmLeaseExpiry s) s.sys = s.sys := by
  unfold execAdmLeaseExpiry
  repeat' first
    | with_reducible rfl
    | with_reducible assumption
    | simp only [roleVacant_sys, outSys_next, outSys_done]
    | split
    | (intro _)
    | dsimp only

theorem State_setNport_sys (s : State) (p : Nat) (x : NPort) :
    (State.setNport s p x).sys = s.sys := by
  unfold State.setNport
  repeat' first
    | with_reducible rfl
    | with_reducible assumption
    | simp only [State_setIng_sys]
    | split
    | (intro _)
    | dsimp only

theorem portEvent_sys (s : State) (p b : Nat) :
    (portEvent s p b).sys = s.sys := by
  unfold portEvent
  repeat' first
    | with_reducible rfl
    | with_reducible assumption
    | simp only [devEvent_sys]
    | split
    | (intro _)
    | dsimp only

theorem pvChange_sys (s : State) (p : Nat) :
    (pvChange s p).sys = s.sys := by
  unfold pvChange
  repeat' first
    | with_reducible rfl
    | with_reducible assumption
    | simp only [State_w0_sys, pvFire_sys]
    | split
    | (intro _)
    | dsimp only

theorem enablePort_sys (s : State) (p : Nat) :
    (enablePort s p).sys = s.sys := by
  unfold enablePort
  repeat' first
    | with_reducible rfl
    | with_reducible assumption
    | simp only [State_put2_sys, claimPll_sys]
    | split
    | (intro _)
    | dsimp only

theorem execNetPortEnable_sys (w p : Nat) (s : State) :
    outSys (execNetPortEnable w p s) s.sys = s.sys := by
  unfold execNetPortEnable
  repeat' first
    | with_reducible rfl
    | with_reducible assumption
    | simp only [enablePort_sys, outSys_done]
    | split
    | (intro _)
    | refine Eq.trans (adminWrite_sys _ _ _ ?_) ?_
    | dsimp only

theorem loseFlow_sys (s : State) (t : Nat) :
    (loseFlow s t).sys = s.sys := by
  unfold loseFlow
  repeat' first
    | with_reducible rfl
    | with_reducible assumption
    | simp only [State_setFifo_sys, State_modChan_sys, dropPkts_sys, State_setFlow_sys, commitPending_sys2]
    | split
    | (intro _)
    | refine Eq.trans (commitPending_sys (by assumption)) ?_
    | dsimp only

theorem loseFlows_sys (s : State) (p : Nat) :
    (loseFlows s p).sys = s.sys := by
  unfold loseFlows
  repeat' first
    | with_reducible rfl
    | with_reducible assumption
    | simp only [loseFlow_sys]
    | split
    | (intro _)
    | refine Eq.trans (sys_foldl ?_ _ _) ?_
    | refine Eq.trans (sys_foldl_snd ?_ _ _) ?_
    | refine Eq.trans (sys_foldl_fst ?_ _ _) ?_
    | dsimp only

theorem linkDown_sys (s : State) (p : Nat) :
    (linkDown s p).sys = s.sys := by
  unfold linkDown
  repeat' first
    | with_reducible rfl
    | with_reducible assumption
    | simp only [State_setNport_sys, portEvent_sys, pvChange_sys, loseFlows_sys]
    | split
    | (intro _)
    | dsimp only

theorem disablePort_sys (s : State) (p : Nat) :
    (disablePort s p).sys = s.sys := by
  unfold disablePort
  repeat' first
    | with_reducible rfl
    | with_reducible assumption
    | simp only [State_put2_sys, linkDown_sys]
    | split
    | (intro _)
    | dsimp only

theorem execNetPortDisable_sys (w p : Nat) (s : State) :
    outSys (execNetPortDisable w p s) s.sys = s.sys := by
  unfold execNetPortDisable
  repeat' first
    | with_reducible rfl
    | with_reducible assumption
    | simp only [disablePort_sys, outSys_done]
    | split
    | (intro _)
    | refine Eq.trans (adminWrite_sys _ _ _ ?_) ?_
    | dsimp only

theorem quadWrite_sys (s : State) (q : Nat) (v : Word) :
    (quadWrite s q v).sys = s.sys := by
  unfold quadWrite
  repeat' first
    | with_reducible rfl
    | with_reducible assumption
    | simp only [State_put2_sys]
    | split
    | (intro _)
    | dsimp only

theorem execIngQuadModeWrite_sys (w q : Nat) (v : Word) (s : State) :
    outSys (execIngQuadModeWrite w q v s) s.sys = s.sys := by
  unfold execIngQuadModeWrite
  repeat' first
    | with_reducible rfl
    | with_reducible assumption
    | simp only [quadWrite_sys, outSys_done]
    | split
    | (intro _)
    | refine Eq.trans (adminWrite_sys _ _ _ ?_) ?_
    | dsimp only

theorem execNetLinkLoss_sys (p : Nat) (s : State) :
    outSys (execNetLinkLoss p s) s.sys = s.sys := by
  unfold execNetLinkLoss
  repeat' first
    | with_reducible rfl
    | with_reducible assumption
    | simp only [linkDown_sys, outSys_next, outSys_done]
    | split
    | (intro _)
    | dsimp only

theorem execNetLinkUp_sys (p : Nat) (s : State) :
    outSys (execNetLinkUp p s) s.sys = s.sys := by
  unfold execNetLinkUp
  repeat' first
    | with_reducible rfl
    | with_reducible assumption
    | simp only [State_setNport_sys, portEvent_sys, pvChange_sys, outSys_next, outSys_done]
    | split
    | (intro _)
    | dsimp only

theorem countRx_sys (s : State) (p n : Nat) :
    (countRx s p n).sys = s.sys := by
  unfold countRx
  repeat' first
    | with_reducible rfl
    | with_reducible assumption
    | simp only [State_addq2_sys, State_addq0_sys]
    | split
    | (intro _)
    | dsimp only

theorem execIngestFrameReceive_sys (p : Nat) (bad : Bool) (data : List Byte) (start : DWord) (s : State) :
    outSys (execIngestFrameReceive p bad data start s) s.sys = s.sys := by
  unfold execIngestFrameReceive
  repeat' first
    | with_reducible rfl
    | with_reducible assumption
    | simp only [State_cnt2_sys, State_addq2_sys, State_setNport_sys, portEvent_sys, countRx_sys, outSys_next, outSys_done]
    | split
    | (intro _)
    | dsimp only

theorem execIngestFrameClassify_sys (p : Nat) (s : State) :
    outSys (execIngestFrameClassify p s) s.sys = s.sys := by
  unfold execIngestFrameClassify
  repeat' first
    | with_reducible rfl
    | with_reducible assumption
    | simp only [classifyFrame_sys, State_setNport_sys, outSys_next, outSys_done]
    | split
    | (intro _)
    | dsimp only

theorem execIngPauseSet_sys (w p : Nat) (s : State) :
    outSys (execIngPauseSet w p s) s.sys = s.sys := by
  unfold execIngPauseSet
  repeat' first
    | with_reducible rfl
    | with_reducible assumption
    | simp only [State_put2_sys, outSys_done]
    | split
    | (intro _)
    | refine Eq.trans (adminWrite_sys _ _ _ ?_) ?_
    | dsimp only

theorem execIngPauseInForce_sys (p : Nat) (s : State) :
    outSys (execIngPauseInForce p s) s.sys = s.sys := by
  unfold execIngPauseInForce
  repeat' first
    | with_reducible rfl
    | with_reducible assumption
    | simp only [State_put2_sys, outSys_next]
    | split
    | (intro _)
    | dsimp only

theorem endPause_sys (s : State) (p : Nat) :
    (endPause s p).sys = s.sys := by
  unfold endPause
  repeat' first
    | with_reducible rfl
    | with_reducible assumption
    | simp only [State_put2_sys]
    | split
    | (intro _)
    | dsimp only

theorem execIngPauseClear_sys (w p : Nat) (s : State) :
    outSys (execIngPauseClear w p s) s.sys = s.sys := by
  unfold execIngPauseClear
  repeat' first
    | with_reducible rfl
    | with_reducible assumption
    | simp only [endPause_sys, outSys_done]
    | split
    | (intro _)
    | refine Eq.trans (adminWrite_sys _ _ _ ?_) ?_
    | dsimp only

theorem execIngPauseExpiry_sys (p : Nat) (s : State) :
    outSys (execIngPauseExpiry p s) s.sys = s.sys := by
  unfold execIngPauseExpiry
  repeat' first
    | with_reducible rfl
    | with_reducible assumption
    | simp only [portEvent_sys, endPause_sys, outSys_next, outSys_done]
    | split
    | (intro _)
    | dsimp only

theorem execExcTokenRefill_sys (hh : Nat) (s : State) :
    outSys (execExcTokenRefill hh s) s.sys = s.sys := by
  unfold execExcTokenRefill
  repeat' first
    | with_reducible rfl
    | with_reducible assumption
    | simp only [State_setIng_sys, outSys_next]
    | split
    | (intro _)
    | dsimp only

theorem execReorderHoleTimeout_sys (t : Nat) (s : State) :
    outSys (execReorderHoleTimeout t s) s.sys = s.sys := by
  unfold execReorderHoleTimeout
  repeat' first
    | with_reducible rfl
    | with_reducible assumption
    | simp only [drainHeld_sys, slide_sys, outSys_next, outSys_done]
    | split
    | (intro _)
    | dsimp only

theorem execPathDownTimeout_sys (t pth : Nat) (s : State) :
    outSys (execPathDownTimeout t pth s) s.sys = s.sys := by
  unfold execPathDownTimeout
  repeat' first
    | with_reducible rfl
    | with_reducible assumption
    | simp only [State_setFlow_sys, showPath_sys, outSys_next]
    | split
    | (intro _)
    | dsimp only

theorem wrRefused_sys (s : State) :
    (wrRefused s).sys = s.sys := by
  unfold wrRefused
  repeat' first
    | with_reducible rfl
    | with_reducible assumption
    | simp only [State_cnt2_sys]
    | split
    | (intro _)
    | dsimp only

theorem tableWrite_sys (s : State) (a : Nat) (v : Word) :
    (tableWrite s a v).sys = s.sys := by
  unfold tableWrite
  repeat' first
    | with_reducible rfl
    | with_reducible assumption
    | simp only [State_w2_sys, State_setIng_sys, wrRefused_sys]
    | split
    | (intro _)
    | dsimp only

theorem execIngTableWrite_sys (w off : Nat) (v : Word) (s : State) :
    outSys (execIngTableWrite w off v s) s.sys = s.sys := by
  unfold execIngTableWrite
  repeat' first
    | with_reducible rfl
    | with_reducible assumption
    | simp only [tableWrite_sys, outSys_done]
    | split
    | (intro _)
    | refine Eq.trans (adminWrite_sys _ _ _ ?_) ?_
    | dsimp only

theorem meterCommit_sys (s : State) (m : Nat) (v : Word) :
    (meterCommit s m v).sys = s.sys := by
  unfold meterCommit
  repeat' first
    | with_reducible rfl
    | with_reducible assumption
    | simp only [State_w2_sys, State_setIng_sys]
    | split
    | (intro _)
    | dsimp only

theorem execMeterCommit_sys (w m : Nat) (v : Word) (s : State) :
    outSys (execMeterCommit w m v s) s.sys = s.sys := by
  unfold execMeterCommit
  repeat' first
    | with_reducible rfl
    | with_reducible assumption
    | simp only [meterCommit_sys, outSys_done]
    | split
    | (intro _)
    | refine Eq.trans (adminWrite_sys _ _ _ ?_) ?_
    | dsimp only

theorem tblStart_sys (s : State) (op : Nat) (v : Word) (result : Nat) :
    (tblStart s op v result).sys = s.sys := by
  unfold tblStart
  repeat' first
    | with_reducible rfl
    | with_reducible assumption
    | simp only [State_w2_sys, State_setIng_sys]
    | split
    | (intro _)
    | dsimp only

theorem tblCmd_sys (s : State) (w : Nat) (body : State → State)
    (hbody : ∀ x0, x0.sys = s.sys → (body x0).sys = s.sys) :
    (tblCmd s w body).sys = s.sys := by
  unfold tblCmd
  repeat' first
    | with_reducible rfl
    | with_reducible assumption
    | split
    | (intro _)
    | refine hbody _ ?_
    | refine Eq.trans (adminWrite_sys _ _ _ ?_) ?_
    | dsimp only

theorem tblPut_sys (s : State) (ws : List Word) :
    (tblPut s ws).sys = s.sys := by
  unfold tblPut
  repeat' first
    | with_reducible rfl
    | with_reducible assumption
    | simp only [State_w2_sys]
    | split
    | (intro _)
    | refine Eq.trans (sys_foldl ?_ _ _) ?_
    | refine Eq.trans (sys_foldl_snd ?_ _ _) ?_
    | refine Eq.trans (sys_foldl_fst ?_ _ _) ?_
    | dsimp only

theorem tblRead_sys (s : State) (v : Word) :
    (tblRead s v).sys = s.sys := by
  unfold tblRead
  repeat' first
    | with_reducible rfl
    | with_reducible assumption
    | simp only [tblStart_sys, tblPut_sys]
    | split
    | (intro _)
    | dsimp only

theorem tblInsert_sys (s : State) (v : Word) :
    (tblInsert s v).sys = s.sys := by
  unfold tblInsert
  repeat' first
    | with_reducible rfl
    | with_reducible assumption
    | simp only [State_setIng_sys, wrRefused_sys, tblStart_sys, State_takeFree_sys2]
    | split
    | (intro _)
    | refine Eq.trans (State_takeFree_sys (by assumption)) ?_
    | dsimp only

theorem tblDelete_sys (s : State) (v : Word) :
    (tblDelete s v).sys = s.sys := by
  unfold tblDelete
  repeat' first
    | with_reducible rfl
    | with_reducible assumption
    | simp only [State_setIng_sys, wrRefused_sys, tblStart_sys]
    | split
    | (intro _)
    | dsimp only

theorem execIngTblRead_sys (w : Nat) (v : Word) (s : State) :
    outSys (execIngTblRead w v s) s.sys = s.sys := by
  unfold execIngTblRead
  repeat' first
    | with_reducible rfl
    | with_reducible assumption
    | simp only [tblRead_sys, outSys_done]
    | split
    | (intro _)
    | refine Eq.trans (tblCmd_sys _ _ _ ?_) ?_
    | dsimp only

theorem execIngTblInsert_sys (w : Nat) (v : Word) (s : State) :
    outSys (execIngTblInsert w v s) s.sys = s.sys := by
  unfold execIngTblInsert
  repeat' first
    | with_reducible rfl
    | with_reducible assumption
    | simp only [tblInsert_sys, outSys_done]
    | split
    | (intro _)
    | refine Eq.trans (tblCmd_sys _ _ _ ?_) ?_
    | dsimp only

theorem execIngTblDelete_sys (w : Nat) (v : Word) (s : State) :
    outSys (execIngTblDelete w v s) s.sys = s.sys := by
  unfold execIngTblDelete
  repeat' first
    | with_reducible rfl
    | with_reducible assumption
    | simp only [tblDelete_sys, outSys_done]
    | split
    | (intro _)
    | refine Eq.trans (tblCmd_sys _ _ _ ?_) ?_
    | dsimp only

theorem execIngTblCmdComplete_sys (s : State) :
    outSys (execIngTblCmdComplete s) s.sys = s.sys := by
  unfold execIngTblCmdComplete
  repeat' first
    | with_reducible rfl
    | with_reducible assumption
    | simp only [State_w2_sys, State_setIng_sys, outSys_next]
    | split
    | (intro _)
    | dsimp only

theorem State_setEflow_sys (s : State) (e : Nat) (x : EFlow) :
    (State.setEflow s e x).sys = s.sys := by
  unfold State.setEflow
  repeat' first
    | with_reducible rfl
    | with_reducible assumption
    | simp only [State_setEgr_sys]
    | split
    | (intro _)
    | dsimp only

theorem putEflow_sys (s : State) (e : Nat) (x : EFlow) :
    (putEflow s e x).sys = s.sys := by
  unfold putEflow
  repeat' first
    | with_reducible rfl
    | with_reducible assumption
    | simp only [State_w2_sys, State_setEflow_sys]
    | split
    | (intro _)
    | dsimp only

theorem egrEvent_sys (s : State) (b : Nat) :
    (egrEvent s b).sys = s.sys := by
  unfold egrEvent
  repeat' first
    | with_reducible rfl
    | with_reducible assumption
    | simp only [devEvent_sys]
    | split
    | (intro _)
    | dsimp only

theorem cellsFor_sys {s : State} {hh : Nat} {m0 : Nat} {v0} {tq : State}
    (h : (cellsFor s hh m0) = (v0, tq)) :
    tq.sys = s.sys := by
  revert h
  cases m0 <;> unfold cellsFor
  all_goals repeat' first
    | with_reducible rfl
    | with_reducible assumption
    | simp only [decRef_sys]
    | split
    | (intro h1; cases h1)
    | (intro _)
    | refine Eq.trans (allocChain_sys (by assumption)) ?_
    | refine Eq.trans (cellsFor_sys  (by assumption)) ?_
    | dsimp only

theorem cellsFor_sys2 (s : State) (hh : Nat) (m0 : Nat) :
    (cellsFor s hh m0).2.sys = s.sys := by
  rcases hq : (cellsFor s hh m0) with ⟨v0, tq⟩; exact cellsFor_sys  hq

theorem queueItem_sys (s : State) (e : Nat) (live : Bool) (i : Item) :
    (queueItem s e live i).sys = s.sys := by
  unfold queueItem
  repeat' first
    | with_reducible rfl
    | with_reducible assumption
    | simp only [putEflow_sys]
    | split
    | (intro _)
    | refine Eq.trans (cellsFor_sys (by assumption)) ?_
    | dsimp only

theorem itemRefs_sys (s : State) (cell : Nat) (m0 : Nat) :
    (itemRefs s cell m0).sys = s.sys := by
  cases m0 <;> unfold itemRefs
  all_goals repeat' first
    | with_reducible rfl
    | with_reducible assumption
    | simp only [incRef_sys2]
    | split
    | (intro _)
    | refine Eq.trans (incRef_sys (by assumption)) ?_
    | refine Eq.trans (itemRefs_sys ..) ?_
    | dsimp only

theorem execEgressItemTake_sys (c : Nat) (s : State) :
    outSys (execEgressItemTake c s) s.sys = s.sys := by
  unfold execEgressItemTake
  repeat' first
    | with_reducible rfl
    | with_reducible assumption
    | simp only [cellFail_sys, decRef_sys, State_setFifo_sys, queueItem_sys, itemRefs_sys, outSys_next, outSys_done]
    | split
    | (intro _)
    | refine Eq.trans (sys_foldl ?_ _ _) ?_
    | refine Eq.trans (sys_foldl_snd ?_ _ _) ?_
    | refine Eq.trans (sys_foldl_fst ?_ _ _) ?_
    | refine Eq.trans (cellsFor_sys (by assumption)) ?_
    | dsimp only

theorem feedOne_sys {s : State} {e : Nat} {tq : State}
    (h : (feedOne s e) = some tq) :
    tq.sys = s.sys := by
  revert h
  unfold feedOne
  repeat' first
    | with_reducible rfl
    | with_reducible assumption
    | simp only [State_w0_sys, putEflow_sys, egrEvent_sys]
    | split
    | (intro h1; rw [Option.map_eq_some_iff] at h1; obtain ⟨_, h0, h2⟩ := h1; revert h0 h2)
    | (intro h1; cases h1)
    | (intro _)
    | refine Eq.trans (cellsFor_sys (by assumption)) ?_
    | dsimp only

theorem feedPump_sys (s : State) (e : Nat) (m0 : Nat) :
    (feedPump s e m0).sys = s.sys := by
  cases m0 <;> unfold feedPump
  all_goals repeat' first
    | with_reducible rfl
    | with_reducible assumption
    | split
    | (intro _)
    | refine Eq.trans (feedOne_sys (by assumption)) ?_
    | refine Eq.trans (feedPump_sys ..) ?_
    | dsimp only

theorem execEgfPiWrite_sys (hh slot : Nat) (v : Word) (s : State) :
    outSys (execEgfPiWrite hh slot v s) s.sys = s.sys := by
  unfold execEgfPiWrite
  repeat' first
    | with_reducible rfl
    | with_reducible assumption
    | simp only [State_w0_sys, State_setEflow_sys, feedPump_sys, outSys_next, outSys_done]
    | split
    | (intro _)
    | dsimp only

theorem execDatagramHoldExpiry_sys (e : Nat) (s : State) :
    outSys (execDatagramHoldExpiry e s) s.sys = s.sys := by
  unfold execDatagramHoldExpiry
  repeat' first
    | with_reducible rfl
    | with_reducible assumption
    | simp only [State_setEflow_sys, outSys_next]
    | split
    | (intro _)
    | dsimp only

theorem execPcrIntervalExpiry_sys (e : Nat) (s : State) :
    outSys (execPcrIntervalExpiry e s) s.sys = s.sys := by
  unfold execPcrIntervalExpiry
  repeat' first
    | with_reducible rfl
    | with_reducible assumption
    | simp only [putEflow_sys, outSys_next, outSys_done]
    | split
    | (intro _)
    | dsimp only

theorem execPsiRepeatDue_sys (e t : Nat) (s : State) :
    outSys (execPsiRepeatDue e t s) s.sys = s.sys := by
  unfold execPsiRepeatDue
  repeat' first
    | with_reducible rfl
    | with_reducible assumption
    | simp only [State_setEflow_sys, putEflow_sys, outSys_next, outSys_done]
    | split
    | (intro _)
    | refine Eq.trans (cellsFor_sys (by assumption)) ?_
    | dsimp only

theorem settleSvc_sys (s : State) (v : Nat) :
    (settleSvc s v).sys = s.sys := by
  unfold settleSvc
  repeat' first
    | with_reducible rfl
    | with_reducible assumption
    | simp only [State_setEgr_sys]
    | split
    | (intro _)
    | dsimp only

theorem settlePort_sys (s : State) (p : Nat) :
    (settlePort s p).sys = s.sys := by
  unfold settlePort
  repeat' first
    | with_reducible rfl
    | with_reducible assumption
    | simp only [State_setEgr_sys]
    | split
    | (intro _)
    | dsimp only

theorem charge_sys {s : State} {p : Nat} {k : Choice} {v0} {tq : State}
    (h : (charge s p k) = (v0, tq)) :
    tq.sys = s.sys := by
  revert h
  unfold charge
  repeat' first
    | with_reducible rfl
    | with_reducible assumption
    | simp only [State_setEgr_sys]
    | split
    | (intro h1; cases h1)
    | (intro _)
    | dsimp only

theorem charge_sys2 (s : State) (p : Nat) (k : Choice) :
    (charge s p k).2.sys = s.sys := by
  rcases hq : (charge s p k) with ⟨v0, tq⟩; exact charge_sys  hq

theorem putDelay_sys (s : State) (e : Nat) (since : List DWord) :
    (putDelay s e since).sys = s.sys := by
  unfold putDelay
  repeat' first
    | with_reducible rfl
    | with_reducible assumption
    | simp only [State_w2_sys]
    | split
    | (intro _)
    | refine Eq.trans (sys_foldl ?_ _ _) ?_
    | refine Eq.trans (sys_foldl_snd ?_ _ _) ?_
    | refine Eq.trans (sys_foldl_fst ?_ _ _) ?_
    | dsimp only

theorem sendDgram_sys {s : State} {e p : Nat} {x : EFlow} {d : List TsPkt} {v0} {tq : State}
    (h : (sendDgram s e p x d) = (v0, tq)) :
    tq.sys = s.sys := by
  revert h
  unfold sendDgram
  repeat' first
    | with_reducible rfl
    | with_reducible assumption
    | simp only [State_w2_sys, State_addq2_sys, State_addq0_sys, State_emit_sys, egrEvent_sys, putDelay_sys, State_takeFree_sys2]
    | split
    | (intro h1; cases h1)
    | (intro _)
    | refine Eq.trans (State_takeFree_sys (by assumption)) ?_
    | dsimp only

theorem sendDgram_sys2 (s : State) (e p : Nat) (x : EFlow) (d : List TsPkt) :
    (sendDgram s e p x d).2.sys = s.sys := by
  rcases hq : (sendDgram s e p x d) with ⟨v0, tq⟩; exact sendDgram_sys  hq

theorem discard_sys (s : State) (e n : Nat) :
    (discard s e n).sys = s.sys := by
  unfold discard
  repeat' first
    | with_reducible rfl
    | with_reducible assumption
    | simp only [State_w2_sys, egrEvent_sys]
    | split
    | (intro _)
    | dsimp only

theorem execEgressFrameStart_sys (p : Nat) (s : State) :
    outSys (execEgressFrameStart p s) s.sys = s.sys := by
  unfold execEgressFrameStart
  repeat' first
    | with_reducible rfl
    | with_reducible assumption
    | simp only [dropTs_sys, endEgrFlow_sys, State_setEflow_sys, feedPump_sys, discard_sys, charge_sys2, sendDgram_sys2, outSys_next, outSys_done]
    | split
    | (intro _)
    | refine Eq.trans (charge_sys (by assumption)) ?_
    | refine Eq.trans (sendDgram_sys (by assumption)) ?_
    | dsimp only

theorem execEgressDepthSample_sys (s : State) :
    outSys (execEgressDepthSample s) s.sys = s.sys := by
  unfold execEgressDepthSample
  repeat' first
    | with_reducible rfl
    | with_reducible assumption
    | simp only [State_w2_sys, outSys_next]
    | split
    | (intro _)
    | refine Eq.trans (sys_foldl ?_ _ _) ?_
    | refine Eq.trans (sys_foldl_snd ?_ _ _) ?_
    | refine Eq.trans (sys_foldl_fst ?_ _ _) ?_
    | dsimp only

theorem execEgrObsClr_sys (w : Nat) (v : Word) (s : State) :
    outSys (execEgrObsClr w v s) s.sys = s.sys := by
  unfold execEgrObsClr
  repeat' first
    | with_reducible rfl
    | with_reducible assumption
    | simp only [State_w2_sys, outSys_done]
    | split
    | (intro _)
    | refine Eq.trans (adminWrite_sys _ _ _ ?_) ?_
    | dsimp only

theorem pvT0_sys (s : State) (k : Nat) (hh : Option Nat) :
    (pvT0 s k hh).sys = s.sys := by
  unfold pvT0
  repeat' first
    | with_reducible rfl
    | with_reducible assumption
    | simp only [State_w2_sys, State_put2_sys]
    | split
    | (intro _)
    | dsimp only

theorem pvSvc_sys (s : State) (k hh : Nat) :
    (pvSvc s k hh).sys = s.sys := by
  unfold pvSvc
  repeat' first
    | with_reducible rfl
    | with_reducible assumption
    | simp only [State_put2_sys, settleSvc_sys]
    | split
    | (intro _)
    | dsimp only

theorem pvAssign_sys (s : State) (hh : Nat) (ports : BitVec 4) :
    (pvAssign s hh ports).sys = s.sys := by
  unfold pvAssign
  repeat' first
    | with_reducible rfl
    | with_reducible assumption
    | simp only [State_modHd_sys, pvT0_sys, pvSvc_sys]
    | split
    | (intro _)
    | refine Eq.trans (sys_foldl ?_ _ _) ?_
    | refine Eq.trans (sys_foldl_snd ?_ _ _) ?_
    | refine Eq.trans (sys_foldl_fst ?_ _ _) ?_
    | dsimp only

theorem execPv16PortsWrite_sys (w hh : Nat) (v : Word) (s : State) :
    outSys (execPv16PortsWrite w hh v s) s.sys = s.sys := by
  unfold execPv16PortsWrite
  repeat' first
    | with_reducible rfl
    | with_reducible assumption
    | simp only [refuse_sys, pvAssign_sys, outSys_done]
    | split
    | (intro _)
    | refine Eq.trans (adminWrite_sys _ _ _ ?_) ?_
    | dsimp only

theorem execHostLinkTrain_sys (p gen : Nat) (single : Bool) (s : State) :
    outSys (execHostLinkTrain p gen single s) s.sys = s.sys := by
  unfold execHostLinkTrain
  repeat' first
    | with_reducible rfl
    | with_reducible assumption
    | simp only [State_modHp_sys, devEvent_sys, claimPll_sys, outSys_next, outSys_done]
    | split
    | (intro _)
    | dsimp only

theorem execHostLinkLoss_sys (p : Nat) (s : State) :
    outSys (execHostLinkLoss p s) s.sys = s.sys := by
  unfold execHostLinkLoss
  repeat' first
    | with_reducible rfl
    | with_reducible assumption
    | simp only [State_modHp_sys, devEvent_sys, functionGone_sys, outSys_next, outSys_done]
    | split
    | (intro _)
    | refine Eq.trans (sys_foldl ?_ _ _) ?_
    | refine Eq.trans (sys_foldl_snd ?_ _ _) ?_
    | refine Eq.trans (sys_foldl_fst ?_ _ _) ?_
    | dsimp only

theorem execHostLinkRecover_sys (p : Nat) (s : State) :
    outSys (execHostLinkRecover p s) s.sys = s.sys := by
  unfold execHostLinkRecover
  repeat' first
    | with_reducible rfl
    | with_reducible assumption
    | simp only [State_modHp_sys, outSys_next]
    | split
    | (intro _)
    | dsimp only

theorem retrain_sys (s : State) (p : Nat) :
    (retrain s p).sys = s.sys := by
  unfold retrain
  repeat' first
    | with_reducible rfl
    | with_reducible assumption
    | simp only [State_modHp_sys]
    | split
    | (intro _)
    | dsimp only

theorem execHostPortRetrain_sys (w p : Nat) (s : State) :
    outSys (execHostPortRetrain w p s) s.sys = s.sys := by
  unfold execHostPortRetrain
  repeat' first
    | with_reducible rfl
    | with_reducible assumption
    | simp only [retrain_sys, outSys_done]
    | split
    | (intro _)
    | refine Eq.trans (adminWrite_sys _ _ _ ?_) ?_
    | dsimp only

theorem execClxEntryRequest_sys (p dest : Nat) (en : BitVec 3) (idle : Bool) (s : State) :
    outSys (execClxEntryRequest p dest en idle s) s.sys = s.sys := by
  unfold execClxEntryRequest
  repeat' first
    | with_reducible rfl
    | with_reducible assumption
    | simp only [State_modHp_sys, outSys_next]
    | split
    | (intro _)
    | dsimp only

theorem execClxExit_sys (p : Nat) (s : State) :
    outSys (execClxExit p s) s.sys = s.sys := by
  unfold execClxExit
  repeat' first
    | with_reducible rfl
    | with_reducible assumption
    | simp only [State_modHp_sys, claimPll_sys, outSys_next]
    | split
    | (intro _)
    | dsimp only

theorem execPcieUnsupportedRequest_sys (hh : Nat) (s : State) :
    outSys (execPcieUnsupportedRequest hh s) s.sys = s.sys := by
  unfold execPcieUnsupportedRequest
  repeat' first
    | with_reducible rfl
    | with_reducible assumption
    | simp only [State_emit_sys, outSys_next]
    | split
    | (intro _)
    | dsimp only

theorem hostAborted_sys (s : State) (hh addr : Nat) :
    (hostAborted s hh addr).sys = s.sys := by
  unfold hostAborted
  repeat' first
    | with_reducible rfl
    | with_reducible assumption
    | simp only [State_cnt0_sys, State_raise_sys]
    | split
    | (intro _)
    | dsimp only

theorem workReadFail_sys (s : State) (n : Nat) :
    (workReadFail s n).sys = s.sys := by
  unfold workReadFail
  repeat' first
    | with_reducible rfl
    | with_reducible assumption
    | simp only [State_setJob_sys, faultJob_sys, endWork_sys, endTurn_sys, hostAborted_sys]
    | split
    | (intro _)
    | dsimp only

theorem lineReadFail_sys (s : State) (k : Nat) :
    (lineReadFail s k).sys = s.sys := by
  unfold lineReadFail
  repeat' first
    | with_reducible rfl
    | with_reducible assumption
    | simp only [faultJob_sys, hostAborted_sys]
    | split
    | (intro _)
    | dsimp only

theorem ringReadFail_sys (s : State) (r : Nat) :
    (ringReadFail s r).sys = s.sys := by
  unfold ringReadFail
  repeat' first
    | with_reducible rfl
    | with_reducible assumption
    | simp only [State_setRing_sys, hostAborted_sys]
    | split
    | (intro _)
    | refine Eq.trans (ringDone_sys (by assumption)) ?_
    | dsimp only

theorem pvReadFail_sys (s : State) (k : Nat) :
    (pvReadFail s k).sys = s.sys := by
  unfold pvReadFail
  repeat' first
    | with_reducible rfl
    | with_reducible assumption
    | simp only [endJob_sys, hostAborted_sys]
    | split
    | (intro _)
    | dsimp only

theorem readFail_sys (s : State) (r : ReadBy) :
    (readFail s r).sys = s.sys := by
  unfold readFail
  repeat' first
    | with_reducible rfl
    | with_reducible assumption
    | simp only [sqReadFail_sys, workReadFail_sys, lineReadFail_sys, ringReadFail_sys, pvReadFail_sys]
    | split
    | (intro _)
    | dsimp only

theorem execDmaReadTimeout_sys (r : ReadBy) (s : State) :
    outSys (execDmaReadTimeout r s) s.sys = s.sys := by
  unfold execDmaReadTimeout
  repeat' first
    | with_reducible rfl
    | with_reducible assumption
    | simp only [readFail_sys, outSys_done]
    | split
    | (intro _)
    | dsimp only

theorem execDmaReadErrorCompletion_sys (r : ReadBy) (s : State) :
    outSys (execDmaReadErrorCompletion r s) s.sys = s.sys := by
  unfold execDmaReadErrorCompletion
  repeat' first
    | with_reducible rfl
    | with_reducible assumption
    | simp only [readFail_sys, outSys_done]
    | split
    | (intro _)
    | dsimp only

theorem execBar2DeniedAccess_sys (hh : Nat) (wr : Bool) (s : State) :
    outSys (execBar2DeniedAccess hh wr s) s.sys = s.sys := by
  unfold execBar2DeniedAccess
  repeat' first
    | with_reducible rfl
    | with_reducible assumption
    | simp only [State_cnt2_sys, outSys_next]
    | split
    | (intro _)
    | dsimp only

theorem execPartialDwordWrite_sys (hh : Nat) (s : State) :
    outSys (execPartialDwordWrite hh s) s.sys = s.sys := by
  unfold execPartialDwordWrite
  repeat' first
    | with_reducible rfl
    | with_reducible assumption
    | simp only [State_cnt2_sys, outSys_next]
    | split
    | (intro _)
    | dsimp only

theorem jobFaulted_sys (s : State) (k : Nat) (x : Ctx) (status : Nat) (result : DWord) :
    (jobFaulted s k x status result).sys = s.sys := by
  unfold jobFaulted
  repeat' first
    | with_reducible rfl
    | with_reducible assumption
    | simp only [State_w2_sys, State_cnt2_sys, State_cnt0_sys, State_raise_sys]
    | split
    | (intro _)
    | dsimp only

theorem freeCtx_sys (s : State) (k : Nat) :
    (freeCtx s k).sys = s.sys := by
  unfold freeCtx
  repeat' first
    | with_reducible rfl
    | with_reducible assumption
    | simp only [releaseCtx_sys, State_setJob_sys, unwait_sys]
    | split
    | (intro _)
    | dsimp only

theorem postFinal_sys {s : State} {f c : Nat} {x : Ctx} {st : Nat} {r : DWord} {tq : State}
    (h : (postFinal s f c x st r) = some tq) :
    tq.sys = s.sys := by
  revert h
  unfold postFinal
  repeat' first
    | with_reducible rfl
    | with_reducible assumption
    | split
    | (intro h1; cases h1)
    | (intro _)
    | refine Eq.trans (cqPost_sys (by assumption)) ?_
    | refine Eq.trans (pvPost_sys (by assumption)) ?_
    | dsimp only

theorem pvRelease_sys (s : State) (x : Ctx) :
    (pvRelease s x).sys = s.sys := by
  unfold pvRelease
  repeat' first
    | with_reducible rfl
    | with_reducible assumption
    | simp only [freeSlot_sys, State_modBuf_sys, reapBuf_sys]
    | split
    | (intro _)
    | dsimp only

theorem execJobFinalCompletion_sys (f c : Nat) (s : State) :
    outSys (execJobFinalCompletion f c s) s.sys = s.sys := by
  unfold execJobFinalCompletion
  repeat' first
    | with_reducible rfl
    | with_reducible assumption
    | simp only [State_addq0_sys, State_emit_sys, State_setCtx_sys, jobFaulted_sys, freeCtx_sys, pvRelease_sys, State_takeFree_sys2, outSys_next, outSys_done]
    | split
    | (intro _)
    | refine Eq.trans (State_takeFree_sys (by assumption)) ?_
    | refine Eq.trans (postFinal_sys (by assumption)) ?_
    | dsimp only

theorem jumpTo_sys (s : State) (k : Nat) (x : Ctx) (t : Nat) :
    (jumpTo s k x t).sys = s.sys := by
  unfold jumpTo
  repeat' first
    | with_reducible rfl
    | with_reducible assumption
    | simp only [State_setCtx_sys, faultJob_sys]
    | split
    | (intro _)
    | dsimp only

theorem execNop_sys (f c : Nat) (s : State) :
    outSys (execNop f c s) s.sys = s.sys := by
  unfold execNop
  repeat' first
    | with_reducible rfl
    | with_reducible assumption
    | simp only [issueCtx_sys, outSys_next]
    | split
    | (intro _)
    | dsimp only

theorem execBr_sys (f c : Nat) (s : State) :
    outSys (execBr f c s) s.sys = s.sys := by
  unfold execBr
  repeat' first
    | with_reducible rfl
    | with_reducible assumption
    | simp only [State_setCtx_sys, faultJob_sys, jumpTo_sys, outSys_next]
    | split
    | (intro _)
    | refine Eq.trans (issue_sys _ _ _ _ _ _ ?_) ?_
    | dsimp only

theorem execCall_sys (f c : Nat) (s : State) :
    outSys (execCall f c s) s.sys = s.sys := by
  unfold execCall
  repeat' first
    | with_reducible rfl
    | with_reducible assumption
    | simp only [State_setCtx_sys, faultJob_sys, outSys_next]
    | split
    | (intro _)
    | refine Eq.trans (issue_sys _ _ _ _ _ _ ?_) ?_
    | dsimp only

theorem execRet_sys (f c : Nat) (s : State) :
    outSys (execRet f c s) s.sys = s.sys := by
  unfold execRet
  repeat' first
    | with_reducible rfl
    | with_reducible assumption
    | simp only [State_setCtx_sys, faultJob_sys, outSys_next]
    | split
    | (intro _)
    | refine Eq.trans (issue_sys _ _ _ _ _ _ ?_) ?_
    | dsimp only

theorem execEnd_sys (f c : Nat) (s : State) :
    outSys (execEnd f c s) s.sys = s.sys := by
  unfold execEnd
  repeat' first
    | with_reducible rfl
    | with_reducible assumption
    | simp only [endJob_sys, State_takeFree_sys2, outSys_next]
    | split
    | (intro _)
    | refine Eq.trans (issue_sys _ _ _ _ _ _ ?_) ?_
    | refine Eq.trans (State_takeFree_sys (by assumption)) ?_
    | dsimp only

theorem execSleep_sys (f c : Nat) (s : State) :
    outSys (execSleep f c s) s.sys = s.sys := by
  unfold execSleep
  repeat' first
    | with_reducible rfl
    | with_reducible assumption
    | simp only [State_setCtx_sys, outSys_next]
    | split
    | (intro _)
    | refine Eq.trans (issue_sys _ _ _ _ _ _ ?_) ?_
    | dsimp only

theorem execSleepWake_sys (f c : Nat) (s : State) :
    outSys (execSleepWake f c s) s.sys = s.sys := by
  unfold execSleepWake
  repeat' first
    | with_reducible rfl
    | with_reducible assumption
    | simp only [State_setCtx_sys, outSys_next]
    | split
    | (intro _)
    | dsimp only

theorem State_setDrm_sys (s : State) (d : Drm) :
    (State.setDrm s d).sys = s.sys := by
  unfold State.setDrm
  repeat' first
    | with_reducible rfl
    | with_reducible assumption
    | split
    | (intro _)
    | dsimp only

theorem drcEvent_sys (s : State) (b : Nat) :
    (drcEvent s b).sys = s.sys := by
  unfold drcEvent
  repeat' first
    | with_reducible rfl
    | with_reducible assumption
    | simp only [devEvent_sys]
    | split
    | (intro _)
    | dsimp only

theorem diag_sys (s : State) (crit : Bool) (a : Nat) (l : Loc) (r : DramIn) :
    (diag s crit a l r).sys = s.sys := by
  unfold diag
  repeat' first
    | with_reducible rfl
    | with_reducible assumption
    | simp only [State_w2_sys, State_wq2_sys]
    | split
    | (intro _)
    | refine Eq.trans (issue_sys _ _ _ _ _ _ ?_) ?_
    | dsimp only

theorem freeze_sys (s : State) (a : Nat) (l : Loc) (r : DramIn) :
    (freeze s a l r).sys = s.sys := by
  unfold freeze
  repeat' first
    | with_reducible rfl
    | with_reducible assumption
    | simp only [State_raise_sys, setCause_sys, State_setDrm_sys, drcEvent_sys, diag_sys]
    | split
    | (intro _)
    | dsimp only

theorem poisonBurst_sys (s : State) (a : Nat) (l : Loc) (r : DramIn) :
    (poisonBurst s a l r).sys = s.sys := by
  unfold poisonBurst
  repeat' first
    | with_reducible rfl
    | with_reducible assumption
    | simp only [State_cnt2_sys, State_raise_sys, State_setDrm_sys, drcEvent_sys, diag_sys]
    | split
    | (intro _)
    | dsimp only

theorem openRow_sys (s : State) (l : Loc) :
    (openRow s l).sys = s.sys := by
  unfold openRow
  repeat' first
    | with_reducible rfl
    | with_reducible assumption
    | simp only [State_setDrm_sys]
    | split
    | (intro _)
    | dsimp only

theorem dramRead_sys (s : State) (a : Nat) (r : DramIn) :
    (dramRead s a r).sys = s.sys := by
  unfold dramRead
  repeat' first
    | with_reducible rfl
    | with_reducible assumption
    | simp only [State_cnt2_sys, State_raise_sys, drcEvent_sys, freeze_sys, poisonBurst_sys, openRow_sys]
    | split
    | (intro _)
    | dsimp only

theorem atBurst_sys (s : State) (a : Nat) (g : State)
    (hg_ : g.sys = s.sys) :
    outSys (atBurst s a g) s.sys = s.sys := by
  unfold atBurst
  repeat' first
    | with_reducible rfl
    | with_reducible assumption
    | simp only [outSys_next, outSys_fault, outSys_done]
    | split
    | (intro _)
    | exact hg_
    | dsimp only

theorem execDramReadReturn_sys (a : Nat) (r : DramIn) (s : State) :
    outSys (execDramReadReturn a r s) s.sys = s.sys := by
  unfold execDramReadReturn
  repeat' first
    | with_reducible rfl
    | with_reducible assumption
    | simp only [dramRead_sys]
    | split
    | (intro _)
    | refine Eq.trans (atBurst_sys _ _ _ ?_) ?_
    | dsimp only

theorem execScrubBurst_sys (a : Nat) (r : DramIn) (s : State) :
    outSys (execScrubBurst a r s) s.sys = s.sys := by
  unfold execScrubBurst
  repeat' first
    | with_reducible rfl
    | with_reducible assumption
    | simp only [dramRead_sys]
    | split
    | (intro _)
    | refine Eq.trans (atBurst_sys _ _ _ ?_) ?_
    | dsimp only

theorem execCommandCheckError_sys (a : Option Nat) (ch : Nat) (r : DramIn) (s : State) :
    outSys (execCommandCheckError a ch r s) s.sys = s.sys := by
  unfold execCommandCheckError
  repeat' first
    | with_reducible rfl
    | with_reducible assumption
    | simp only [freeze_sys, poisonBurst_sys, outSys_next, outSys_done]
    | split
    | (intro _)
    | refine Eq.trans (atBurst_sys _ _ _ ?_) ?_
    | dsimp only

theorem lostBurst_sys (s : State) (a : Nat) :
    (lostBurst s a).sys = s.sys := by
  unfold lostBurst
  repeat' first
    | with_reducible rfl
    | with_reducible assumption
    | simp only [State_setDrm_sys, freeBytes_sys2]
    | split
    | (intro _)
    | refine Eq.trans (freeBytes_sys (by assumption)) ?_
    | dsimp only

theorem execWriteLinkEccError_sys (a : Option Nat) (ch : Nat) (r : DramIn) (s : State) :
    outSys (execWriteLinkEccError a ch r s) s.sys = s.sys := by
  unfold execWriteLinkEccError
  repeat' first
    | with_reducible rfl
    | with_reducible assumption
    | simp only [freeze_sys, lostBurst_sys, outSys_next, outSys_done]
    | split
    | (intro _)
    | refine Eq.trans (atBurst_sys _ _ _ ?_) ?_
    | dsimp only

theorem execRefreshDue_sys (ch rk : Nat) (banks busy : List Nat) (s : State) :
    outSys (execRefreshDue ch rk banks busy s) s.sys = s.sys := by
  unfold execRefreshDue
  repeat' first
    | with_reducible rfl
    | with_reducible assumption
    | simp only [State_cnt2_sys, State_setDrm_sys, drcEvent_sys, outSys_next, outSys_done]
    | split
    | (intro _)
    | refine Eq.trans (sys_foldl ?_ _ _) ?_
    | refine Eq.trans (sys_foldl_snd ?_ _ _) ?_
    | refine Eq.trans (sys_foldl_fst ?_ _ _) ?_
    | dsimp only

theorem execMr4Poll_sys (ch rk v : Nat) (s : State) :
    outSys (execMr4Poll ch rk v s) s.sys = s.sys := by
  unfold execMr4Poll
  repeat' first
    | with_reducible rfl
    | with_reducible assumption
    | simp only [State_setDrm_sys, outSys_next]
    | split
    | (intro _)
    | dsimp only

theorem execRankPowerDown_sys (ch rk : Nat) (s : State) :
    outSys (execRankPowerDown ch rk s) s.sys = s.sys := by
  unfold execRankPowerDown
  repeat' first
    | with_reducible rfl
    | with_reducible assumption
    | simp only [State_setDrm_sys, outSys_next]
    | split
    | (intro _)
    | dsimp only

theorem execDramRetrainStart_sys (ch : Nat) (temp : Int) (s : State) :
    outSys (execDramRetrainStart ch temp s) s.sys = s.sys := by
  unfold execDramRetrainStart
  repeat' first
    | with_reducible rfl
    | with_reducible assumption
    | simp only [State_setDrm_sys, outSys_next]
    | split
    | (intro _)
    | dsimp only

theorem execDramRetrainDone_sys (ok : Bool) (temp : Int) (s : State) :
    outSys (execDramRetrainDone ok temp s) s.sys = s.sys := by
  unfold execDramRetrainDone
  repeat' first
    | with_reducible rfl
    | with_reducible assumption
    | simp only [State_put2_sys, State_raise_sys, State_setYoke_sys, State_setDrm_sys, drcEvent_sys, outSys_next, outSys_done]
    | split
    | (intro _)
    | dsimp only

theorem execGranuleZeroDone_sys (hh g d : Nat) (s : State) :
    outSys (execGranuleZeroDone hh g d s) s.sys = s.sys := by
  unfold execGranuleZeroDone
  repeat' first
    | with_reducible rfl
    | with_reducible assumption
    | simp only [State_setDrm_sys, outSys_next]
    | split
    | (intro _)
    | dsimp only

theorem execDrcDiagRelease_sys (w : Nat) (s : State) :
    outSys (execDrcDiagRelease w s) s.sys = s.sys := by
  unfold execDrcDiagRelease
  repeat' first
    | with_reducible rfl
    | with_reducible assumption
    | simp only [State_put2_sys, outSys_done]
    | split
    | (intro _)
    | refine Eq.trans (adminWrite_sys _ _ _ ?_) ?_
    | dsimp only

theorem execGrnSpillWrite_sys (w : Nat) (v : Word) (s : State) :
    outSys (execGrnSpillWrite w v s) s.sys = s.sys := by
  unfold execGrnSpillWrite
  repeat' first
    | with_reducible rfl
    | with_reducible assumption
    | simp only [State_put2_sys, devEvent_sys, outSys_done]
    | split
    | (intro _)
    | refine Eq.trans (adminWrite_sys _ _ _ ?_) ?_
    | dsimp only

end Sys2Proof.Machine
end

