-- ==== Sys2Proof/Laws/Fuse6.lean ====
section
/-! SUPPORT. What leaves fuses alone, part 6: the fuses and the boot state stay through the operations of: Faults,
Fields, Pv16, Stats, YokeInstr. One lemma per function. -/

set_option linter.unusedSimpArgs false
set_option linter.unusedVariables false

namespace Sys2Proof.Machine

open State

theorem execFcSevWrite_sys (w n : Nat) (v : Word) (s : State) :
    outSys (execFcSevWrite w n v s) s.sys = s.sys := by
  unfold execFcSevWrite
  repeat' first
    | with_reducible rfl
    | with_reducible assumption
    | simp only [State_setFlt_sys, outSys_done]
    | split
    | (intro _)
    | refine Eq.trans (adminWrite_sys _ _ _ ?_) ?_
    | dsimp only

theorem clearStatus_sys (s : State) (n : Nat) :
    (clearStatus s n).sys = s.sys := by
  unfold clearStatus
  repeat' first
    | with_reducible rfl
    | with_reducible assumption
    | simp only [State_cnt2_sys, State_setFlt_sys]
    | split
    | (intro _)
    | dsimp only

theorem execFcStatusClear_sys (w i : Nat) (v : Word) (s : State) :
    outSys (execFcStatusClear w i v s) s.sys = s.sys := by
  unfold execFcStatusClear
  repeat' first
    | with_reducible rfl
    | with_reducible assumption
    | simp only [clearStatus_sys, outSys_done]
    | split
    | (intro h1; obtain ⟨rfl, rfl⟩ := Prod.mk.inj h1)
    | (intro h1; obtain rfl := Option.some.inj h1)
    | (intro _)
    | refine Eq.trans (sys_foldl ?_ _ _) ?_
    | refine Eq.trans (sys_foldl_snd ?_ _ _) ?_
    | refine Eq.trans (sys_foldl_fst ?_ _ _) ?_
    | refine Eq.trans (adminWrite_sys _ _ _ ?_) ?_
    | dsimp only

theorem execFcThresholdWrite_sys (w : Nat) (v : Word) (s : State) :
    outSys (execFcThresholdWrite w v s) s.sys = s.sys := by
  unfold execFcThresholdWrite
  repeat' first
    | with_reducible rfl
    | with_reducible assumption
    | simp only [State_put2_sys, outSys_done]
    | split
    | (intro _)
    | refine Eq.trans (adminWrite_sys _ _ _ ?_) ?_
    | dsimp only

theorem leaveSafe_sys (s : State) :
    (leaveSafe s).sys = s.sys := by
  unfold leaveSafe
  repeat' first
    | with_reducible rfl
    | with_reducible assumption
    | simp only [State_modFs_sys, teardownStart_sys, State_setFlt_sys, cutPictures_sys]
    | split
    | (intro _)
    | refine Eq.trans (sys_foldl ?_ _ _) ?_
    | refine Eq.trans (sys_foldl_snd ?_ _ _) ?_
    | refine Eq.trans (sys_foldl_fst ?_ _ _) ?_
    | dsimp only

theorem resume_sys (s : State) :
    (resume s).sys = s.sys := by
  unfold resume
  repeat' first
    | with_reducible rfl
    | with_reducible assumption
    | simp only [State_cnt2_sys, leaveSafe_sys]
    | split
    | (intro _)
    | dsimp only

theorem execFcResume_sys (w : Nat) (s : State) :
    outSys (execFcResume w s) s.sys = s.sys := by
  unfold execFcResume
  repeat' first
    | with_reducible rfl
    | with_reducible assumption
    | simp only [resume_sys, outSys_done]
    | split
    | (intro _)
    | refine Eq.trans (adminWrite_sys _ _ _ ?_) ?_
    | dsimp only

theorem ffClear_sys (s : State) :
    (ffClear s).sys = s.sys := by
  unfold ffClear
  repeat' first
    | with_reducible rfl
    | with_reducible assumption
    | simp only [State_setFlt_sys]
    | split
    | (intro _)
    | dsimp only

theorem execFcFfClear_sys (w : Nat) (s : State) :
    outSys (execFcFfClear w s) s.sys = s.sys := by
  unfold execFcFfClear
  repeat' first
    | with_reducible rfl
    | with_reducible assumption
    | simp only [ffClear_sys, outSys_done]
    | split
    | (intro _)
    | refine Eq.trans (adminWrite_sys _ _ _ ?_) ?_
    | dsimp only

theorem execFcSelfMismatch_sys (s : State) :
    outSys (execFcSelfMismatch s) s.sys = s.sys := by
  unfold execFcSelfMismatch
  repeat' first
    | with_reducible rfl
    | with_reducible assumption
    | simp only [State_raise_sys, setCause_sys, State_setFlt_sys, enterSafe_sys, outSys_done]
    | split
    | (intro _)
    | dsimp only

theorem execChnLatClr_sys (hh : Nat) (s : State) :
    outSys (execChnLatClr hh s) s.sys = s.sys := by
  unfold execChnLatClr
  repeat' first
    | with_reducible rfl
    | with_reducible assumption
    | simp only [State_wch_sys, outSys_next]
    | split
    | (intro _)
    | dsimp only

theorem fieldDisable_sys (s : State) (f : Nat) :
    (fieldDisable s f).sys = s.sys := by
  unfold fieldDisable
  repeat' first
    | with_reducible rfl
    | with_reducible assumption
    | simp only [State_put2_sys, State_modFs_sys]
    | split
    | (intro _)
    | dsimp only

theorem fieldEnable_sys (s : State) (f : Nat) :
    (fieldEnable s f).sys = s.sys := by
  unfold fieldEnable
  repeat' first
    | with_reducible rfl
    | with_reducible assumption
    | simp only [State_put2_sys, State_modFs_sys]
    | split
    | (intro _)
    | dsimp only

theorem execFieldEnable_sys (w f : Nat) (s : State) :
    outSys (execFieldEnable w f s) s.sys = s.sys := by
  unfold execFieldEnable
  repeat' first
    | with_reducible rfl
    | with_reducible assumption
    | simp only [fieldEnable_sys, outSys_done]
    | split
    | (intro _)
    | refine Eq.trans (adminWrite_sys _ _ _ ?_) ?_
    | dsimp only

theorem execFieldDisable_sys (w f : Nat) (s : State) :
    outSys (execFieldDisable w f s) s.sys = s.sys := by
  unfold execFieldDisable
  repeat' first
    | with_reducible rfl
    | with_reducible assumption
    | simp only [fieldDisable_sys, outSys_done]
    | split
    | (intro _)
    | refine Eq.trans (adminWrite_sys _ _ _ ?_) ?_
    | dsimp only

theorem execFieldDrainDone_sys (f : Nat) (s : State) :
    outSys (execFieldDrainDone f s) s.sys = s.sys := by
  unfold execFieldDrainDone
  repeat' first
    | with_reducible rfl
    | with_reducible assumption
    | simp only [State_modFs_sys, devEvent_sys, outSys_next, outSys_done]
    | split
    | (intro _)
    | dsimp only

theorem execPvRun_sys (hh : Nat) (run : Bool) (s : State) :
    outSys (execPvRun hh run s) s.sys = s.sys := by
  unfold execPvRun
  repeat' first
    | with_reducible rfl
    | with_reducible assumption
    | simp only [State_put0_sys, outSys_next]
    | split
    | (intro _)
    | dsimp only

theorem execPvReset_sys (hh : Nat) (s : State) :
    outSys (execPvReset hh s) s.sys = s.sys := by
  unfold execPvReset
  repeat' first
    | with_reducible rfl
    | with_reducible assumption
    | simp only [teardownStart_sys, outSys_next, outSys_done]
    | split
    | (intro _)
    | dsimp only

theorem execPvSqTailWrite_sys (hh q : Nat) (v : Word) (s : State) :
    outSys (execPvSqTailWrite hh q v s) s.sys = s.sys := by
  unfold execPvSqTailWrite
  repeat' first
    | with_reducible rfl
    | with_reducible assumption
    | simp only [State_setPvq_sys, outSys_next]
    | split
    | (intro _)
    | dsimp only

theorem execPvCqHeadWrite_sys (hh : Nat) (v : Word) (s : State) :
    outSys (execPvCqHeadWrite hh v s) s.sys = s.sys := by
  unfold execPvCqHeadWrite
  repeat' first
    | with_reducible rfl
    | with_reducible assumption
    | simp only [State_setPvq_sys, pvDrain_sys, outSys_next, outSys_done]
    | split
    | (intro _)
    | dsimp only

theorem pvPlace_sys (s : State) (hh q f : Nat) (d : List Word) :
    (pvPlace s hh q f d).sys = s.sys := by
  unfold pvPlace
  repeat' first
    | with_reducible rfl
    | with_reducible assumption
    | simp only [State_setCtx_sys, stopIdleTest_sys, askBase_sys]
    | split
    | (intro _)
    | dsimp only

theorem execPvDescriptorTake_sys (hh : Nat) (d : List Word) (s : State) :
    outSys (execPvDescriptorTake hh d s) s.sys = s.sys := by
  unfold execPvDescriptorTake
  repeat' first
    | with_reducible rfl
    | with_reducible assumption
    | simp only [State_setPvq_sys, pvPlace_sys, outSys_next, outSys_done]
    | split
    | (intro _)
    | dsimp only

theorem pvStep_sys (op f c : Nat) (s : State) (body : State → Nat → Ctx → PvJob → State)
    (hbody : ∀ x0 x1 x2 x3, x0.sys = s.sys → (body x0 x1 x2 x3).sys = s.sys) :
    outSys (pvStep op f c s body) s.sys = s.sys := by
  unfold pvStep
  repeat' first
    | with_reducible rfl
    | with_reducible assumption
    | simp only [outSys_next, outSys_done]
    | split
    | (intro _)
    | refine hbody _ _ _ _ ?_
    | dsimp only

theorem pvFinish_sys (s : State) (k : Nat) (j : PvJob) (st result : Nat) (pic : Word) (flags : Nat) :
    (pvFinish s k j st result pic flags).sys = s.sys := by
  unfold pvFinish
  repeat' first
    | with_reducible rfl
    | with_reducible assumption
    | simp only [State_modCtx_sys, endJob_sys]
    | split
    | (intro _)
    | dsimp only

theorem pvStop_sys (s : State) (k : Nat) (j : PvJob) (st : Nat) :
    (pvStop s k j st).sys = s.sys := by
  unfold pvStop
  repeat' first
    | with_reducible rfl
    | with_reducible assumption
    | simp only [pvFinish_sys]
    | split
    | (intro _)
    | dsimp only

theorem pvFault_sys (s : State) (k st : Nat) :
    (pvFault s k st).sys = s.sys := by
  unfold pvFault
  repeat' first
    | with_reducible rfl
    | with_reducible assumption
    | simp only [faultAt_sys]
    | split
    | (intro _)
    | dsimp only

theorem onChan_sys (s : State) (k : Nat) (x : Ctx) (j : PvJob) (body : Nat → Chan → State)
    (hbody : ∀ x0 x1, (body x0 x1).sys = s.sys) :
    (onChan s k x j body).sys = s.sys := by
  unfold onChan
  repeat' first
    | with_reducible rfl
    | with_reducible assumption
    | simp only [pvStop_sys]
    | split
    | (intro _)
    | exact hbody ..
    | dsimp only

theorem execPvNop_sys (f c : Nat) (s : State) :
    outSys (execPvNop f c s) s.sys = s.sys := by
  unfold execPvNop
  repeat' first
    | with_reducible rfl
    | with_reducible assumption
    | simp only [pvStop_sys]
    | split
    | (intro _)
    | refine Eq.trans (pvStep_sys _ _ _ _ _ ?_) ?_
    | dsimp only

theorem pvRx_sys {s : State} {hh q c : Nat} {b : Blk} {tq : State}
    (h : (pvRx s hh q c b) = .ok tq) :
    tq.sys = s.sys := by
  unfold pvRx at h
  split at h
  · cases h; rfl
  · dsimp only at h
    split at h
    · cases h
    · split at h
      · cases h; exact bindIngest_sys (by assumption)
      · cases h

theorem freeBelow_sys {s : State} {n : Nat} {v0} {tq : State}
    (h : (freeBelow s n) = (v0, tq)) :
    tq.sys = s.sys := by
  revert h
  unfold freeBelow
  repeat' first
    | with_reducible rfl
    | with_reducible assumption
    | simp only [State_takeFree_sys2]
    | split
    | (intro h1; cases h1)
    | (intro _)
    | refine Eq.trans (State_takeFree_sys (by assumption)) ?_
    | dsimp only

theorem freeBelow_sys2 (s : State) (n : Nat) :
    (freeBelow s n).2.sys = s.sys := by
  rcases hq : (freeBelow s n) with ⟨v0, tq⟩; exact freeBelow_sys  hq

theorem pvEflow_sys {s : State} {hh q c : Nat} {b : Blk} {v0} {tq : State}
    (h : (pvEflow s hh q c b) = (v0, tq)) :
    tq.sys = s.sys := by
  revert h
  unfold pvEflow
  repeat' first
    | with_reducible rfl
    | with_reducible assumption
    | simp only [freeBelow_sys2]
    | split
    | (intro h1; cases h1)
    | (intro _)
    | refine Eq.trans (freeBelow_sys (by assumption)) ?_
    | dsimp only

theorem pvEflow_sys2 (s : State) (hh q c : Nat) (b : Blk) :
    (pvEflow s hh q c b).2.sys = s.sys := by
  rcases hq : (pvEflow s hh q c b) with ⟨v0, tq⟩; exact pvEflow_sys  hq

theorem pvTx_sys {s : State} {hh q c : Nat} {b : Blk} {tq : State}
    (h : (pvTx s hh q c b) = .ok tq) :
    tq.sys = s.sys := by
  revert h
  unfold pvTx
  repeat' first
    | with_reducible rfl
    | with_reducible assumption
    | simp only [writeDev_sys, freeBelow_sys2, pvEflow_sys2]
    | split
    | (intro h1; cases h1)
    | (intro _)
    | refine Eq.trans (bindEgress_sys (by assumption)) ?_
    | refine Eq.trans (freeBelow_sys (by assumption)) ?_
    | refine Eq.trans (pvEflow_sys (by assumption)) ?_
    | dsimp only

theorem pvOpen_sys {s : State} {hh q f : Nat} {b : Blk} {tq : State}
    (h : (pvOpen s hh q f b) = .ok tq) :
    tq.sys = s.sys := by
  unfold pvOpen at h
  generalize ho : openChannel s hh b f _ = o at h
  obtain ⟨o1, s1⟩ := o
  have h1 := openChannel_sys ho
  cases o1 with
  | none => cases h
  | some c =>
    dsimp only at h
    generalize hx : pvRx s1 hh q c.1 b = x at h
    cases x with
    | error e => cases h
    | ok s2 =>
      have h2 := pvRx_sys hx
      dsimp only at h
      have h3 := pvTx_sys h
      exact h3.trans (h2.trans h1)

theorem execPvOpen_sys (f c : Nat) (s : State) :
    outSys (execPvOpen f c s) s.sys = s.sys := by
  unfold execPvOpen
  repeat' first
    | with_reducible rfl
    | with_reducible assumption
    | simp only [pvStop_sys, pvFault_sys]
    | split
    | (intro _)
    | refine Eq.trans (pvStep_sys _ _ _ _ _ ?_) ?_
    | refine Eq.trans (pvOpen_sys (by assumption)) ?_
    | dsimp only

theorem execPvClose_sys (f c : Nat) (s : State) :
    outSys (execPvClose f c s) s.sys = s.sys := by
  unfold execPvClose
  repeat' first
    | with_reducible rfl
    | with_reducible assumption
    | simp only [drainChannel_sys, pvStop_sys]
    | split
    | (intro _)
    | refine Eq.trans (pvStep_sys _ _ _ _ _ ?_) ?_
    | refine Eq.trans (onChan_sys _ _ _ _ _ ?_) ?_
    | dsimp only

theorem pvCommit_sys {s : State} {hh n : Nat} {y : Chan} {bs : List Byte} {tq : State}
    (h : (pvCommit s hh n y bs) = some tq) :
    tq.sys = s.sys := by
  revert h
  unfold pvCommit
  repeat' first
    | with_reducible rfl
    | with_reducible assumption
    | simp only [State_setFifo_sys]
    | split
    | (intro h1; cases h1)
    | (intro _)
    | refine Eq.trans (allocChain_sys (by assumption)) ?_
    | refine Eq.trans (commitPending_sys (by assumption)) ?_
    | dsimp only

theorem execPvBsIn_sys (f c : Nat) (m : MoveIn) (s : State) :
    outSys (execPvBsIn f c m s) s.sys = s.sys := by
  unfold execPvBsIn
  repeat' first
    | with_reducible rfl
    | with_reducible assumption
    | simp only [countDma_sys, pvFinish_sys, pvStop_sys]
    | split
    | (intro _)
    | refine Eq.trans (pvStep_sys _ _ _ _ _ ?_) ?_
    | refine Eq.trans (onChan_sys _ _ _ _ _ ?_) ?_
    | refine Eq.trans (pvCommit_sys (by assumption)) ?_
    | dsimp only

theorem execPvBsOut_sys (f c : Nat) (s : State) :
    outSys (execPvBsOut f c s) s.sys = s.sys := by
  unfold execPvBsOut
  repeat' first
    | with_reducible rfl
    | with_reducible assumption
    | simp only [State_emit_sys, State_setFifo_sys, dropItems_sys, State_modCtx_sys, countDma_sys, pvFinish_sys, pvStop_sys]
    | split
    | (intro _)
    | refine Eq.trans (pvStep_sys _ _ _ _ _ ?_) ?_
    | refine Eq.trans (onChan_sys _ _ _ _ _ ?_) ?_
    | dsimp only

theorem pvEngine_sys (m : Nat) (live : Bool) (s : State) (k : Nat) (x : Ctx) (body : State)
    (hbody_ : body.sys = s.sys) :
    (pvEngine m live s k x body).sys = s.sys := by
  unfold pvEngine
  repeat' first
    | with_reducible rfl
    | with_reducible assumption
    | simp only [askGrant_sys, State_modCtx_sys, pvFault_sys]
    | split
    | (intro _)
    | exact hbody_
    | dsimp only

theorem pvWork_sys (s : State) (k : Nat) (x : Ctx) (j : PvJob) (w : Work) :
    (pvWork s k x j w).sys = s.sys := by
  unfold pvWork
  repeat' first
    | with_reducible rfl
    | with_reducible assumption
    | simp only [State_setJob_sys, State_modCtx_sys, countIssue_sys]
    | split
    | (intro _)
    | dsimp only

theorem pvDec_sys (s : State) (k : Nat) (x : Ctx) (j : PvJob) (n : Nat) (y : Chan) :
    (pvDec s k x j n y).sys = s.sys := by
  unfold pvDec
  repeat' first
    | with_reducible rfl
    | with_reducible assumption
    | simp only [reachChan_sys, pvStop_sys, pvFault_sys, pvWork_sys]
    | split
    | (intro _)
    | refine Eq.trans (pvEngine_sys _ _ _ _ _ _ ?_) ?_
    | refine Eq.trans (addEmpty_sys (by assumption)) ?_
    | dsimp only

theorem pvEnc_sys (s : State) (k : Nat) (x : Ctx) (j : PvJob) (n : Nat) (y : Chan) (p : Nat) :
    (pvEnc s k x j n y p).sys = s.sys := by
  unfold pvEnc
  repeat' first
    | with_reducible rfl
    | with_reducible assumption
    | simp only [State_setChan_sys, reachChan_sys, pvStop_sys, pvFault_sys, pvWork_sys]
    | split
    | (intro _)
    | refine Eq.trans (pvEngine_sys _ _ _ _ _ _ ?_) ?_
    | dsimp only

theorem pvPack_sys (inn : Bool) (d : Nat) (s : State) (k : Nat) (x : Ctx) (j : PvJob) (p : Nat) (b : Buf) :
    (pvPack inn d s k x j p b).sys = s.sys := by
  unfold pvPack
  repeat' first
    | with_reducible rfl
    | with_reducible assumption
    | simp only [pvStop_sys, pvFault_sys, pvWork_sys]
    | split
    | (intro _)
    | dsimp only

theorem afterDec_sys (s : State) (k : Nat) (x : Ctx) (j : PvJob) (body : Ctx → PvJob → Nat → Buf → State)
    (hbody : ∀ x0 x1 x2 x3, (body x0 x1 x2 x3).sys = s.sys) :
    (afterDec s k x j body).sys = s.sys := by
  unfold afterDec
  repeat' first
    | with_reducible rfl
    | with_reducible assumption
    | simp only [pvStop_sys]
    | split
    | (intro _)
    | exact hbody ..
    | dsimp only

theorem execPvDecode_sys (f c : Nat) (s : State) :
    outSys (execPvDecode f c s) s.sys = s.sys := by
  unfold execPvDecode
  repeat' first
    | with_reducible rfl
    | with_reducible assumption
    | simp only [pvFinish_sys, pvStop_sys, pvDec_sys, pvPack_sys]
    | split
    | (intro _)
    | refine Eq.trans (pvStep_sys _ _ _ _ _ ?_) ?_
    | refine Eq.trans (onChan_sys _ _ _ _ _ ?_) ?_
    | refine Eq.trans (afterDec_sys _ _ _ _ _ ?_) ?_
    | dsimp only

theorem pvAlloc_sys (s : State) (k : Nat) (x : Ctx) (j : PvJob) (n : Nat) (y : Chan) (body : State → Ctx → Nat → Buf → State)
    (hbody : ∀ x0 x1 x2 x3, x0.sys = s.sys → (body x0 x1 x2 x3).sys = s.sys) :
    (pvAlloc s k x j n y body).sys = s.sys := by
  unfold pvAlloc
  repeat' first
    | with_reducible rfl
    | with_reducible assumption
    | simp only [State_modBuf_sys, poolShort_sys, pvStop_sys]
    | split
    | (intro _)
    | refine hbody _ _ _ _ ?_
    | refine Eq.trans (newHandle_sys (by assumption)) ?_
    | dsimp only

theorem execPvEncode_sys (f c : Nat) (s : State) :
    outSys (execPvEncode f c s) s.sys = s.sys := by
  unfold execPvEncode
  repeat' first
    | with_reducible rfl
    | with_reducible assumption
    | simp only [pvFinish_sys, pvStop_sys, pvFault_sys, pvEnc_sys, pvPack_sys]
    | split
    | (intro _)
    | refine Eq.trans (pvStep_sys _ _ _ _ _ ?_) ?_
    | refine Eq.trans (onChan_sys _ _ _ _ _ ?_) ?_
    | refine Eq.trans (pvEngine_sys _ _ _ _ _ _ ?_) ?_
    | refine Eq.trans (pvAlloc_sys _ _ _ _ _ _ _ ?_) ?_
    | dsimp only

theorem execPvXcode_sys (f c : Nat) (s : State) :
    outSys (execPvXcode f c s) s.sys = s.sys := by
  unfold execPvXcode
  repeat' first
    | with_reducible rfl
    | with_reducible assumption
    | simp only [pvFinish_sys, pvFault_sys, pvDec_sys, pvEnc_sys]
    | split
    | (intro _)
    | refine Eq.trans (pvStep_sys _ _ _ _ _ ?_) ?_
    | refine Eq.trans (onChan_sys _ _ _ _ _ ?_) ?_
    | refine Eq.trans (afterDec_sys _ _ _ _ _ ?_) ?_
    | dsimp only

theorem pvComplete_sys (s : State) (hh b : Nat) :
    (pvComplete s hh b).sys = s.sys := by
  unfold pvComplete
  repeat' first
    | with_reducible rfl
    | with_reducible assumption
    | simp only [State_modHd_sys, State_setSrc_sys]
    | split
    | (intro _)
    | dsimp only

theorem execPvIntStatusClear_sys (hh : Nat) (v : Word) (s : State) :
    outSys (execPvIntStatusClear hh v s) s.sys = s.sys := by
  unfold execPvIntStatusClear
  repeat' first
    | with_reducible rfl
    | with_reducible assumption
    | simp only [State_w0_sys, pvComplete_sys, outSys_next, outSys_done]
    | split
    | (intro _)
    | refine Eq.trans (sys_foldl ?_ _ _) ?_
    | refine Eq.trans (sys_foldl_snd ?_ _ _) ?_
    | refine Eq.trans (sys_foldl_fst ?_ _ _) ?_
    | dsimp only

theorem execPvIntMaskWrite_sys (hh : Nat) (v : Word) (s : State) :
    outSys (execPvIntMaskWrite hh v s) s.sys = s.sys := by
  unfold execPvIntMaskWrite
  repeat' first
    | with_reducible rfl
    | with_reducible assumption
    | simp only [State_w0_sys, sendMsg_sys, outSys_next]
    | split
    | (intro _)
    | refine Eq.trans (sys_foldl ?_ _ _) ?_
    | refine Eq.trans (sys_foldl_snd ?_ _ _) ?_
    | refine Eq.trans (sys_foldl_fst ?_ _ _) ?_
    | dsimp only

theorem execPvIntCoalWrite_sys (hh : Nat) (v : Word) (s : State) :
    outSys (execPvIntCoalWrite hh v s) s.sys = s.sys := by
  unfold execPvIntCoalWrite
  repeat' first
    | with_reducible rfl
    | with_reducible assumption
    | simp only [State_setSrc_sys, outSys_next, outSys_done]
    | split
    | (intro _)
    | dsimp only

theorem execPvPortEnable_sys (hh p : Nat) (on : Bool) (s : State) :
    outSys (execPvPortEnable hh p on s) s.sys = s.sys := by
  unfold execPvPortEnable
  repeat' first
    | with_reducible rfl
    | with_reducible assumption
    | simp only [State_put2_sys, enablePort_sys, disablePort_sys, settlePort_sys, outSys_next, outSys_done]
    | split
    | (intro _)
    | dsimp only

theorem execStats_sys (f c : Nat) (s : State) :
    outSys (execStats f c s) s.sys = s.sys := by
  unfold execStats
  repeat' first
    | with_reducible rfl
    | with_reducible assumption
    | simp only [faultJob_sys, startWork_sys, endNow_sys, outSys_done]
    | split
    | (intro _)
    | refine Eq.trans (issue_sys _ _ _ _ _ _ ?_) ?_
    | dsimp only

theorem execStatsComplete_sys (n : Nat) (s : State) :
    outSys (execStatsComplete n s) s.sys = s.sys := by
  unfold execStatsComplete
  repeat' first
    | with_reducible rfl
    | with_reducible assumption
    | simp only [State_addq0_sys, State_emit_sys, writeDev_sys, State_modCtx_sys, endWork_sys, outSys_next, outSys_done]
    | split
    | (intro _)
    | dsimp only

theorem shrinkGrant_sys (s : State) (k c : Nat) :
    (shrinkGrant s k c).sys = s.sys := by
  unfold shrinkGrant
  repeat' first
    | with_reducible rfl
    | with_reducible assumption
    | simp only [State_setYoke_sys]
    | split
    | (intro _)
    | dsimp only

theorem execClaim_sys (f c : Nat) (s : State) :
    outSys (execClaim f c s) s.sys = s.sys := by
  unfold execClaim
  repeat' first
    | with_reducible rfl
    | with_reducible assumption
    | simp only [askGrant_sys, State_setCtx_sys, faultJob_sys, shrinkGrant_sys, outSys_next]
    | split
    | (intro _)
    | refine Eq.trans (issue_sys _ _ _ _ _ _ ?_) ?_
    | dsimp only

theorem dropReq_sys (s : State) (k : Nat) :
    (dropReq s k).sys = s.sys := by
  unfold dropReq
  repeat' first
    | with_reducible rfl
    | with_reducible assumption
    | simp only [State_setYoke_sys]
    | split
    | (intro _)
    | dsimp only

theorem execClaimTimeout_sys (f c : Nat) (s : State) :
    outSys (execClaimTimeout f c s) s.sys = s.sys := by
  unfold execClaimTimeout
  repeat' first
    | with_reducible rfl
    | with_reducible assumption
    | simp only [syncTimeout_sys, dropReq_sys, outSys_next]
    | split
    | (intro _)
    | dsimp only

theorem execRelease_sys (f c : Nat) (s : State) :
    outSys (execRelease f c s) s.sys = s.sys := by
  unfold execRelease
  repeat' first
    | with_reducible rfl
    | with_reducible assumption
    | simp only [releaseGrant_sys, State_setCtx_sys, outSys_next]
    | split
    | (intro _)
    | refine Eq.trans (issue_sys _ _ _ _ _ _ ?_) ?_
    | dsimp only

theorem execQuery_sys (f c : Nat) (s : State) :
    outSys (execQuery f c s) s.sys = s.sys := by
  unfold execQuery
  repeat' first
    | with_reducible rfl
    | with_reducible assumption
    | simp only [State_setCtx_sys, faultJob_sys, outSys_next]
    | split
    | (intro _)
    | refine Eq.trans (issue_sys _ _ _ _ _ _ ?_) ?_
    | dsimp only

theorem execYokeTimeout_sys (f c : Nat) (s : State) :
    outSys (execYokeTimeout f c s) s.sys = s.sys := by
  unfold execYokeTimeout
  repeat' first
    | with_reducible rfl
    | with_reducible assumption
    | simp only [State_setYoke_sys, faultJob_sys, outSys_next]
    | split
    | (intro _)
    | dsimp only

/-- What fuses hold: the anti-rollback count, the used repair entries, the serial number. -/
def fusesOf (y : Sys) : Nat × Nat × DWord := (y.fuseN, y.repairUsed, y.serial)

/-- The fuses of a state. -/
abbrev State.fuses (s : State) : Nat × Nat × DWord := fusesOf s.sys

/-- The fuses a command leaves, or `d` where it does not go on. -/
def outFuses (r : Res) (d : Nat × Nat × DWord) : Nat × Nat × DWord := match r with | .next t => t.fuses | _ => d

theorem outFuses_next (t : State) (d : Nat × Nat × DWord) : outFuses (.next t) d = t.fuses := by simp only [outFuses]
theorem outFuses_refused (x : Refusal) (d : Nat × Nat × DWord) : outFuses (.refused x) d = d := by simp only [outFuses]
theorem outFuses_fault (x : Fault) (d : Nat × Nat × DWord) : outFuses (.fault x) d = d := by simp only [outFuses]

theorem outFuses_sys {r : Res} {s : State} (h : outSys r s.sys = s.sys) : outFuses r s.fuses = s.fuses := by
  cases r with
  | next t => rw [outSys_next] at h; rw [outFuses_next]; exact congrArg fusesOf h
  | refused x => rfl
  | fault x => rfl

theorem fuses_foldl {β : Type} {g : State → β → State} (hg : ∀ t x, (g t x).fuses = t.fuses) (l : List β) (s : State) :
    (l.foldl g s).fuses = s.fuses := by
  induction l generalizing s with
  | nil => rfl
  | cons x l ih => exact (ih (g s x)).trans (hg s x)

theorem outFuses_done (s0 s : State) (d : Nat × Nat × DWord) : outFuses (done s0 s) d = s.fuses :=
  congrArg fusesOf (finish_sys s0 s)


theorem State_w2_fuses (s : State) (a : Nat) (v : Word) :
    (State.w2 s a v).fuses = s.fuses := congrArg fusesOf (State_w2_sys ..)

theorem State_w0_fuses (s : State) (hh a : Nat) (v : Word) :
    (State.w0 s hh a v).fuses = s.fuses := congrArg fusesOf (State_w0_sys ..)

theorem State_wch_fuses (s : State) (c a : Nat) (v : Word) :
    (State.wch s c a v).fuses = s.fuses := congrArg fusesOf (State_wch_sys ..)

theorem State_put2_fuses (s : State) (a lo len v : Nat) :
    (State.put2 s a lo len v).fuses = s.fuses := congrArg fusesOf (State_put2_sys ..)

theorem State_put0_fuses (s : State) (hh a lo len v : Nat) :
    (State.put0 s hh a lo len v).fuses = s.fuses := congrArg fusesOf (State_put0_sys ..)

theorem State_cnt2_fuses (s : State) (a lo len : Nat) :
    (State.cnt2 s a lo len).fuses = s.fuses := congrArg fusesOf (State_cnt2_sys ..)

theorem State_wq2_fuses (s : State) (a : Nat) (v : DWord) :
    (State.wq2 s a v).fuses = s.fuses := congrArg fusesOf (State_wq2_sys ..)

theorem State_wq0_fuses (s : State) (hh a : Nat) (v : DWord) :
    (State.wq0 s hh a v).fuses = s.fuses := congrArg fusesOf (State_wq0_sys ..)

theorem State_emit_fuses (s : State) (o : Out) :
    (State.emit s o).fuses = s.fuses := congrArg fusesOf (State_emit_sys ..)

theorem State_setHd_fuses (s : State) (hh : Nat) (x : Holding) :
    (State.setHd s hh x).fuses = s.fuses := congrArg fusesOf (State_setHd_sys ..)

theorem State_modHd_fuses (s : State) (hh : Nat) (f : Holding → Holding) :
    (State.modHd s hh f).fuses = s.fuses := congrArg fusesOf (State_modHd_sys ..)

theorem State_modHp_fuses (s : State) (p : Nat) (f : HPort → HPort) :
    (State.modHp s p f).fuses = s.fuses := congrArg fusesOf (State_modHp_sys ..)

theorem State_modFs_fuses (s : State) (f : Nat) (g : FieldSt → FieldSt) :
    (State.modFs s f g).fuses = s.fuses := congrArg fusesOf (State_modFs_sys ..)

theorem State_takeFree_fuses {s : State} {v0} {tq : State}
    (h : (State.takeFree s) = (v0, tq)) :
    tq.fuses = s.fuses := congrArg fusesOf (State_takeFree_sys h)

theorem State_takeFree_fuses2 (s : State) :
    (State.takeFree s).2.fuses = s.fuses := congrArg fusesOf (State_takeFree_sys2 ..)

theorem State_setSrc_fuses (s : State) (n : Nat) (x : Src) :
    (State.setSrc s n x).fuses = s.fuses := congrArg fusesOf (State_setSrc_sys ..)

theorem State_setVac_fuses (s : State) (hh : Nat) (x : Vac) :
    (State.setVac s hh x).fuses = s.fuses := congrArg fusesOf (State_setVac_sys ..)

theorem devEvent_fuses (s : State) (a b n : Nat) :
    (devEvent s a b n).fuses = s.fuses := congrArg fusesOf (devEvent_sys ..)

theorem State_raise_fuses (s : State) (f : Fire) :
    (State.raise s f).fuses = s.fuses := congrArg fusesOf (State_raise_sys ..)

theorem State_setYoke_fuses (s : State) (y : Yoke) :
    (State.setYoke s y).fuses = s.fuses := congrArg fusesOf (State_setYoke_sys ..)

theorem releaseGrant_fuses (s : State) (key : Nat) :
    (releaseGrant s key).fuses = s.fuses := congrArg fusesOf (releaseGrant_sys ..)

theorem askGrant_fuses (s : State) (r : YReq) :
    (askGrant s r).fuses = s.fuses := congrArg fusesOf (askGrant_sys ..)

theorem claimPll_fuses (s : State) (i : Nat) :
    (claimPll s i).fuses = s.fuses := congrArg fusesOf (claimPll_sys ..)

theorem writeDev_fuses (s : State) (hh off : Nat) (bs : List Byte) :
    (writeDev s hh off bs).fuses = s.fuses := congrArg fusesOf (writeDev_sys ..)

theorem countIssue_fuses (s : State) (k : Nat) :
    (countIssue s k).fuses = s.fuses := congrArg fusesOf (countIssue_sys ..)

theorem faultJob_fuses (s : State) (k status : Nat) :
    (faultJob s k status).fuses = s.fuses := congrArg fusesOf (faultJob_sys ..)

theorem State_setFlt_fuses (s : State) (x : Flt) :
    (State.setFlt s x).fuses = s.fuses := congrArg fusesOf (State_setFlt_sys ..)

theorem execSqDoorbell_fuses (hh q : Nat) (v : Word) (s : State) :
    outFuses (execSqDoorbell hh q v s) s.fuses = s.fuses := outFuses_sys (execSqDoorbell_sys ..)

theorem execCqDoorbell_fuses (hh q : Nat) (v : Word) (s : State) :
    outFuses (execCqDoorbell hh q v s) s.fuses = s.fuses := outFuses_sys (execCqDoorbell_sys ..)

theorem execAdmqEnable_fuses (hh : Nat) (v : Word) (s : State) :
    outFuses (execAdmqEnable hh v s) s.fuses = s.fuses := outFuses_sys (execAdmqEnable_sys ..)

theorem execAdmqDisable_fuses (hh : Nat) (v : Word) (s : State) :
    outFuses (execAdmqDisable hh v s) s.fuses = s.fuses := outFuses_sys (execAdmqDisable_sys ..)

theorem execDtbStepWrite_fuses (w : Nat) (v : Word) (s : State) :
    outFuses (execDtbStepWrite w v s) s.fuses = s.fuses := outFuses_sys (execDtbStepWrite_sys ..)

theorem execDtbSetWrite_fuses (w : Nat) (v : DWord) (s : State) :
    outFuses (execDtbSetWrite w v s) s.fuses = s.fuses := outFuses_sys (execDtbSetWrite_sys ..)

theorem execEnvelopeChange_fuses (w : Nat) (v : Word) (s : State) :
    outFuses (execEnvelopeChange w v s) s.fuses = s.fuses := outFuses_sys (execEnvelopeChange_sys ..)

theorem execYokeCeilingWrite_fuses (w : Nat) (v : Word) (s : State) :
    outFuses (execYokeCeilingWrite w v s) s.fuses = s.fuses := outFuses_sys (execYokeCeilingWrite_sys ..)

theorem execBaulkPortEnable_fuses (w p : Nat) (s : State) :
    outFuses (execBaulkPortEnable w p s) s.fuses = s.fuses := outFuses_sys (execBaulkPortEnable_sys ..)

theorem bkDisable_fuses (s : State) (p : Nat) :
    (bkDisable s p).fuses = s.fuses := congrArg fusesOf (bkDisable_sys ..)

theorem execBaulkExportWrite_fuses (w off : Nat) (v : Word) (s : State) :
    outFuses (execBaulkExportWrite w off v s) s.fuses = s.fuses := outFuses_sys (execBaulkExportWrite_sys ..)

theorem execBaulkImportWrite_fuses (w off : Nat) (v : Word) (s : State) :
    outFuses (execBaulkImportWrite w off v s) s.fuses = s.fuses := outFuses_sys (execBaulkImportWrite_sys ..)

theorem poolCtrl_fuses (s : State) (v : Word) :
    (poolCtrl s v).fuses = s.fuses := congrArg fusesOf (poolCtrl_sys ..)

theorem execPoolWantWrite_fuses (w : Nat) (v : Word) (s : State) :
    outFuses (execPoolWantWrite w v s) s.fuses = s.fuses := outFuses_sys (execPoolWantWrite_sys ..)

theorem syncCtrl_fuses (s : State) (v : Word) :
    (syncCtrl s v).fuses = s.fuses := congrArg fusesOf (syncCtrl_sys ..)

theorem execDmaRingOwnerWrite_fuses (w r : Nat) (v : Word) (s : State) :
    outFuses (execDmaRingOwnerWrite w r v s) s.fuses = s.fuses := outFuses_sys (execDmaRingOwnerWrite_sys ..)

theorem ringEnable_fuses (s : State) (hh r : Nat) :
    (ringEnable s hh r).fuses = s.fuses := congrArg fusesOf (ringEnable_sys ..)

theorem ringDisable_fuses (s : State) (r : Nat) :
    (ringDisable s r).fuses = s.fuses := congrArg fusesOf (ringDisable_sys ..)

theorem execDmarPoke_fuses (hh r : Nat) (s : State) :
    outFuses (execDmarPoke hh r s) s.fuses = s.fuses := outFuses_sys (execDmarPoke_sys ..)

theorem rxEnable_fuses (s : State) (hh i : Nat) :
    (rxEnable s hh i).fuses = s.fuses := congrArg fusesOf (rxEnable_sys ..)

theorem execRxrCiWrite_fuses (hh r : Nat) (v : Word) (s : State) :
    outFuses (execRxrCiWrite hh r v s) s.fuses = s.fuses := outFuses_sys (execRxrCiWrite_sys ..)

theorem execIgfClaim_fuses (hh v : Nat) (s : State) :
    outFuses (execIgfClaim hh v s) s.fuses = s.fuses := outFuses_sys (execIgfClaim_sys ..)

theorem execIgfComplete_fuses (hh vec : Nat) (v : Word) (s : State) :
    outFuses (execIgfComplete hh vec v s) s.fuses = s.fuses := outFuses_sys (execIgfComplete_sys ..)

theorem execIgfMaskSet_fuses (hh : Nat) (v : Word) (s : State) :
    outFuses (execIgfMaskSet hh v s) s.fuses = s.fuses := outFuses_sys (execIgfMaskSet_sys ..)

theorem execIgfMaskClr_fuses (hh : Nat) (v : Word) (s : State) :
    outFuses (execIgfMaskClr hh v s) s.fuses = s.fuses := outFuses_sys (execIgfMaskClr_sys ..)

theorem execIgfPendSet_fuses (hh : Nat) (v : Word) (s : State) :
    outFuses (execIgfPendSet hh v s) s.fuses = s.fuses := outFuses_sys (execIgfPendSet_sys ..)

theorem execIgfPendClr_fuses (hh : Nat) (v : Word) (s : State) :
    outFuses (execIgfPendClr hh v s) s.fuses = s.fuses := outFuses_sys (execIgfPendClr_sys ..)

theorem execIgfCoalWrite_fuses (hh : Nat) (v : Word) (s : State) :
    outFuses (execIgfCoalWrite hh v s) s.fuses = s.fuses := outFuses_sys (execIgfCoalWrite_sys ..)

theorem execIgfRouteWrite_fuses (hh : Nat) (v : Word) (s : State) :
    outFuses (execIgfRouteWrite hh v s) s.fuses = s.fuses := outFuses_sys (execIgfRouteWrite_sys ..)

theorem execIgTargetWrite_fuses (w n : Nat) (v : Word) (s : State) :
    outFuses (execIgTargetWrite w n v s) s.fuses = s.fuses := outFuses_sys (execIgTargetWrite_sys ..)

theorem releaseMsgs_fuses (s : State) (hh : Nat) :
    (releaseMsgs s hh).fuses = s.fuses := congrArg fusesOf (releaseMsgs_sys ..)

theorem execChnByhandle_fuses (hh : Nat) (v : Word) (s : State) :
    outFuses (execChnByhandle hh v s) s.fuses = s.fuses := outFuses_sys (execChnByhandle_sys ..)

theorem functionAppear_fuses (s : State) (hh : Nat) :
    (functionAppear s hh).fuses = s.fuses := congrArg fusesOf (functionAppear_sys ..)

theorem pvInit_fuses (s : State) (hh : Nat) :
    (pvInit s hh).fuses = s.fuses := congrArg fusesOf (pvInit_sys ..)

theorem execHoldingEnable_fuses (w hh : Nat) (pers : Bool) (s : State) :
    outFuses (execHoldingEnable w hh pers s) s.fuses = s.fuses := outFuses_sys (execHoldingEnable_sys ..)

theorem execHoldingDisable_fuses (w hh : Nat) (pers : Bool) (s : State) :
    outFuses (execHoldingDisable w hh pers s) s.fuses = s.fuses := outFuses_sys (execHoldingDisable_sys ..)

theorem execQuotaWrite_fuses (w hh reg : Nat) (v : Word) (s : State) :
    outFuses (execQuotaWrite w hh reg v s) s.fuses = s.fuses := outFuses_sys (execQuotaWrite_sys ..)

theorem execHeartbeat_fuses (w : Nat) (s : State) :
    outFuses (execHeartbeat w s) s.fuses = s.fuses := outFuses_sys (execHeartbeat_sys ..)

theorem execPromote_fuses (w : Nat) (s : State) :
    outFuses (execPromote w s) s.fuses = s.fuses := outFuses_sys (execPromote_sys ..)

theorem execHandover_fuses (w : Nat) (s : State) :
    outFuses (execHandover w s) s.fuses = s.fuses := outFuses_sys (execHandover_sys ..)

theorem enablePort_fuses (s : State) (p : Nat) :
    (enablePort s p).fuses = s.fuses := congrArg fusesOf (enablePort_sys ..)

theorem disablePort_fuses (s : State) (p : Nat) :
    (disablePort s p).fuses = s.fuses := congrArg fusesOf (disablePort_sys ..)

theorem execIngQuadModeWrite_fuses (w q : Nat) (v : Word) (s : State) :
    outFuses (execIngQuadModeWrite w q v s) s.fuses = s.fuses := outFuses_sys (execIngQuadModeWrite_sys ..)

theorem endPause_fuses (s : State) (p : Nat) :
    (endPause s p).fuses = s.fuses := congrArg fusesOf (endPause_sys ..)

theorem execIngTableWrite_fuses (w off : Nat) (v : Word) (s : State) :
    outFuses (execIngTableWrite w off v s) s.fuses = s.fuses := outFuses_sys (execIngTableWrite_sys ..)

theorem execMeterCommit_fuses (w m : Nat) (v : Word) (s : State) :
    outFuses (execMeterCommit w m v s) s.fuses = s.fuses := outFuses_sys (execMeterCommit_sys ..)

theorem execIngTblRead_fuses (w : Nat) (v : Word) (s : State) :
    outFuses (execIngTblRead w v s) s.fuses = s.fuses := outFuses_sys (execIngTblRead_sys ..)

theorem execIngTblInsert_fuses (w : Nat) (v : Word) (s : State) :
    outFuses (execIngTblInsert w v s) s.fuses = s.fuses := outFuses_sys (execIngTblInsert_sys ..)

theorem execIngTblDelete_fuses (w : Nat) (v : Word) (s : State) :
    outFuses (execIngTblDelete w v s) s.fuses = s.fuses := outFuses_sys (execIngTblDelete_sys ..)

theorem execEgfPiWrite_fuses (hh slot : Nat) (v : Word) (s : State) :
    outFuses (execEgfPiWrite hh slot v s) s.fuses = s.fuses := outFuses_sys (execEgfPiWrite_sys ..)

theorem settleSvc_fuses (s : State) (v : Nat) :
    (settleSvc s v).fuses = s.fuses := congrArg fusesOf (settleSvc_sys ..)

theorem settlePort_fuses (s : State) (p : Nat) :
    (settlePort s p).fuses = s.fuses := congrArg fusesOf (settlePort_sys ..)

theorem charge_fuses {s : State} {p : Nat} {k : Choice} {v0} {tq : State}
    (h : (charge s p k) = (v0, tq)) :
    tq.fuses = s.fuses := congrArg fusesOf (charge_sys h)

theorem charge_fuses2 (s : State) (p : Nat) (k : Choice) :
    (charge s p k).2.fuses = s.fuses := congrArg fusesOf (charge_sys2 ..)

theorem execEgrObsClr_fuses (w : Nat) (v : Word) (s : State) :
    outFuses (execEgrObsClr w v s) s.fuses = s.fuses := outFuses_sys (execEgrObsClr_sys ..)

theorem pvAssign_fuses (s : State) (hh : Nat) (ports : BitVec 4) :
    (pvAssign s hh ports).fuses = s.fuses := congrArg fusesOf (pvAssign_sys ..)

theorem execPv16PortsWrite_fuses (w hh : Nat) (v : Word) (s : State) :
    outFuses (execPv16PortsWrite w hh v s) s.fuses = s.fuses := outFuses_sys (execPv16PortsWrite_sys ..)

theorem retrain_fuses (s : State) (p : Nat) :
    (retrain s p).fuses = s.fuses := congrArg fusesOf (retrain_sys ..)

theorem execDrcDiagRelease_fuses (w : Nat) (s : State) :
    outFuses (execDrcDiagRelease w s) s.fuses = s.fuses := outFuses_sys (execDrcDiagRelease_sys ..)

theorem execGrnSpillWrite_fuses (w : Nat) (v : Word) (s : State) :
    outFuses (execGrnSpillWrite w v s) s.fuses = s.fuses := outFuses_sys (execGrnSpillWrite_sys ..)

theorem execFcSevWrite_fuses (w n : Nat) (v : Word) (s : State) :
    outFuses (execFcSevWrite w n v s) s.fuses = s.fuses := outFuses_sys (execFcSevWrite_sys ..)

theorem execFcStatusClear_fuses (w i : Nat) (v : Word) (s : State) :
    outFuses (execFcStatusClear w i v s) s.fuses = s.fuses := outFuses_sys (execFcStatusClear_sys ..)

theorem resume_fuses (s : State) :
    (resume s).fuses = s.fuses := congrArg fusesOf (resume_sys ..)

theorem ffClear_fuses (s : State) :
    (ffClear s).fuses = s.fuses := congrArg fusesOf (ffClear_sys ..)

theorem execChnLatClr_fuses (hh : Nat) (s : State) :
    outFuses (execChnLatClr hh s) s.fuses = s.fuses := outFuses_sys (execChnLatClr_sys ..)

theorem execFieldEnable_fuses (w f : Nat) (s : State) :
    outFuses (execFieldEnable w f s) s.fuses = s.fuses := outFuses_sys (execFieldEnable_sys ..)

theorem execFieldDisable_fuses (w f : Nat) (s : State) :
    outFuses (execFieldDisable w f s) s.fuses = s.fuses := outFuses_sys (execFieldDisable_sys ..)

theorem execPvRun_fuses (hh : Nat) (run : Bool) (s : State) :
    outFuses (execPvRun hh run s) s.fuses = s.fuses := outFuses_sys (execPvRun_sys ..)

theorem execPvReset_fuses (hh : Nat) (s : State) :
    outFuses (execPvReset hh s) s.fuses = s.fuses := outFuses_sys (execPvReset_sys ..)

theorem execPvSqTailWrite_fuses (hh q : Nat) (v : Word) (s : State) :
    outFuses (execPvSqTailWrite hh q v s) s.fuses = s.fuses := outFuses_sys (execPvSqTailWrite_sys ..)

theorem execPvCqHeadWrite_fuses (hh : Nat) (v : Word) (s : State) :
    outFuses (execPvCqHeadWrite hh v s) s.fuses = s.fuses := outFuses_sys (execPvCqHeadWrite_sys ..)

theorem execPvIntStatusClear_fuses (hh : Nat) (v : Word) (s : State) :
    outFuses (execPvIntStatusClear hh v s) s.fuses = s.fuses := outFuses_sys (execPvIntStatusClear_sys ..)

theorem execPvIntMaskWrite_fuses (hh : Nat) (v : Word) (s : State) :
    outFuses (execPvIntMaskWrite hh v s) s.fuses = s.fuses := outFuses_sys (execPvIntMaskWrite_sys ..)

theorem execPvIntCoalWrite_fuses (hh : Nat) (v : Word) (s : State) :
    outFuses (execPvIntCoalWrite hh v s) s.fuses = s.fuses := outFuses_sys (execPvIntCoalWrite_sys ..)

theorem execPvPortEnable_fuses (hh p : Nat) (on : Bool) (s : State) :
    outFuses (execPvPortEnable hh p on s) s.fuses = s.fuses := outFuses_sys (execPvPortEnable_sys ..)

theorem adminWrite_fuses (s : State) (w : Nat) (g : State → State)
    (hg : ∀ x0, x0.fuses = s.fuses → (g x0).fuses = s.fuses) :
    (adminWrite s w g).fuses = s.fuses := by
  unfold adminWrite
  repeat' first
    | with_reducible rfl
    | with_reducible assumption
    | simp only [State_cnt2_fuses]
    | split
    | (intro _)
    | refine hg _ ?_
    | dsimp only

end Sys2Proof.Machine
end

