-- ==== Sys2Proof/Laws/Fuse7.lean ====
section
/-! SUPPORT. What leaves fuses alone, part 7: the fuses and the boot state stay through the operations of: Boot,
SelfTest, RegWrite, RegAccess. One lemma per function. -/

set_option linter.unusedSimpArgs false
set_option linter.unusedVariables false

namespace Sys2Proof.Machine

open State

theorem setStage_fuses (s : State) (n : Nat) :
    (setStage s n).fuses = s.fuses := by
  unfold setStage
  repeat' first
    | with_reducible rfl
    | with_reducible assumption
    | simp only [State_put2_fuses]
    | split
    | (intro _)
    | dsimp only

theorem setCode_fuses (s : State) (n : Nat) :
    (setCode s n).fuses = s.fuses := by
  unfold setCode
  repeat' first
    | with_reducible rfl
    | with_reducible assumption
    | simp only [State_put2_fuses]
    | split
    | (intro _)
    | dsimp only

theorem openWindow_fuses (s : State) (want : Nat) :
    (openWindow s want).fuses = s.fuses := by
  unfold openWindow
  exact (State_put2_fuses ..).trans (State_put2_fuses ..)

theorem bootHalt_fuses (s : State) (code : Nat) :
    (bootHalt s code).fuses = s.fuses := by
  unfold bootHalt
  repeat' first
    | with_reducible rfl
    | with_reducible assumption
    | simp only [State_raise_fuses, setStage_fuses, setCode_fuses, openWindow_fuses]
    | split
    | (intro _)
    | dsimp only

theorem bootEvent_fuses (s : State) (b : Nat) :
    (bootEvent s b).fuses = s.fuses := by
  unfold bootEvent
  repeat' first
    | with_reducible rfl
    | with_reducible assumption
    | simp only [devEvent_fuses]
    | split
    | (intro _)
    | dsimp only

theorem testEnd_fuses (s : State) (t : TestRes) :
    (testEnd s t).fuses = s.fuses := by
  unfold testEnd
  repeat' first
    | with_reducible rfl
    | with_reducible assumption
    | simp only [State_w2_fuses, devEvent_fuses, State_raise_fuses]
    | split
    | (intro _)
    | dsimp only

theorem linksUp_fuses (s : State) (l : List (Nat × Nat × Bool)) :
    (linksUp s l).fuses = s.fuses := by
  unfold linksUp
  repeat' first
    | with_reducible rfl
    | with_reducible assumption
    | simp only [State_modHp_fuses, claimPll_fuses]
    | split
    | (intro _)
    | refine Eq.trans (fuses_foldl ?_ _ _) ?_
    | refine Eq.trans (fuses_foldl_snd ?_ _ _) ?_
    | refine Eq.trans (fuses_foldl_fst ?_ _ _) ?_
    | dsimp only

theorem pvDefault_fuses (s : State) :
    (pvDefault s).fuses = s.fuses := by
  unfold pvDefault
  dsimp only [State.fuses]
  refine Eq.trans (pvInit_fuses _ _) ?_
  refine Eq.trans (pvAssign_fuses _ _ _) ?_
  refine Eq.trans (State_setHd_fuses _ _ _) ?_
  refine Eq.trans (State_setHd_fuses _ _ _) ?_
  exact State_put2_fuses ..

theorem bootRun_fuses (s : State) (b : BootIn) :
    (bootRun s b).fuses = s.fuses := by
  unfold bootRun
  dsimp only
  have h2 : (if s.sys.pv16Default = true then pvDefault (linksUp s b.links)
      else { (linksUp s b.links).setHd 0 { enable := true } with adm := { owner := some 0, lease := true } }).fuses = s.fuses := by
    split
    · exact (pvDefault_fuses ..).trans (linksUp_fuses ..)
    · exact (State_setHd_fuses (linksUp s b.links) 0 { enable := true }).trans (linksUp_fuses ..)
  revert h2
  generalize (if s.sys.pv16Default = true then pvDefault (linksUp s b.links)
      else { (linksUp s b.links).setHd 0 { enable := true } with adm := { owner := some 0, lease := true } }) = s2
  intro h2
  refine Eq.trans (fuses_foldl (fun t p => ?_) _ _) (((setStage_fuses ..).trans (State_put2_fuses ..)).trans h2)
  split
  · exact functionAppear_fuses ..
  · rfl

theorem porstState_fuses (s : State) :
    (porstState s).fuses = s.fuses := by
  rfl

theorem execPowerOnReset_fuses (up : Bool) (s : State) :
    outFuses (execPowerOnReset up s) s.fuses = s.fuses := by
  unfold execPowerOnReset
  cases up <;> rfl

theorem execPowerLoss_fuses (s : State) :
    outFuses (execPowerLoss s) s.fuses = s.fuses := by
  rfl

theorem warmState_fuses (s : State) :
    (warmState s).fuses = s.fuses := by
  rfl

theorem execSysrstN_fuses (s : State) :
    outFuses (execSysrstN s) s.fuses = s.fuses := by
  unfold execSysrstN
  split <;> rfl

theorem execMpWatchdog_fuses (s : State) :
    outFuses (execMpWatchdog s) s.fuses = s.fuses := by
  unfold execMpWatchdog
  repeat' first
    | with_reducible rfl
    | with_reducible assumption
    | simp only [State_raise_fuses, bootEvent_fuses, outFuses_next, outFuses_done]
    | split
    | (intro _)
    | dsimp only

theorem Burns.refl (s : State) : Burns s s := ⟨⟨Nat.le_refl _, Nat.le_refl _, rfl⟩, id⟩

theorem Burns.trans {s t u : State} (h : Burns s t) (k : Burns t u) : Burns s u :=
  ⟨⟨Nat.le_trans h.1.1 k.1.1, Nat.le_trans h.1.2.1 k.1.2.1, k.1.2.2.trans h.1.2.2⟩, fun x => k.2 (h.2 x)⟩

/-- Nothing is burned where the fuses stay. -/
theorem Burns.of_fuses {s t : State} (h : t.fuses = s.fuses) : Burns s t := by
  simp only [State.fuses, fusesOf, Prod.mk.injEq] at h
  obtain ⟨h1, h2, h3⟩ := h
  unfold Burns FuseGrows FuseSafe
  rw [h1, h2, h3]
  exact ⟨⟨Nat.le_refl _, Nat.le_refl _, rfl⟩, id⟩

theorem BurnsRes.next {s t : State} (h : Burns s t) : BurnsRes s (.next t) := fun _ e => Host.Outcome.next.inj e ▸ h

theorem BurnsRes.done {s s0 t : State} (h : Burns s t) : BurnsRes s (done s0 t) :=
  .next (h.trans (.of_fuses (congrArg fusesOf (finish_sys s0 t))))

theorem BurnsRes.refused (s : State) (x : Refusal) : BurnsRes s (.refused x) := fun _ e => by cases e

theorem BurnsRes.fault (s : State) (x : Fault) : BurnsRes s (.fault x) := fun _ e => by cases e

theorem BurnsRes.of_fuses {s : State} {r : Res} (h : outFuses r s.fuses = s.fuses) : BurnsRes s r := by
  cases r with
  | next t => exact .next (.of_fuses (outFuses_next t _ ▸ h))
  | refused x => exact fun _ e => by cases e
  | fault x => exact fun _ e => by cases e

theorem BurnsRes.of_sys {s : State} {r : Res} (h : outSys r s.sys = s.sys) : BurnsRes s r := .of_fuses (outFuses_sys h)

theorem leaveSlow_fuses (s : State) : (leaveSlow s).fuses = s.fuses := rfl

/-- A commit takes the anti-rollback count up to at most 64 (R466). -/
theorem install_burns (s : State) (x : Image) (p : Patch) : Burns s (install s x p) := by
  refine ⟨⟨?_, Nat.le_refl _, rfl⟩, fun k => ⟨?_, k.2⟩⟩
  · show s.sys.fuseN ≤ if x.flags % 2 = 1 then Nat.max s.sys.fuseN (Nat.min x.svn 64) else s.sys.fuseN
    split
    · exact Nat.le_max_left ..
    · exact Nat.le_refl _
  · show (if x.flags % 2 = 1 then Nat.max s.sys.fuseN (Nat.min x.svn 64) else s.sys.fuseN) ≤ 64
    split
    · exact Nat.max_le.2 ⟨k.1, Nat.min_le_right ..⟩
    · exact k.1

theorem installed_burns (s : State) (n : Nat) (x : Image) (p : Patch) : Burns s (installed s n x p) := by
  unfold installed
  have h1 := (Burns.of_fuses ((State_w2_fuses (s.put2 A.bootStatus 20 2 n) A.bootPatchVersion x.version).trans
    (State_put2_fuses s A.bootStatus 20 2 n))).trans (install_burns _ x p)
  generalize install _ x p = u at h1
  dsimp only
  have h2 : (if n = 2 then bootEvent u 0 else u).fuses = u.fuses := by
    split
    · exact bootEvent_fuses ..
    · rfl
  generalize (if n = 2 then bootEvent u 0 else u) = v at h2
  split
  · exact h1.trans (.of_fuses ((State_raise_fuses ..).trans ((bootEvent_fuses ..).trans h2)))
  · exact h1.trans (.of_fuses h2)

theorem bootPatched_burns (s : State) (b : BootIn) (n : Nat) (i : Option (Image × Patch)) :
    Burns s (bootPatched s b n i) := by
  unfold bootPatched
  split
  · exact .of_fuses ((bootRun_fuses ..).trans ((State_raise_fuses ..).trans ((bootEvent_fuses ..).trans (leaveSlow_fuses s))))
  · exact (Burns.of_fuses (leaveSlow_fuses s)).trans ((installed_burns ..).trans (.of_fuses (bootRun_fuses ..)))

theorem bootBundle_burns (s : State) (b : BootIn) (q : Bool) : Burns s (bootBundle s b q) := by
  unfold bootBundle
  dsimp only
  split
  · exact bootPatched_burns ..
  · have h1 : Burns s (if b.bunA.isSome = true then s.raise { src := 16 } else s) := by
      split
      · exact .of_fuses (State_raise_fuses ..)
      · exact .refl _
    split
    · exact h1.trans (bootPatched_burns ..)
    · split
      · exact h1.trans (.of_fuses (bootHalt_fuses ..))
      · exact h1.trans (bootPatched_burns ..)

theorem trainedAt_fuses (s : State) (b : BootIn) : (trainedAt s b).fuses = s.fuses := by
  unfold trainedAt
  split
  · rfl
  · exact fuses_foldl (fun t ch => State_put2_fuses ..) _ _

theorem softRepaired_fuses (s : State) (n : Nat) : (softRepaired s n).fuses = s.fuses := rfl

theorem dropFields_fuses (s : State) (l : List TestRes) : (dropFields s l).fuses = s.fuses := by
  unfold dropFields
  refine fuses_foldl (fun t r => ?_) _ _
  split
  · exact State_put2_fuses ..
  · rfl

theorem bootTrain_burns (s : State) (b : BootIn) (c : Board) (win : Bool) : Burns s (bootTrain s b c win) := by
  unfold bootTrain
  dsimp only
  have h3 : (b.tests.foldl testEnd (setStage (softRepaired (trainedAt (setStage s 3) b) b.repairs) 4)).fuses = s.fuses :=
    (fuses_foldl (fun t r => testEnd_fuses ..) _ _).trans ((setStage_fuses ..).trans ((softRepaired_fuses ..).trans
      ((trainedAt_fuses ..).trans (setStage_fuses ..))))
  generalize b.tests.foldl testEnd _ = u at h3
  split
  · exact .of_fuses ((bootHalt_fuses ..).trans (setStage_fuses ..))
  · split
    · exact .of_fuses ((bootHalt_fuses ..).trans h3)
    · have h5 : (setStage (dropFields u b.tests) 5).fuses = s.fuses :=
        (setStage_fuses ..).trans ((dropFields_fuses ..).trans h3)
      split
      · exact .of_fuses ((openWindow_fuses ..).trans h5)
      · exact (Burns.of_fuses h5).trans (bootBundle_burns ..)

theorem boardSet_fuses (s : State) (c : Board) : (boardSet s c).fuses = s.fuses := by
  unfold boardSet
  dsimp only [State.fuses]
  refine Eq.trans (State_w2_fuses _ _ _) ?_
  refine Eq.trans (State_put2_fuses _ _ _ _ _) ?_
  exact State_put2_fuses ..

theorem bootBoard_burns (s : State) (b : BootIn) (c : Board) (win : Bool) : Burns s (bootBoard s b c win) := by
  unfold bootBoard
  split
  · exact .of_fuses (bootHalt_fuses ..)
  · exact (Burns.of_fuses (boardSet_fuses s c)).trans (bootTrain_burns ..)

theorem bootFirmware_burns (s : State) (b : BootIn) (v : Word) (copyB win : Bool) :
    Burns s (bootFirmware s b v copyB win) := by
  unfold bootFirmware
  dsimp only
  have h1 : ((setStage (s.w2 A.bootVersion v) 2).put2 A.bootStatus 19 1 (b2n copyB)).fuses = s.fuses :=
    (State_put2_fuses ..).trans ((setStage_fuses ..).trans (State_w2_fuses ..))
  split
  · exact .of_fuses ((openWindow_fuses ..).trans h1)
  · split
    · split
      · exact (Burns.of_fuses h1).trans (bootBoard_burns ..)
      · exact .of_fuses ((bootHalt_fuses ..).trans h1)
    · exact .of_fuses ((bootHalt_fuses ..).trans h1)

theorem bootFlash_burns (s : State) (b : BootIn) : Burns s (bootFlash s b) := by
  unfold bootFlash
  split
  · exact .of_fuses (bootHalt_fuses ..)
  · dsimp only
    split
    · exact bootFirmware_burns ..
    · split
      · exact (Burns.of_fuses ((bootEvent_fuses ..).trans (State_raise_fuses ..))).trans (bootFirmware_burns ..)
      · exact .of_fuses ((bootHalt_fuses ..).trans (State_raise_fuses ..))

theorem boot_burns (s0 s u : State) (b : BootIn) (h : Burns u s) : BurnsRes u (boot s0 s b) := by
  unfold boot
  dsimp only
  have h2 : (setStage (({ s with yoke := { s.yoke with plls := insNat s.yoke.plls 8 } } : State).put2 A.bootStatus 22 2
      s.sys.bootMode) 1).fuses = s.fuses := (setStage_fuses ..).trans (State_put2_fuses ..)
  split
  · exact fun _ e => by cases e
  · split
    · exact BurnsRes.done (h.trans (.of_fuses ((bootHalt_fuses ..).trans h2)))
    · split
      · exact .done (h.trans (.of_fuses ((openWindow_fuses ..).trans h2)))
      · exact .done (h.trans ((Burns.of_fuses h2).trans (bootFlash_burns ..)))

theorem execBootStart_burns (b : BootIn) (s : State) : BurnsRes s (execBootStart b s) := by
  unfold execBootStart
  split
  · exact .next (.refl _)
  · dsimp only
    split
    · exact .next (.of_fuses rfl)
    · exact boot_burns _ _ _ _ (.of_fuses rfl)

theorem execSysrstNRelease_burns (b : BootIn) (s : State) : BurnsRes s (execSysrstNRelease b s) := by
  unfold execSysrstNRelease
  split
  · exact .next (.refl _)
  · dsimp only
    split
    · exact .next (.of_fuses rfl)
    · exact boot_burns _ _ _ _ (.of_fuses rfl)

theorem takeWindow_burns {s t : State} {want len : Nat} {i : BootItem} {b : BootIn} (h : takeWindow s want len i b = some t) :
    Burns s t := by
  have h0 : (setCode (s.put2 A.bootStatus 16 1 0) 0).fuses = s.fuses := (setCode_fuses ..).trans (State_put2_fuses ..)
  unfold takeWindow at h
  dsimp only at h
  split at h
  · split at h
    · cases h; exact (Burns.of_fuses h0).trans (bootFirmware_burns ..)
    · cases h
  · split at h
    · cases h; exact (Burns.of_fuses h0).trans (bootBoard_burns ..)
    · cases h
  · split at h
    · obtain ⟨p, -, h2⟩ := Option.map_eq_some_iff.mp h
      cases h2; exact (Burns.of_fuses h0).trans (bootPatched_burns ..)
    · cases h
  · cases h

theorem execBootWindowGo_burns (w : Nat) (v : Word) (i : BootItem) (b : BootIn) (s : State) :
    BurnsRes s (execBootWindowGo w v i b s) := by
  unfold execBootWindowGo
  dsimp only
  have h1 : (s.w0 0 B.bwCtrl (v &&& 0xFFFFFF)).fuses = s.fuses := State_w0_fuses ..
  split
  · exact .next (.refl _)
  · split
    · exact .next (.of_fuses h1)
    · generalize ho : (if fld v 22 2 = fld (s.r2 A.bootStatus) 17 2 then _ else _ : Option State) = o
      cases o with
      | none => exact .next (.of_fuses ((setCode_fuses ..).trans h1))
      | some t =>
        split at ho
        · exact .done ((Burns.of_fuses h1).trans (takeWindow_burns ho))
        · cases ho


theorem stRefuse_fuses (s : State) :
    (stRefuse s).fuses = s.fuses := by
  unfold stRefuse
  repeat' first
    | with_reducible rfl
    | with_reducible assumption
    | simp only [State_put2_fuses]
    | split
    | (intro _)
    | dsimp only

theorem stStart_fuses (w test target : Nat) (s : State) (g : State → State)
    (hg : ∀ x0, x0.fuses = s.fuses → (g x0).fuses = s.fuses) :
    outFuses (stStart w test target s g) s.fuses = s.fuses := by
  unfold stStart
  repeat' first
    | with_reducible rfl
    | with_reducible assumption
    | simp only [State_put2_fuses, stRefuse_fuses, outFuses_done]
    | split
    | (intro _)
    | refine Eq.trans (adminWrite_fuses _ _ _ ?_) ?_
    | refine hg _ ?_
    | refine Eq.trans (adminWrite_fuses _ _ _ ?_) ?_
    | dsimp only

theorem stBegin_fuses (s : State) (test target : Nat) :
    (stBegin s test target).fuses = s.fuses := by
  rfl

theorem yieldTests_fuses (s : State) :
    (yieldTests s).fuses = s.fuses := by
  unfold yieldTests
  repeat' first
    | with_reducible rfl
    | with_reducible assumption
    | simp only [State_modFs_fuses, State_setYoke_fuses, releaseGrant_fuses]
    | split
    | (intro _)
    | refine Eq.trans (fuses_foldl ?_ _ _) ?_
    | refine Eq.trans (fuses_foldl_snd ?_ _ _) ?_
    | refine Eq.trans (fuses_foldl_fst ?_ _ _) ?_
    | dsimp only

theorem execSelftestField_fuses (w f : Nat) (s : State) :
    outFuses (execSelftestField w f s) s.fuses = s.fuses := by
  unfold execSelftestField
  repeat' first
    | with_reducible rfl
    | with_reducible assumption
    | simp only [State_modFs_fuses, State_setYoke_fuses, askGrant_fuses, stBegin_fuses, yieldTests_fuses]
    | split
    | (intro _)
    | refine Eq.trans (stStart_fuses _ _ _ _ _ ?_) ?_
    | refine Eq.trans (stStart_fuses _ _ _ _ _ ?_) ?_
    | dsimp only

theorem laneTest_fuses (s : State) (l : Nat) (g : State → State)
    (hg : ∀ x0, x0.fuses = s.fuses → (g x0).fuses = s.fuses) :
    (laneTest s l g).fuses = s.fuses := by
  unfold laneTest
  repeat' first
    | with_reducible rfl
    | with_reducible assumption
    | simp only [testEnd_fuses]
    | split
    | (intro _)
    | refine hg _ ?_
    | dsimp only

theorem execSelftestSerdesNear_fuses (w l : Nat) (s : State) :
    outFuses (execSelftestSerdesNear w l s) s.fuses = s.fuses := by
  unfold execSelftestSerdesNear
  repeat' first
    | with_reducible rfl
    | with_reducible assumption
    | simp only [stBegin_fuses]
    | split
    | (intro _)
    | refine Eq.trans (stStart_fuses _ _ _ _ _ ?_) ?_
    | refine Eq.trans (laneTest_fuses _ _ _ ?_) ?_
    | refine Eq.trans (stStart_fuses _ _ _ _ _ ?_) ?_
    | refine Eq.trans (laneTest_fuses _ _ _ ?_) ?_
    | dsimp only

theorem execSelftestSerdesFar_fuses (w l : Nat) (s : State) :
    outFuses (execSelftestSerdesFar w l s) s.fuses = s.fuses := by
  unfold execSelftestSerdesFar
  refine stStart_fuses _ _ _ _ _ (fun t ht => ?_)
  exact Eq.trans (laneTest_fuses _ _ _ (fun u hu => Eq.trans rfl hu)) ht

theorem execSelftestSerdesFarStop_fuses (w l : Nat) (s : State) :
    outFuses (execSelftestSerdesFarStop w l s) s.fuses = s.fuses := by
  unfold execSelftestSerdesFarStop
  refine stStart_fuses _ _ _ _ _ (fun t ht => ?_)
  exact Eq.trans rfl ht

theorem execSelftestPll_fuses (w : Nat) (s : State) :
    outFuses (execSelftestPll w s) s.fuses = s.fuses := by
  unfold execSelftestPll
  repeat' first
    | with_reducible rfl
    | with_reducible assumption
    | simp only [stBegin_fuses]
    | split
    | (intro _)
    | refine Eq.trans (stStart_fuses _ _ _ _ _ ?_) ?_
    | refine Eq.trans (stStart_fuses _ _ _ _ _ ?_) ?_
    | dsimp only

theorem execSelftestTemp_fuses (w : Nat) (s : State) :
    outFuses (execSelftestTemp w s) s.fuses = s.fuses := by
  unfold execSelftestTemp
  repeat' first
    | with_reducible rfl
    | with_reducible assumption
    | simp only [stBegin_fuses]
    | split
    | (intro _)
    | refine Eq.trans (stStart_fuses _ _ _ _ _ ?_) ?_
    | refine Eq.trans (stStart_fuses _ _ _ _ _ ?_) ?_
    | dsimp only

theorem execSelftestRepairBurn_fuses (w : Nat) (s : State) :
    outFuses (execSelftestRepairBurn w s) s.fuses = s.fuses := by
  unfold execSelftestRepairBurn
  repeat' first
    | with_reducible rfl
    | with_reducible assumption
    | simp only [stBegin_fuses]
    | split
    | (intro _)
    | refine Eq.trans (stStart_fuses _ _ _ _ _ ?_) ?_
    | refine Eq.trans (stStart_fuses _ _ _ _ _ ?_) ?_
    | dsimp only

theorem stEnd_fuses (s : State) (test : Nat) :
    (stEnd s test).fuses = s.fuses := by
  unfold stEnd
  split
  · split <;> rfl
  · rfl

theorem fieldTestEnd_fuses (s : State) (f : Nat) (r : TestRes) :
    (fieldTestEnd s f r).fuses = s.fuses := by
  unfold fieldTestEnd
  repeat' first
    | with_reducible rfl
    | with_reducible assumption
    | simp only [State_put2_fuses, State_modFs_fuses, devEvent_fuses, State_setYoke_fuses, releaseGrant_fuses, testEnd_fuses, stEnd_fuses]
    | split
    | (intro _)
    | dsimp only

theorem execUnassignedOpcode_fuses (f c : Nat) (s : State) :
    outFuses (execUnassignedOpcode f c s) s.fuses = s.fuses := by
  unfold execUnassignedOpcode
  repeat' first
    | with_reducible rfl
    | with_reducible assumption
    | simp only [countIssue_fuses, faultJob_fuses, outFuses_next, outFuses_refused, outFuses_done]
    | split
    | (intro _)
    | dsimp only

theorem burnEnd_burns (s : State) (r : TestRes) : Burns s (burnEnd s r) := by
  unfold burnEnd
  dsimp only
  have h1 : (stEnd s 7).fuses = s.fuses := stEnd_fuses ..
  split
  · exact .of_fuses ((testEnd_fuses ..).trans h1)
  · split
    · exact .of_fuses ((testEnd_fuses ..).trans h1)
    · rename_i h2
      refine (Burns.of_fuses h1).trans (Burns.trans (t := burnRepairs (stEnd s 7)) ?_ (.of_fuses (testEnd_fuses ..)))
      exact ⟨⟨Nat.le_refl _, Nat.le_add_right .., rfl⟩, fun k => ⟨k.1, Nat.le_of_not_lt h2⟩⟩

theorem execSelftestDone_burns (r : TestRes) (n : Nat) (s : State) : BurnsRes s (execSelftestDone r n s) := by
  unfold execSelftestDone
  dsimp only
  generalize hs0 : (if r.res = 2 then _ else s : State) = s0
  have h0 : s0.fuses = s.fuses := by
    rw [← hs0]
    split <;> rfl
  split
  · exact .next (.refl _)
  split
  · split
    · exact .done (.of_fuses ((fieldTestEnd_fuses ..).trans h0))
    · exact .next (.refl _)
  split
  · split
    · exact .done (.of_fuses ((testEnd_fuses ..).trans ((stEnd_fuses ..).trans h0)))
    · exact .next (.refl _)
  split
  · split
    · exact .done (.of_fuses ((testEnd_fuses ..).trans ((stEnd_fuses ..).trans h0)))
    · exact .next (.refl _)
  split
  · split
    · exact .done (.of_fuses ((testEnd_fuses ..).trans ((stEnd_fuses ..).trans h0)))
    · exact .next (.refl _)
  split
  · exact .done (burnEnd_burns ..)
  · exact .next (.refl _)


theorem thenDo_fuses {s : State} (r : Res) (f : State → Res) (hr : outFuses r s.fuses = s.fuses)
    (hf : ∀ t, outFuses (f t) t.fuses = t.fuses) : outFuses (thenDo r f) s.fuses = s.fuses := by
  cases r with
  | next t =>
    rw [outFuses_next] at hr
    exact hr ▸ hf t
  | refused x => rfl
  | fault x => rfl

theorem rowWrite2_fuses (s : State) (a : Nat) (v : Word) :
    (rowWrite2 s a v).fuses = s.fuses := by
  unfold rowWrite2
  repeat' first
    | with_reducible rfl
    | with_reducible assumption
    | simp only [State_w2_fuses]
    | split
    | (intro _)
    | dsimp only

theorem admin2_fuses (w : Nat) (s : State) (g : State → State)
    (hg : ∀ x0, x0.fuses = s.fuses → (g x0).fuses = s.fuses) :
    outFuses (admin2 w s g) s.fuses = s.fuses := by
  unfold admin2
  repeat' first
    | with_reducible rfl
    | with_reducible assumption
    | simp only [outFuses_done]
    | split
    | (intro _)
    | refine Eq.trans (adminWrite_fuses _ _ _ ?_) ?_
    | refine hg _ ?_
    | refine Eq.trans (adminWrite_fuses _ _ _ ?_) ?_
    | dsimp only

theorem commitPair0_fuses (s : State) (hh a : Nat) (v : DWord) :
    (commitPair0 s hh a v).fuses = s.fuses := by
  unfold commitPair0
  repeat' first
    | with_reducible rfl
    | with_reducible assumption
    | simp only [State_wq0_fuses]
    | split
    | (intro _)
    | dsimp only

theorem commitPair_fuses (hh bar a : Nat) (v : DWord) (s : State) :
    outFuses (commitPair hh bar a v s) s.fuses = s.fuses := by
  unfold commitPair
  repeat' first
    | with_reducible rfl
    | with_reducible assumption
    | simp only [State_wq2_fuses, execDtbSetWrite_fuses, commitPair0_fuses, outFuses_next]
    | split
    | (intro _)
    | refine Eq.trans (admin2_fuses _ _ _ ?_) ?_
    | refine Eq.trans (admin2_fuses _ _ _ ?_) ?_
    | dsimp only

theorem holdLow_fuses (s : State) (hh bar a : Nat) (v : Word) :
    (holdLow s hh bar a v).fuses = s.fuses := by
  unfold holdLow
  repeat' first
    | with_reducible rfl
    | with_reducible assumption
    | simp only [State_modHd_fuses]
    | split
    | (intro _)
    | dsimp only

theorem dropLow_fuses (s : State) (hh bar a : Nat) :
    (dropLow s hh bar a).fuses = s.fuses := by
  unfold dropLow
  repeat' first
    | with_reducible rfl
    | with_reducible assumption
    | simp only [State_modHd_fuses]
    | split
    | (intro _)
    | dsimp only

theorem writeHi_fuses (hh bar a : Nat) (v : Word) (s : State) :
    outFuses (writeHi hh bar a v s) s.fuses = s.fuses := by
  unfold writeHi
  split
  · split
    · rw [outFuses_next]; exact adminWrite_fuses _ _ _ (fun t ht => ht)
    · rfl
  · have h1 := commitPair_fuses hh bar a (joinW v ((tget (s.hd hh).lowHeld (pairKey bar a)).getD (readReg s hh bar a)))
      (dropLow s hh bar a)
    rwa [dropLow_fuses] at h1

theorem writeLo_fuses (hh bar a : Nat) (v : Word) (s : State) :
    outFuses (writeLo hh bar a v s) s.fuses = s.fuses := by
  unfold writeLo
  repeat' first
    | with_reducible rfl
    | with_reducible assumption
    | exact Eq.symm (by with_reducible assumption)
    | simp only [holdLow_fuses, outFuses_next]
    | split
    | (intro h1; obtain ⟨rfl, rfl⟩ := Prod.mk.inj h1)
    | (intro h1; obtain rfl := Option.some.inj h1)
    | (intro _)
    | refine Eq.trans (adminWrite_fuses _ _ _ ?_) ?_
    | refine Eq.trans (fuses_foldl ?_ _ _) ?_
    | refine Eq.trans (fuses_foldl_snd ?_ _ _) ?_
    | refine Eq.trans (fuses_foldl_fst ?_ _ _) ?_
    | refine Eq.trans (adminWrite_fuses _ _ _ ?_) ?_
    | exact Eq.symm (by simp only [holdLow_fuses, outFuses_next]; with_reducible first | rfl | assumption)
    | simp only [id_eq]
    | dsimp only
    | contradiction

theorem writeHldt_fuses (w e o : Nat) (v : Word) (s : State) :
    outFuses (writeHldt w e o v s) s.fuses = s.fuses := by
  unfold writeHldt
  repeat' first
    | with_reducible rfl
    | with_reducible assumption
    | exact Eq.symm (by with_reducible assumption)
    | simp only [State_modHd_fuses, execHoldingEnable_fuses, execHoldingDisable_fuses, execQuotaWrite_fuses, execPv16PortsWrite_fuses]
    | split
    | (intro h1; obtain ⟨rfl, rfl⟩ := Prod.mk.inj h1)
    | (intro h1; obtain rfl := Option.some.inj h1)
    | (intro _)
    | refine Eq.trans (admin2_fuses _ _ _ ?_) ?_
    | refine Eq.trans (fuses_foldl ?_ _ _) ?_
    | refine Eq.trans (fuses_foldl_snd ?_ _ _) ?_
    | refine Eq.trans (fuses_foldl_fst ?_ _ _) ?_
    | refine Eq.trans (admin2_fuses _ _ _ ?_) ?_
    | exact Eq.symm (by simp only [State_modHd_fuses, execHoldingEnable_fuses, execHoldingDisable_fuses, execQuotaWrite_fuses, execPv16PortsWrite_fuses]; with_reducible first | rfl | assumption)
    | simp only [id_eq]
    | dsimp only
    | contradiction

theorem writeYoke_fuses (w a : Nat) (v : Word) (s : State) :
    outFuses (writeYoke w a v s) s.fuses = s.fuses := by
  unfold writeYoke
  repeat' first
    | with_reducible rfl
    | with_reducible assumption
    | simp only [State_w2_fuses, execDtbStepWrite_fuses, execEnvelopeChange_fuses, execYokeCeilingWrite_fuses, rowWrite2_fuses]
    | split
    | (intro _)
    | refine Eq.trans (admin2_fuses _ _ _ ?_) ?_
    | refine Eq.trans (admin2_fuses _ _ _ ?_) ?_
    | dsimp only

theorem writeFault_fuses (w a : Nat) (v : Word) (s : State) :
    outFuses (writeFault w a v s) s.fuses = s.fuses := by
  unfold writeFault
  repeat' first
    | with_reducible rfl
    | with_reducible assumption
    | simp only [State_put2_fuses, State_setFlt_fuses, execFcSevWrite_fuses, execFcStatusClear_fuses, resume_fuses, ffClear_fuses, rowWrite2_fuses]
    | split
    | (intro _)
    | refine Eq.trans (admin2_fuses _ _ _ ?_) ?_
    | refine Eq.trans (admin2_fuses _ _ _ ?_) ?_
    | dsimp only

theorem writeGatherer_fuses (w a : Nat) (v : Word) (s : State) :
    outFuses (writeGatherer w a v s) s.fuses = s.fuses := by
  unfold writeGatherer
  repeat' first
    | with_reducible rfl
    | with_reducible assumption
    | exact Eq.symm (by with_reducible assumption)
    | simp only [State_setSrc_fuses, execIgTargetWrite_fuses, rowWrite2_fuses]
    | split
    | (intro h1; obtain ⟨rfl, rfl⟩ := Prod.mk.inj h1)
    | (intro h1; obtain rfl := Option.some.inj h1)
    | (intro _)
    | refine Eq.trans (admin2_fuses _ _ _ ?_) ?_
    | refine Eq.trans (fuses_foldl ?_ _ _) ?_
    | refine Eq.trans (fuses_foldl_snd ?_ _ _) ?_
    | refine Eq.trans (fuses_foldl_fst ?_ _ _) ?_
    | refine Eq.trans (admin2_fuses _ _ _ ?_) ?_
    | exact Eq.symm (by simp only [State_setSrc_fuses, execIgTargetWrite_fuses, rowWrite2_fuses]; with_reducible first | rfl | assumption)
    | simp only [id_eq]
    | dsimp only
    | contradiction

theorem writePortCtrl_fuses (s : State) (p : Nat) (v : Word) :
    (writePortCtrl s p v).fuses = s.fuses := by
  unfold writePortCtrl
  repeat' first
    | with_reducible rfl
    | with_reducible assumption
    | simp only [enablePort_fuses, disablePort_fuses, rowWrite2_fuses]
    | split
    | (intro _)
    | dsimp only

theorem writePause_fuses (s : State) (v : Word) :
    (writePause s v).fuses = s.fuses := by
  unfold writePause
  repeat' first
    | with_reducible rfl
    | with_reducible assumption
    | simp only [State_put2_fuses, endPause_fuses]
    | split
    | (intro _)
    | refine Eq.trans (fuses_foldl ?_ _ _) ?_
    | refine Eq.trans (fuses_foldl_snd ?_ _ _) ?_
    | refine Eq.trans (fuses_foldl_fst ?_ _ _) ?_
    | dsimp only

theorem writeIngest_fuses (w a : Nat) (v : Word) (s : State) :
    outFuses (writeIngest w a v s) s.fuses = s.fuses := by
  unfold writeIngest
  repeat' first
    | with_reducible rfl
    | with_reducible assumption
    | exact Eq.symm (by with_reducible assumption)
    | simp only [execIngQuadModeWrite_fuses, execIngTableWrite_fuses, execMeterCommit_fuses, execIngTblRead_fuses, execIngTblInsert_fuses, execIngTblDelete_fuses, rowWrite2_fuses, writePortCtrl_fuses, writePause_fuses]
    | split
    | (intro h1; obtain ⟨rfl, rfl⟩ := Prod.mk.inj h1)
    | (intro h1; obtain rfl := Option.some.inj h1)
    | (intro _)
    | refine Eq.trans (admin2_fuses _ _ _ ?_) ?_
    | refine Eq.trans (fuses_foldl ?_ _ _) ?_
    | refine Eq.trans (fuses_foldl_snd ?_ _ _) ?_
    | refine Eq.trans (fuses_foldl_fst ?_ _ _) ?_
    | refine Eq.trans (admin2_fuses _ _ _ ?_) ?_
    | exact Eq.symm (by simp only [execIngQuadModeWrite_fuses, execIngTableWrite_fuses, execMeterCommit_fuses, execIngTblRead_fuses, execIngTblInsert_fuses, execIngTblDelete_fuses, rowWrite2_fuses, writePortCtrl_fuses, writePause_fuses]; with_reducible first | rfl | assumption)
    | simp only [id_eq]
    | dsimp only
    | contradiction

theorem writeSvc_fuses (s : State) (a : Nat) (v : Word) :
    (writeSvc s a v).fuses = s.fuses := by
  unfold writeSvc
  repeat' first
    | with_reducible rfl
    | with_reducible assumption
    | simp only [State_put2_fuses, settleSvc_fuses, rowWrite2_fuses]
    | split
    | (intro _)
    | dsimp only

theorem writeEgress_fuses (w a : Nat) (v : Word) (s : State) :
    outFuses (writeEgress w a v s) s.fuses = s.fuses := by
  unfold writeEgress
  repeat' first
    | with_reducible rfl
    | with_reducible assumption
    | simp only [settlePort_fuses, execEgrObsClr_fuses, rowWrite2_fuses, writeSvc_fuses]
    | split
    | (intro _)
    | refine Eq.trans (admin2_fuses _ _ _ ?_) ?_
    | refine Eq.trans (admin2_fuses _ _ _ ?_) ?_
    | dsimp only

theorem writeBaulk_fuses (w a : Nat) (v : Word) (s : State) :
    outFuses (writeBaulk w a v s) s.fuses = s.fuses := by
  unfold writeBaulk
  repeat' first
    | with_reducible rfl
    | with_reducible assumption
    | simp only [execBaulkPortEnable_fuses, bkDisable_fuses, execBaulkExportWrite_fuses, execBaulkImportWrite_fuses, poolCtrl_fuses, execPoolWantWrite_fuses, syncCtrl_fuses, rowWrite2_fuses]
    | split
    | (intro _)
    | refine Eq.trans (admin2_fuses _ _ _ ?_) ?_
    | refine Eq.trans (admin2_fuses _ _ _ ?_) ?_
    | dsimp only

theorem writeStCmd_fuses (w : Nat) (v : Word) (s : State) :
    outFuses (writeStCmd w v s) s.fuses = s.fuses := by
  unfold writeStCmd
  repeat' first
    | with_reducible rfl
    | with_reducible assumption
    | exact Eq.symm (by with_reducible assumption)
    | simp only [execSelftestField_fuses, execSelftestSerdesNear_fuses, execSelftestSerdesFar_fuses, execSelftestSerdesFarStop_fuses, execSelftestPll_fuses, execSelftestTemp_fuses, execSelftestRepairBurn_fuses, rowWrite2_fuses]
    | split
    | (intro h1; obtain ⟨rfl, rfl⟩ := Prod.mk.inj h1)
    | (intro h1; obtain rfl := Option.some.inj h1)
    | (intro _)
    | refine Eq.trans (admin2_fuses _ _ _ ?_) ?_
    | refine Eq.trans (fuses_foldl ?_ _ _) ?_
    | refine Eq.trans (fuses_foldl_snd ?_ _ _) ?_
    | refine Eq.trans (fuses_foldl_fst ?_ _ _) ?_
    | refine Eq.trans (admin2_fuses _ _ _ ?_) ?_
    | exact Eq.symm (by simp only [execSelftestField_fuses, execSelftestSerdesNear_fuses, execSelftestSerdesFar_fuses, execSelftestSerdesFarStop_fuses, execSelftestPll_fuses, execSelftestTemp_fuses, execSelftestRepairBurn_fuses, rowWrite2_fuses]; with_reducible first | rfl | assumption)
    | simp only [id_eq]
    | dsimp only
    | contradiction

theorem write2_fuses (w a : Nat) (v : Word) (s : State) :
    outFuses (write2 w a v s) s.fuses = s.fuses := by
  unfold write2
  repeat' first
    | with_reducible rfl
    | with_reducible assumption
    | exact Eq.symm (by with_reducible assumption)
    | simp only [execDmaRingOwnerWrite_fuses, retrain_fuses, execDrcDiagRelease_fuses, execGrnSpillWrite_fuses, execFieldEnable_fuses, execFieldDisable_fuses, rowWrite2_fuses, writeHi_fuses, writeLo_fuses, writeHldt_fuses, writeYoke_fuses, writeFault_fuses, writeGatherer_fuses, writeIngest_fuses, writeEgress_fuses, writeBaulk_fuses, writeStCmd_fuses]
    | split
    | (intro h1; obtain ⟨rfl, rfl⟩ := Prod.mk.inj h1)
    | (intro h1; obtain rfl := Option.some.inj h1)
    | (intro _)
    | refine Eq.trans (admin2_fuses _ _ _ ?_) ?_
    | refine Eq.trans (fuses_foldl ?_ _ _) ?_
    | refine Eq.trans (fuses_foldl_snd ?_ _ _) ?_
    | refine Eq.trans (fuses_foldl_fst ?_ _ _) ?_
    | refine Eq.trans (admin2_fuses _ _ _ ?_) ?_
    | exact Eq.symm (by simp only [execDmaRingOwnerWrite_fuses, retrain_fuses, execDrcDiagRelease_fuses, execGrnSpillWrite_fuses, execFieldEnable_fuses, execFieldDisable_fuses, rowWrite2_fuses, writeHi_fuses, writeLo_fuses, writeHldt_fuses, writeYoke_fuses, writeFault_fuses, writeGatherer_fuses, writeIngest_fuses, writeEgress_fuses, writeBaulk_fuses, writeStCmd_fuses]; with_reducible first | rfl | assumption)
    | simp only [id_eq]
    | dsimp only
    | contradiction

theorem writeAdmCtrl_fuses (hh : Nat) (v : Word) (s : State) :
    outFuses (writeAdmCtrl hh v s) s.fuses = s.fuses := by
  unfold writeAdmCtrl
  repeat' first
    | with_reducible rfl
    | with_reducible assumption
    | simp only [execHeartbeat_fuses, execPromote_fuses, execHandover_fuses, outFuses_next]
    | split
    | (intro _)
    | refine Eq.trans (thenDo_fuses _ _ ?_ (fun _ => ?_)) ?_
    | refine Eq.trans (thenDo_fuses _ _ ?_ (fun _ => ?_)) ?_
    | dsimp only

theorem writeRxCtrl_fuses (s : State) (hh i : Nat) (v : Word) :
    (writeRxCtrl s hh i v).fuses = s.fuses := by
  unfold writeRxCtrl
  repeat' first
    | with_reducible rfl
    | with_reducible assumption
    | simp only [State_put0_fuses, rxEnable_fuses]
    | split
    | (intro _)
    | dsimp only

theorem writeDmarCtrl_fuses (s : State) (hh r : Nat) (v : Word) :
    (writeDmarCtrl s hh r v).fuses = s.fuses := by
  unfold writeDmarCtrl
  repeat' first
    | with_reducible rfl
    | with_reducible assumption
    | simp only [State_put0_fuses, ringEnable_fuses, ringDisable_fuses]
    | split
    | (intro _)
    | dsimp only

theorem rowWrite0_fuses (s : State) (hh a : Nat) (v : Word) :
    (rowWrite0 s hh a v).fuses = s.fuses := by
  unfold rowWrite0
  repeat' first
    | with_reducible rfl
    | with_reducible assumption
    | simp only [State_w0_fuses]
    | split
    | (intro _)
    | dsimp only

theorem rowWriteC_fuses (s : State) (hh a : Nat) (v : Word) :
    (rowWriteC s hh a v).fuses = s.fuses := by
  unfold rowWriteC
  repeat' first
    | with_reducible rfl
    | with_reducible assumption
    | simp only [State_wch_fuses]
    | split
    | (intro _)
    | dsimp only

theorem writeIgf_fuses (hh a : Nat) (v : Word) (s : State) :
    outFuses (writeIgf hh a v s) s.fuses = s.fuses := by
  unfold writeIgf
  repeat' first
    | with_reducible rfl
    | with_reducible assumption
    | simp only [State_setVac_fuses, execIgfComplete_fuses, execIgfMaskSet_fuses, execIgfMaskClr_fuses, execIgfPendSet_fuses, execIgfPendClr_fuses, execIgfCoalWrite_fuses, execIgfRouteWrite_fuses, rowWrite0_fuses, outFuses_next, outFuses_done]
    | split
    | (intro _)
    | dsimp only

theorem writeRing_fuses (hh a : Nat) (v : Word) (s : State) :
    outFuses (writeRing hh a v s) s.fuses = s.fuses := by
  unfold writeRing
  repeat' first
    | with_reducible rfl
    | with_reducible assumption
    | simp only [execDmarPoke_fuses, writeDmarCtrl_fuses, outFuses_next]
    | split
    | (intro _)
    | dsimp only

theorem writeRx_fuses (hh a : Nat) (v : Word) (s : State) :
    outFuses (writeRx hh a v s) s.fuses = s.fuses := by
  unfold writeRx
  repeat' first
    | with_reducible rfl
    | with_reducible assumption
    | simp only [execRxrCiWrite_fuses, writeRxCtrl_fuses, outFuses_next]
    | split
    | (intro _)
    | dsimp only

theorem writeOne0_fuses (hh a : Nat) (v : Word) (s : State) :
    outFuses (writeOne0 hh a v s) s.fuses = s.fuses := by
  unfold writeOne0
  repeat' first
    | with_reducible rfl
    | with_reducible assumption
    | simp only [State_w0_fuses, execAdmqEnable_fuses, execAdmqDisable_fuses, execChnByhandle_fuses, execChnLatClr_fuses, writeAdmCtrl_fuses, rowWrite0_fuses, outFuses_next]
    | split
    | (intro _)
    | dsimp only

theorem writeGroup0_fuses (hh a : Nat) (v : Word) (s : State) :
    outFuses (writeGroup0 hh a v s) s.fuses = s.fuses := by
  unfold writeGroup0
  repeat' first
    | with_reducible rfl
    | with_reducible assumption
    | simp only [execSqDoorbell_fuses, execCqDoorbell_fuses, releaseMsgs_fuses, execEgfPiWrite_fuses, rowWrite0_fuses, rowWriteC_fuses, writeIgf_fuses, writeRing_fuses, writeRx_fuses, writeOne0_fuses, outFuses_next]
    | split
    | (intro _)
    | dsimp only

theorem write0_fuses (hh a : Nat) (v : Word) (s : State) :
    outFuses (write0 hh a v s) s.fuses = s.fuses := by
  unfold write0
  repeat' first
    | with_reducible rfl
    | with_reducible assumption
    | simp only [writeHi_fuses, writeLo_fuses, writeGroup0_fuses, outFuses_next]
    | split
    | (intro _)
    | dsimp only

theorem writePvSqCtl_fuses (s : State) (hh q : Nat) (v : Word) :
    (writePvSqCtl s hh q v).fuses = s.fuses := by
  unfold writePvSqCtl
  repeat' first
    | with_reducible rfl
    | with_reducible assumption
    | simp only [State_w0_fuses]
    | split
    | (intro _)
    | dsimp only

theorem writePvPort_fuses (hh p o : Nat) (v : Word) (s : State) :
    outFuses (writePvPort hh p o v s) s.fuses = s.fuses := by
  unfold writePvPort
  repeat' first
    | with_reducible rfl
    | with_reducible assumption
    | simp only [State_w0_fuses, execPvPortEnable_fuses, outFuses_next]
    | split
    | (intro _)
    | dsimp only

theorem writePv_fuses (hh a : Nat) (v : Word) (s : State) :
    outFuses (writePv hh a v s) s.fuses = s.fuses := by
  unfold writePv
  repeat' first
    | with_reducible rfl
    | with_reducible assumption
    | simp only [State_w0_fuses, releaseMsgs_fuses, execPvRun_fuses, execPvReset_fuses, execPvSqTailWrite_fuses, execPvCqHeadWrite_fuses, execPvIntStatusClear_fuses, execPvIntMaskWrite_fuses, execPvIntCoalWrite_fuses, writeHi_fuses, writeLo_fuses, writePvSqCtl_fuses, writePvPort_fuses, outFuses_next]
    | split
    | (intro _)
    | refine Eq.trans (thenDo_fuses _ _ ?_ (fun _ => ?_)) ?_
    | refine Eq.trans (thenDo_fuses _ _ ?_ (fun _ => ?_)) ?_
    | dsimp only

theorem apWrite_fuses (s : State) (hh a : Nat) (v : Word) :
    (apWrite s hh a v).fuses = s.fuses := by
  unfold apWrite
  repeat' first
    | with_reducible rfl
    | with_reducible assumption
    | simp only [writeDev_fuses]
    | split
    | (intro _)
    | dsimp only

theorem writeDword_fuses (hh bar a : Nat) (v : Word) (s : State) :
    outFuses (writeDword hh bar a v s) s.fuses = s.fuses := by
  unfold writeDword
  repeat' first
    | with_reducible rfl
    | with_reducible assumption
    | simp only [State_w0_fuses, write2_fuses, write0_fuses, writePv_fuses, apWrite_fuses, outFuses_next]
    | split
    | (intro _)
    | dsimp only

theorem gives_fuses (s : State) (v : DWord) :
    (gives s v).fuses = s.fuses := by
  unfold gives
  repeat' first
    | with_reducible rfl
    | with_reducible assumption
    | split
    | (intro _)
    | dsimp only

theorem readDword_fuses (hh bar a : Nat) (s : State) :
    outFuses (readDword hh bar a s) s.fuses = s.fuses := by
  unfold readDword
  repeat' first
    | with_reducible rfl
    | with_reducible assumption
    | simp only [State_modHd_fuses, execIgfClaim_fuses, gives_fuses, outFuses_next]
    | split
    | (intro _)
    | dsimp only

theorem windowRead_fuses (s : State) (bar a : Nat) :
    (windowRead s bar a).fuses = s.fuses := by
  unfold windowRead
  repeat' first
    | with_reducible rfl
    | with_reducible assumption
    | simp only [gives_fuses, State_takeFree_fuses2]
    | split
    | (intro _)
    | refine Eq.trans (State_takeFree_fuses (by assumption)) ?_
    | refine Eq.trans (State_takeFree_fuses (by assumption)) ?_
    | dsimp only

theorem barredRead_fuses (s : State) (hh bar a : Nat) :
    (barredRead s hh bar a).fuses = s.fuses := by
  unfold barredRead
  repeat' first
    | with_reducible rfl
    | with_reducible assumption
    | exact Eq.symm (by with_reducible assumption)
    | simp only [gives_fuses, windowRead_fuses]
    | split
    | (intro h1; obtain ⟨rfl, rfl⟩ := Prod.mk.inj h1)
    | (intro h1; obtain rfl := Option.some.inj h1)
    | (intro _)
    | refine Eq.trans (adminWrite_fuses _ _ _ ?_) ?_
    | refine Eq.trans (fuses_foldl ?_ _ _) ?_
    | refine Eq.trans (fuses_foldl_snd ?_ _ _) ?_
    | refine Eq.trans (fuses_foldl_fst ?_ _ _) ?_
    | refine Eq.trans (adminWrite_fuses _ _ _ ?_) ?_
    | exact Eq.symm (by simp only [gives_fuses, windowRead_fuses]; with_reducible first | rfl | assumption)
    | simp only [id_eq]
    | dsimp only
    | contradiction

theorem execReg64LoRead_fuses (hh bar off : Nat) (s : State) :
    outFuses (execReg64LoRead hh bar off s) s.fuses = s.fuses := by
  unfold execReg64LoRead
  repeat' first
    | with_reducible rfl
    | with_reducible assumption
    | simp only [readDword_fuses, barredRead_fuses, outFuses_next]
    | split
    | (intro _)
    | dsimp only

theorem readQword_fuses (hh bar a : Nat) (s : State) :
    outFuses (readQword hh bar a s) s.fuses = s.fuses := by
  unfold readQword
  repeat' first
    | with_reducible rfl
    | with_reducible assumption
    | simp only [gives_fuses, readDword_fuses, outFuses_next]
    | split
    | (intro _)
    | refine Eq.trans (thenDo_fuses _ _ ?_ (fun _ => ?_)) ?_
    | refine Eq.trans (thenDo_fuses _ _ ?_ (fun _ => ?_)) ?_
    | dsimp only

theorem writeQword_fuses (hh bar a : Nat) (v : DWord) (s : State) :
    outFuses (writeQword hh bar a v s) s.fuses = s.fuses := by
  unfold writeQword
  split
  · have h1 := commitPair_fuses hh bar a v (dropLow s hh bar a)
    rwa [dropLow_fuses] at h1
  · split
    · rfl
    · exact thenDo_fuses _ _ (writeDword_fuses ..) (fun _ => writeDword_fuses ..)

theorem execReg64AtomicAccess_fuses (hh bar off : Nat) (wr : Option DWord) (s : State) :
    outFuses (execReg64AtomicAccess hh bar off wr s) s.fuses = s.fuses := by
  unfold execReg64AtomicAccess
  repeat' first
    | with_reducible rfl
    | with_reducible assumption
    | exact Eq.symm (by with_reducible assumption)
    | simp only [writeDword_fuses, barredRead_fuses, readQword_fuses, writeQword_fuses, outFuses_next]
    | split
    | (intro h1; obtain ⟨rfl, rfl⟩ := Prod.mk.inj h1)
    | (intro h1; obtain rfl := Option.some.inj h1)
    | (intro _)
    | refine Eq.trans (adminWrite_fuses _ _ _ ?_) ?_
    | refine Eq.trans (thenDo_fuses _ _ ?_ (fun _ => ?_)) ?_
    | refine Eq.trans (fuses_foldl ?_ _ _) ?_
    | refine Eq.trans (fuses_foldl_snd ?_ _ _) ?_
    | refine Eq.trans (fuses_foldl_fst ?_ _ _) ?_
    | refine Eq.trans (adminWrite_fuses _ _ _ ?_) ?_
    | refine Eq.trans (thenDo_fuses _ _ ?_ (fun _ => ?_)) ?_
    | exact Eq.symm (by simp only [writeDword_fuses, barredRead_fuses, readQword_fuses, writeQword_fuses, outFuses_next]; with_reducible first | rfl | assumption)
    | simp only [id_eq]
    | dsimp only
    | contradiction

theorem execReg64LoWrite_fuses (hh bar off : Nat) (v : Word) (s : State) :
    outFuses (execReg64LoWrite hh bar off v s) s.fuses = s.fuses := by
  unfold execReg64LoWrite
  repeat' first
    | with_reducible rfl
    | with_reducible assumption
    | simp only [writeLo_fuses, outFuses_next]
    | split
    | (intro _)
    | dsimp only

theorem execReg64HiWrite_fuses (hh bar off : Nat) (v : Word) (s : State) :
    outFuses (execReg64HiWrite hh bar off v s) s.fuses = s.fuses := by
  unfold execReg64HiWrite
  repeat' first
    | with_reducible rfl
    | with_reducible assumption
    | simp only [writeHi_fuses, outFuses_next]
    | split
    | (intro _)
    | dsimp only

theorem execRegisterWrite_fuses (hh bar off : Nat) (v : Word) (s : State) :
    outFuses (execRegisterWrite hh bar off v s) s.fuses = s.fuses := by
  unfold execRegisterWrite
  repeat' first
    | with_reducible rfl
    | with_reducible assumption
    | simp only [writeDword_fuses]
    | split
    | (intro _)
    | dsimp only

theorem execCounterSatClear_fuses (hh bar off : Nat) (s : State) :
    outFuses (execCounterSatClear hh bar off s) s.fuses = s.fuses := by
  unfold execCounterSatClear
  repeat' first
    | with_reducible rfl
    | with_reducible assumption
    | simp only [writeDword_fuses, outFuses_next]
    | split
    | (intro _)
    | dsimp only

end Sys2Proof.Machine
end

