-- ==== Sys2Proof/Laws/Issue.lean ====
section
/-! SUPPORT. What an issue does (R78): the issue is counted, then the instruction has its own effect. -/

namespace Sys2Proof.Machine

@[simp] theorem countIssue_sys_same (s : State) (k : Nat) : (countIssue s k).sys = s.sys := by simp [countIssue]
@[simp] theorem countIssue_tim (s : State) (k : Nat) : (countIssue s k).tim = s.tim := by simp [countIssue]
@[simp] theorem countIssue_b0 (s : State) (k : Nat) : (countIssue s k).b0 = s.b0 := by simp [countIssue]
@[simp] theorem countIssue_bc (s : State) (k : Nat) : (countIssue s k).bc = s.bc := by simp [countIssue]
@[simp] theorem countIssue_hold (s : State) (k : Nat) : (countIssue s k).hold = s.hold := by simp [countIssue]
@[simp] theorem countIssue_adm (s : State) (k : Nat) : (countIssue s k).adm = s.adm := by simp [countIssue]
@[simp] theorem countIssue_hport (s : State) (k : Nat) : (countIssue s k).hport = s.hport := by simp [countIssue]
@[simp] theorem countIssue_intr (s : State) (k : Nat) : (countIssue s k).intr = s.intr := by simp [countIssue]
@[simp] theorem countIssue_flt (s : State) (k : Nat) : (countIssue s k).flt = s.flt := by simp [countIssue]
@[simp] theorem countIssue_vid (s : State) (k : Nat) : (countIssue s k).vid = s.vid := by simp [countIssue]
@[simp] theorem countIssue_grn (s : State) (k : Nat) : (countIssue s k).grn = s.grn := by simp [countIssue]
@[simp] theorem countIssue_dma (s : State) (k : Nat) : (countIssue s k).dma = s.dma := by simp [countIssue]
@[simp] theorem countIssue_ing (s : State) (k : Nat) : (countIssue s k).ing = s.ing := by simp [countIssue]
@[simp] theorem countIssue_egr (s : State) (k : Nat) : (countIssue s k).egr = s.egr := by simp [countIssue]
@[simp] theorem countIssue_drm (s : State) (k : Nat) : (countIssue s k).drm = s.drm := by simp [countIssue]
@[simp] theorem countIssue_yoke (s : State) (k : Nat) : (countIssue s k).yoke = s.yoke := by simp [countIssue]
@[simp] theorem countIssue_baulk (s : State) (k : Nat) : (countIssue s k).baulk = s.baulk := by simp [countIssue]
@[simp] theorem countIssue_pv (s : State) (k : Nat) : (countIssue s k).pv = s.pv := by simp [countIssue]
@[simp] theorem countIssue_out (s : State) (k : Nat) : (countIssue s k).out = s.out := by simp [countIssue]
@[simp] theorem countIssue_readData (s : State) (k : Nat) : (countIssue s k).readData = s.readData := by simp [countIssue]
@[simp] theorem countIssue_free (s : State) (k : Nat) : (countIssue s k).free = s.free := by simp [countIssue]
@[simp] theorem countIssue_pending (s : State) (k : Nat) : (countIssue s k).pending = s.pending := by simp [countIssue]
@[simp] theorem setCtx_job_sq (s : State) (k : Nat) (x : Ctx) : (s.setCtx k x).job.sq = s.job.sq := rfl
@[simp] theorem modCtx_job_sq (s : State) (k : Nat) (g : Ctx → Ctx) : (s.modCtx k g).job.sq = s.job.sq := rfl
@[simp] theorem setCtx_job_cq (s : State) (k : Nat) (x : Ctx) : (s.setCtx k x).job.cq = s.job.cq := rfl
@[simp] theorem modCtx_job_cq (s : State) (k : Nat) (g : Ctx → Ctx) : (s.modCtx k g).job.cq = s.job.cq := rfl
@[simp] theorem setCtx_job_work (s : State) (k : Nat) (x : Ctx) : (s.setCtx k x).job.work = s.job.work := rfl
@[simp] theorem modCtx_job_work (s : State) (k : Nat) (g : Ctx → Ctx) : (s.modCtx k g).job.work = s.job.work := rfl
@[simp] theorem setCtx_job_nextWork (s : State) (k : Nat) (x : Ctx) : (s.setCtx k x).job.nextWork = s.job.nextWork := rfl
@[simp] theorem modCtx_job_nextWork (s : State) (k : Nat) (g : Ctx → Ctx) : (s.modCtx k g).job.nextWork = s.job.nextWork := rfl
@[simp] theorem setCtx_job_obj (s : State) (k : Nat) (x : Ctx) : (s.setCtx k x).job.obj = s.job.obj := rfl
@[simp] theorem modCtx_job_obj (s : State) (k : Nat) (g : Ctx → Ctx) : (s.modCtx k g).job.obj = s.job.obj := rfl
@[simp] theorem setCtx_job_gen (s : State) (k : Nat) (x : Ctx) : (s.setCtx k x).job.gen = s.job.gen := rfl
@[simp] theorem modCtx_job_gen (s : State) (k : Nat) (g : Ctx → Ctx) : (s.modCtx k g).job.gen = s.job.gen := rfl
@[simp] theorem setCtx_job_sem (s : State) (k : Nat) (x : Ctx) : (s.setCtx k x).job.sem = s.job.sem := rfl
@[simp] theorem modCtx_job_sem (s : State) (k : Nat) (g : Ctx → Ctx) : (s.modCtx k g).job.sem = s.job.sem := rfl
@[simp] theorem setCtx_job_bar (s : State) (k : Nat) (x : Ctx) : (s.setCtx k x).job.bar = s.job.bar := rfl
@[simp] theorem modCtx_job_bar (s : State) (k : Nat) (g : Ctx → Ctx) : (s.modCtx k g).job.bar = s.job.bar := rfl
@[simp] theorem countIssue_job_sq (s : State) (k : Nat) : (countIssue s k).job.sq = s.job.sq := by simp [countIssue]
@[simp] theorem countIssue_job_cq (s : State) (k : Nat) : (countIssue s k).job.cq = s.job.cq := by simp [countIssue]
@[simp] theorem countIssue_job_work (s : State) (k : Nat) : (countIssue s k).job.work = s.job.work := by simp [countIssue]
@[simp] theorem countIssue_job_nextWork (s : State) (k : Nat) : (countIssue s k).job.nextWork = s.job.nextWork := by simp [countIssue]
@[simp] theorem countIssue_job_obj (s : State) (k : Nat) : (countIssue s k).job.obj = s.job.obj := by simp [countIssue]
@[simp] theorem countIssue_job_gen (s : State) (k : Nat) : (countIssue s k).job.gen = s.job.gen := by simp [countIssue]
@[simp] theorem countIssue_job_sem (s : State) (k : Nat) : (countIssue s k).job.sem = s.job.sem := by simp [countIssue]
@[simp] theorem countIssue_job_bar (s : State) (k : Nat) : (countIssue s k).job.bar = s.job.bar := by simp [countIssue]

theorem ctx_setJob (s : State) (j : Jobs) (k : Nat) : (s.setJob j).ctx k = tget j.ctx k := rfl

theorem ctx_of_job {s t : State} (h : t.job = s.job) (k : Nat) : t.ctx k = s.ctx k := by unfold State.ctx; rw [h]

theorem countIssue_ctxs (s : State) (k : Nat) :
    (countIssue s k).job.ctx = tmod s.job.ctx k fun x => { x with last := s.job.nextIssue } := by
  unfold countIssue
  simp only [setJob_job, State.modCtx, addq2_job]

/-- The context that an issue counts. -/
theorem countIssue_ctx {s : State} {k : Nat} {x : Ctx} (h : s.ctx k = some x) :
    (countIssue s k).ctx k = some (issuedCtx s x) := by
  have h' : tget s.job.ctx k = some x := h
  unfold State.ctx
  rw [countIssue_ctxs, tget_tmod_same, h']
  rfl

theorem countIssue_ctx_ne (s : State) {k j : Nat} (n : j ≠ k) : (countIssue s k).ctx j = s.ctx j := by
  unfold State.ctx
  rw [countIssue_ctxs, tget_tmod_ne _ _ n]

theorem countIssue_b2 (s : State) (k : Nat) : (countIssue s k).b2 = (s.addq2 (A.drl (k / 32) + 8) 1).b2 := by
  unfold countIssue
  simp only [setJob_b2, modCtx_b2]

theorem addq2_r2_ne (s : State) {a b : Nat} (n : Nat) (h1 : b ≠ a) (h2 : b ≠ a + 4) : (s.addq2 a n).r2 b = s.r2 b := by
  unfold State.addq2 State.wq2
  rw [r2_w2_ne _ _ h2, r2_w2_ne _ _ h1]

/-- An instruction that issues has its own effect on the state after the issue. -/
theorem issue_eq {s : State} {f c op : Nat} {x : Ctx} {i : Ins} (h : Issues s f c op x i) (is : Ins → Bool)
    (hi : is i = true) (body : State → Nat → Ctx → Ins → State) :
    issue op is f c s body = body (countIssue s (ckey f c)) (ckey f c) (issuedCtx s x) i := by
  obtain ⟨h1, h2, h3, h4, h5, h6, h7, h8⟩ := h
  unfold issue
  simp only [h1, h2, h3, h4, h6, h7, h8, hi, Bool.and_self, if_true, decide_true]
  split at h5
  · rename_i fm hf
    simp only [hf, h5, if_true, countIssue_ctx h1]
  · cases h5

theorem issueCtx_eq {s : State} {f c op : Nat} {x : Ctx} {i : Ins} (h : Issues s f c op x i) (g : Ctx → Ins → Ctx) :
    issueCtx op anyIns f c s g =
      (countIssue s (ckey f c)).setCtx (ckey f c) (step1 (g (issuedCtx s x) i) i) := by
  unfold issueCtx
  exact issue_eq h anyIns rfl _

/-- FLD_DRL_ISSUED is the only register that an issue changes. -/
theorem countIssue_r2 (s : State) (f c : Nat) (hc : c < 32) {a : Nat} (h1 : a ≠ A.drl f + 8) (h2 : a ≠ A.drl f + 12) :
    (countIssue s (ckey f c)).r2 a = s.r2 a := by
  have hk : ckey f c / 32 = f := by unfold ckey; omega
  rw [r2_congr (countIssue_b2 s _), hk]
  exact addq2_r2_ne s 1 h1 (by omega)

/-- An instruction that changes only its context. -/
theorem onlyCtx_setCtx (s : State) (f c : Nat) (hc : c < 32) (y : Ctx) :
    OnlyCtx s ((countIssue s (ckey f c)).setCtx (ckey f c) y) f c := by
  refine ⟨?_, ?_, ?_, ?_, ?_, ?_, ?_⟩
  · simp [SameParts]
  · simp [SameRegs]
  · simp
  · simp [SameJobs]
  · intro j hj
    rw [ctx_setCtx_ne _ _ hj]
    exact countIssue_ctx_ne s hj
  · intro a h1 h2
    rw [r2_congr (setCtx_b2 ..)]
    exact countIssue_r2 s f c hc h1 h2
  · intro h off
    unfold readDev devAddr
    simp

theorem modCtx_some {s : State} {k : Nat} {x : Ctx} (g : Ctx → Ctx) (h : s.ctx k = some x) : s.modCtx k g = s.setCtx k (g x) := by
  have h' : tget s.job.ctx k = some x := h
  unfold State.modCtx State.setCtx tmod
  rw [h']

theorem tset_tset {α : Type} (t : Tab α) (k : Nat) (x y : α) : tset (tset t k x) k y = tset t k y := by
  induction t with
  | nil => simp [tset]
  | cons p t ih =>
    obtain ⟨a, b⟩ := p
    by_cases h1 : k < a
    · simp [tset, h1]
    · by_cases h2 : k = a
      · simp [tset, h2]
      · simp [tset, h1, h2, ih]

theorem setCtx_setCtx (s : State) (k : Nat) (x y : Ctx) : (s.setCtx k x).setCtx k y = s.setCtx k y := by
  unfold State.setCtx State.setJob
  dsimp only
  rw [tset_tset]

theorem faultJob_issued {s : State} {f c : Nat} {x : Ctx} (code : Nat) (h : s.ctx (ckey f c) = some x) :
    faultJob (countIssue s (ckey f c)) (ckey f c) code =
      (countIssue s (ckey f c)).setCtx (ckey f c)
        { issuedCtx s x with ended := some (code, w64 (x.pc % 65536)), wait := .none, fault := true } := by
  unfold faultJob
  rw [countIssue_ctx h]
  unfold faultAt endJob
  dsimp only
  rw [modCtx_some _ (countIssue_ctx h), modCtx_some _ (ctx_setCtx_same ..), setCtx_setCtx]
  rfl

/-- A job's fault changes its own context and nothing else (R84). -/
theorem faults_faultJob (s : State) (f c : Nat) (hc : c < 32) (x : Ctx) (code : Nat) (h : s.ctx (ckey f c) = some x) :
    Faults s (faultJob (countIssue s (ckey f c)) (ckey f c) code) f c x code := by
  rw [faultJob_issued code h]
  exact ⟨_, ctx_setCtx_same .., rfl, rfl, ⟨rfl, rfl, rfl, rfl, rfl, rfl⟩, onlyCtx_setCtx s f c hc _⟩

/-- The second operand of an instruction: the I form's IMM, or a register (R75). -/
theorem opB_eq (s : State) (x : Ctx) (i : Ins) :
    (issuedCtx s x).opB i = if i.mod % 2 = 1 then i.imm.signExtend 64 else x.gr i.b := by
  unfold Ctx.opB
  rw [Nat.testBit_zero]
  by_cases h : i.mod % 2 = 1 <;> simp [h] <;> rfl

end Sys2Proof.Machine
end

