-- ==== Sys2Proof/Laws/Memory.lean ====
section
/-! SUPPORT. Every operation of memory keeps its canonical form: those of Laws/Tables, and the granule that is zeroed and the
burst that a link loses. -/

namespace Sys2Proof.Machine

theorem rising_filter {α : Type} {t : Tab α} (p : Nat × α → Bool) (h : Tab.rising t = true) : Tab.rising (t.filter p) = true := by
  induction t with
  | nil => rfl
  | cons q t ih =>
    obtain ⟨a, v⟩ := q
    rw [rising_cons] at h
    by_cases hp : p (a, v)
    · rw [List.filter_cons_of_pos hp, rising_cons]
      exact ⟨fun r hr => h.1 r (List.mem_filter.1 hr).1, ih h.2⟩
    · rw [List.filter_cons_of_neg hp]
      exact ih h.2

/-- A zeroed granule lists nothing, and the rest of memory is as it was (R390). -/
theorem zeroGranule_wf {d : Drm} (g : Nat) (h : Memory.wf d.mem = true) : Memory.wf (zeroGranule d g).mem = true := by
  unfold Memory.wf bankWf zeroGranule at *
  simp only [Bool.and_eq_true, List.all_eq_true, decide_eq_true_eq] at *
  exact ⟨rising_filter _ h.1, fun p hp => h.2 p (List.mem_filter.1 hp).1⟩

@[simp] theorem freeBytes_drm (s : State) (n : Nat) : (freeBytes s n).2.drm = s.drm := rfl

/-- A burst that a link loses holds free bytes (R404). -/
theorem lostBurst_wf {s : State} (a : Nat) (h : Memory.wf s.drm.mem = true) : Memory.wf (lostBurst s a).drm.mem = true := by
  unfold lostBurst
  exact writeBytes_wf _ _ h

/-- Memory right after reset lists nothing. -/
theorem reset_mem_wf : Memory.wf State.reset.drm.mem = true := rfl

end Sys2Proof.Machine
end

