-- ==== Sys2Proof/WellFormed.lean ====
section
/-! DEFINITION. Which commands are well formed: every number lies in the range the spec gives what it names. A command that is
not well formed names nothing of the block. -/

namespace Sys2Proof

/-- Holdings 0 to 31 (R20). -/
def holdOk (h : Nat) : Bool := decide (h < 32)
/-- Fields 0 to 7 (R6). -/
def fieldOk (f : Nat) : Bool := decide (f < 8)
/-- A job context: Drill of a Field, contexts 0 to 31 (R69). -/
def ctxOk (f c : Nat) : Bool := fieldOk f && decide (c < 32)
/-- Channels 0 to 255 (R167). -/
def chanOk (c : Nat) : Bool := decide (c < 256)
/-- USB4 ports 0 and 1 (R42). -/
def hostPortOk (p : Nat) : Bool := decide (p < 2)
/-- Network ports 0 to 7 (R314). -/
def netPortOk (p : Nat) : Bool := decide (p < 8)
/-- Baulk ports 0 to 2 (R474). -/
def baulkPortOk (p : Nat) : Bool := decide (p < 3)
/-- Local queue ids 0 to 1023 (R118). -/
def queueOk (q : Nat) : Bool := decide (q < 1024)
/-- MSI-X vectors 0 to 63 (R158). -/
def vectorOk (v : Nat) : Bool := decide (v < 64)
/-- Egress flows 0 to 255 (R370). -/
def flowOk (e : Nat) : Bool := decide (e < 256)
/-- BAR0 of 64 KiB, BAR1 of 256 MiB, BAR2 of 32 MiB, dword aligned (R51, R53). -/
def regOk (bar off : Nat) : Bool :=
  off % 4 = 0 && match bar with | 0 => decide (off < 0x10000) | 1 => decide (off < 0x10000000) | 2 => decide (off < 0x2000000) | _ => false

/-- The command is well formed. -/
def Instr.wf : Instr → Bool
  | .powerOnReset _ | .bootStart _ | .sysrstN | .powerLoss | .mpWatchdog | .admLeaseExpiry | .dmaReadTimeout _
  | .dmaReadErrorCompletion _ | .ldComplete _ _ | .decRowPublish _ _ _ _ | .decPicComplete _ _
  | .decodeCeilingReached _ _ | .decodeDeadlineExpiry _ _ | .encPicComplete _ _ | .encLadderComplete _ _
  | .analyzeComplete _ _ | .scaleComplete _ | .convertComplete _ | .statsComplete _ | .dmaMoveComplete _ _
  | .ingTblCmdComplete | .granaryWaitResume _ _ | .egressDepthSample | .dramReadReturn _ _
  | .dramRetrainDone _ _ | .scrubBurst _ _ | .yokeGrantAdmit _ | .yokeRecallDone _ | .rampStep
  | .uncoreWakeDone | .envelopeFitTimeout | .voutPoll _ | .voutSettleTimeout | .envelopeChangeDone
  | .ioutSample _ | .yokeCalUpdate | .fallowTaskStart _ _ _ | .tempSample _ | .fcSelfMismatch
  | .selftestDone _ _ | .poolHeartbeat | .poolGatherEnd | .poolLeaderLost | .bkSyncDrive | .bkSyncEdge
  | .bkSyncLost | .sysrstNRelease _ => true
  | .bootWindowGo w _ _ _ | .heartbeat w | .promote w | .handover w | .ingTblRead w _ | .ingTblInsert w _
  | .ingTblDelete w _ | .grnSpillWrite w _ | .egrObsClr w _ | .drcDiagRelease w | .envelopeChange w _
  | .yokeCeilingWrite w _ | .dtbStepWrite w _ | .dtbSetWrite w _ | .fcThresholdWrite w _ | .fcResume w
  | .fcFfClear w | .selftestPll w | .selftestTemp w | .selftestRepairBurn w | .poolEnable w _
  | .poolWantWrite w _ => holdOk w
  | .functionPresent h | .functionLevelReset h | .d3hotToD0 h | .d0ToD3hot h | .teardownPictureCutoff h
  | .teardownComplete h | .pcieUnsupportedRequest h | .bar2DeniedAccess h _ | .partialDwordWrite h
  | .admqEnable h _ | .admqDisable h _ | .createCq h | .createSq h | .deleteSq h | .deleteCq h | .setSqEnable h
  | .setSqDisable h | .getQueueStatus h | .igfMaskSet h _ | .igfMaskClr h _ | .igfPendSet h _ | .igfPendClr h _
  | .igfCoalWrite h _ | .igfRouteWrite h _ | .chnByhandle h _ | .excTokenRefill h | .granuleZeroDone h _ _
  | .chnLatClr h | .pvRun h _ | .pvReset h | .pvCqHeadWrite h _ | .pvIntStatusClear h _ | .pvIntMaskWrite h _
  | .pvIntCoalWrite h _ => holdOk h
  | .sriovNumvfsWrite p n => hostPortOk p && decide (n ≤ 15)
  | .holdingEnable w h _ | .holdingDisable w h _ | .pv16PortsWrite w h _ => holdOk w && holdOk h
  | .quotaWrite w h reg _ => holdOk w && holdOk h && decide (1 ≤ reg && reg ≤ 3)
  | .hostLinkTrain p gen _ => hostPortOk p && decide (2 ≤ gen && gen ≤ 4)
  | .hostLinkLoss p | .hostLinkRecover p | .clxExit p => hostPortOk p
  | .clxEntryRequest p dest _ _ => hostPortOk p && decide (1 ≤ dest && dest ≤ 3)
  | .hostPortRetrain w p => holdOk w && hostPortOk p
  | .reg64LoRead h bar off | .reg64AtomicAccess h bar off _ | .reg64LoWrite h bar off _
  | .reg64HiWrite h bar off _ | .registerWrite h bar off _ | .counterSatClear h bar off => holdOk h && regOk bar off
  | .jobPlace h q | .sqDoorbell h q _ | .cqDoorbell h q _ | .sqReadFail h q | .sqIdle h q => holdOk h && queueOk q
  | .issueStarvationOverride f c | .jobFinalCompletion f c | .jobFieldMove f c | .nop f c | .br f c | .call f c
  | .ret f c | .end_ f c | .sleep f c | .sleepWake f c | .add f c | .sub f c | .mul f c | .and f c | .or f c
  | .xor f c | .shl f c | .shr f c | .sar f c | .cmp f c | .mov f c | .movx f c | .ld f c | .st f c
  | .fence f c | .fenceComplete f c | .barrier f c | .barrierTimeout f c | .signal f c | .wait f c
  | .waitTimeout f c | .post f c | .irq f c | .sopen f c | .sopenGroup f c | .sopenMux f c | .sopenSem f c
  | .sopenBar f c | .sclose f c | .sparam f c | .sparamGet f c | .sparamHome f c | .sparamBitrate f c
  | .sparamForceIdr f c | .sparamRung f c | .sparamMuxMember f c | .sparamMuxRate f c | .sparamLadderDepth f c
  | .sparamBufFormat f c | .palloc f c | .pallocB f c _ | .pfree f c | .pmarkHold f c | .pmarkUnhold f c
  | .pltrSet f c | .pltrAck f c | .pltrLoss f c | .pltrDrop f c | .decPic f c | .spanGrantTimeout c f
  | .encPic f c | .encLadder f c | .analyze f c | .scale f c | .convert f c | .stats f c | .xfer f c
  | .fill f c | .pack f c | .packIn f c | .ingestBind f c | .egressBind f c | .claim f c | .claimTimeout f c
  | .release f c | .query f c | .yokeTimeout f c | .pvNop f c | .pvOpen f c | .pvClose f c | .pvBsIn f c _
  | .pvBsOut f c | .pvDecode f c | .pvEncode f c | .pvXcode f c | .unassignedOpcode f c => ctxOk f c
  | .programLineFetch f c line => ctxOk f c && decide (line.length ≤ 32)
  | .channelHomeMove c _ | .channelDrainComplete c | .encPictureStart c _ | .encRowCoded c _
  | .encTimeBudgetExpiry c | .egressItemTake c => chanOk c
  | .sqEntryTake h q es => holdOk h && queueOk q && decide (es.length ≤ 8 && es.all fun x => x.length == 8)
  | .sqPhaseRetry h q e => holdOk h && queueOk q && decide (e.length = 4 ∨ e.length = 8)
  | .igfClaim h v => holdOk h && vectorOk v
  | .igfComplete h vec _ => holdOk h && vectorOk vec
  | .igTargetWrite w n _ => holdOk w && decide (n < 2047)
  | .coalesceTimerExpiry n => decide (n < 2047)
  | .msixMaskRelease h v => holdOk h && decide (v ≤ 64)
  | .fieldEnable w f | .fieldDisable w f | .selftestField w f => holdOk w && fieldOk f
  | .fieldDrainDone f | .fieldWakeDone f | .fieldSelftestStart f => fieldOk f
  | .muxRateTick m => decide (m < 16)
  | .netPortEnable w p | .netPortDisable w p | .ingPauseSet w p | .ingPauseClear w p => holdOk w && netPortOk p
  | .ingQuadModeWrite w q _ => holdOk w && decide (q < 2)
  | .netLinkLoss p | .netLinkUp p | .ingestFrameReceive p _ _ _ | .ingestFrameClassify p | .ingPauseInForce p
  | .ingPauseExpiry p | .egressFrameStart p => netPortOk p
  | .reorderHoleTimeout t | .pathDownTimeout t _ => decide (t < 16384)
  | .ingTableWrite w off _ | .baulkExportWrite w off _ | .baulkImportWrite w off _ => holdOk w && decide (off % 4 = 0)
  | .meterCommit w m _ => holdOk w && decide (m < 4096)
  | .rxrEnable h r | .rxrCiWrite h r _ => holdOk h && decide (r < 32)
  | .dmaRingOwnerWrite w r _ => holdOk w && decide (r < 16)
  | .dmarEnable h r | .dmarDisable h r | .dmarPoke h r => holdOk h && decide (r < 16)
  | .dmaDescriptorFetch r d => decide (r < 16) && decide (d.length = 8)
  | .dmaDescriptorDone r _ => decide (r < 16)
  | .dmaStarvationTurn ch | .commandCheckError _ ch _ | .dramRetrainStart ch _ | .writeLinkEccError _ ch _ => decide (ch < 16)
  | .datagramHoldExpiry e | .pcrIntervalExpiry e => flowOk e
  | .psiRepeatDue e t => flowOk e && decide (t < 4)
  | .egfPiWrite h slot _ => holdOk h && decide (slot < 32)
  | .refreshDue ch rk _ _ | .mr4Poll ch rk _ | .rankPowerDown ch rk => decide (ch < 16) && decide (rk < 2)
  | .fieldIdleTimer f l => fieldOk f && decide (l ≤ 4)
  | .pllStopTimer k | .pllLockLoss k | .pllRelock k => decide (k < 15)
  | .uncoreLevelEntry l | .uncoreWake l => decide (l ≤ 4)
  | .laneRecal l => decide (l < 20)
  | .fcSevWrite w n _ => holdOk w && decide (n < 64)
  | .fcStatusClear w k _ => holdOk w && decide (k < 2)
  | .selftestSerdesNear w l | .selftestSerdesFar w l | .selftestSerdesFarStop w l => holdOk w && decide (l < 20)
  | .baulkPortEnable w p => holdOk w && baulkPortOk p
  | .baulkBringupRetry p | .readData p _ _ _ _ | .flush p _ | .ack p _ _ _ | .nak p _ | .baulkAckTimeout p
  | .baulkLaneLockLoss p | .baulkFrameCrcError p => baulkPortOk p
  | .link p d _ _ => baulkPortOk p && decide (d < 4)
  | .write p _ e _ data => baulkPortOk p && decide (e < 64) && decide (1 ≤ data.length && data.length ≤ 256)
  | .readReq p _ e _ len => baulkPortOk p && decide (e < 64) && decide (1 ≤ len && len ≤ 4096)
  | .signalFrame p _ e _ _ => baulkPortOk p && decide (e < 64)
  | .poolMessage dev _ _ _ => decide (dev < 4)
  | .pvSqTailWrite h q _ => holdOk h && decide (q < 16)
  | .pvDescriptorTake h d => holdOk h && decide (d.length = 8)
  | .pvPortEnable h p _ => holdOk h && decide (p < 4)

end Sys2Proof
end

