-- ==== Sys2Proof/Tests/Slice0.lean ====
section
/-! SUPPORT. Tests: one ill-formed command for each check of WellFormed, worked examples of the spec, and for every statement
concrete states and operands that meet its hypotheses, clause by clause. -/

namespace Sys2Proof.Tests

open Sys2Proof Sys2Proof.Machine

-- One theorem at a time: many of them at once take a thread each.
set_option Elab.async false

/-! States. -/

/-- An instruction word. -/
def word (op mod d a b : Nat) (imm : Nat := 0) (xw : Nat := 0) : DWord :=
  wordOf { op := op, xw := xw, mod := mod, d := d, a := a, b := b, rsv := 0, imm := BitVec.ofNat 32 imm }

/-- A channel block: a 64 × 64 AVC channel of a direction. -/
def blk (dir : Nat) (live : Bool) (rc : Nat := 0) : Blk :=
  { dir := dir, codec := 1, live := live, profile := 100, level := 10, chroma := 1, depth := 8, width := 64, height := 64, num := 25,
    den := 1, preset := 1, rcMode := rc, look := 0, pool := 20, bitrate := 60, maxrate := 64, bufsize := 0, gop := 30,
    fifoCells := 64, home := 255, span := 1, tier := 0 }

/-- Holding 0, ACTIVE. -/
def hold0 : Holding := { enable := true, present := true, st := .active, qChan := 8, qDram := 4, qYoke := 100 }

/-- A decode channel, an encode channel and a live encode channel. -/
def chanD : Chan := { hold := 0, blk := blk 0 false, slot := 0x100000, home := 0 }
def chanE : Chan := { hold := 0, blk := blk 1 false, slot := 0x100001, home := 0 }
def chanL : Chan := { hold := 0, blk := blk 1 true, slot := 0x100002, home := 0, ltr := [(1, { buf := 2, counter := 5 })] }

/-- A picture of 64 × 64 samples, a plain buffer with a format. -/
def bufP (c : Nat) (n : Nat := 0) : Buf :=
  { hold := 0, chan := some c, size := 12288, handles := n, hdr := { chroma := 1, cw := 64, ch := 64, ww := 64, wh := 64 } }
def bufB : Buf :=
  { hold := 0, pic := false, size := 16384, handles := 1, par := [(0x210, 64), (0x211, 64), (0x212, 1), (0x213, 8)] }

/-- Channels, their buffers, a plain buffer, groups. -/
def vid : Vid :=
  { chan := [(0, chanD), (1, chanE), (2, chanL)], buf := [(0, bufP 0 1), (1, bufP 1), (2, bufP 2), (3, bufB)], nextBuf := 4,
    grp := [(0, { hold := 0 })], mux := [(0, { hold := 0, rate := 1000 })] }

/-- An object of holding 0. -/
def obj (r : Nat) : Obj := { hold := 0, ref := r }

/-- Queues 1 of holding 0, and objects: handles of every type. -/
def job : Jobs :=
  { sq := [(1, { num := 1, base := 0x10000, log2 := 6, cqid := 1 })], cq := [(1, { num := 1, base := 0x20000, log2 := 6 })],
    obj := [(0x100000, obj 0), (0x100001, obj 1), (0x100002, obj 2), (0x200000, obj 0), (0x300000, obj 3), (0x600000, obj 0),
            (0x700000, obj 0), (0x800000, obj 0), (0x900000, obj 0)],
    sem := [(0, { hold := 0, count := 2 })], bar := [(0, { hold := 0, parts := 2 })] }

/-- A device that runs: holding 0 ACTIVE with two granules, Field 0 awake. -/
def dev : State :=
  { State.reset with
    sys := { porst := false }
    hold := [(0, hold0)]
    hport := [(0, { up := true })]
    drm := { map := [(0, 0), (1, 1)], raw := 1024, self := false }
    yoke := { field := [(0, { fs := 0, clk := 10 })] }
    vid := vid
    job := job }

/-- A context of holding 0 with a program of two words. -/
def ctx0 (w : DWord) (v : DWord := 64) : Ctx :=
  { hold := 0, sqid := 1, tag := 7, cls := 7, tmo := 5, granted := true, plen := some 100, prog := [(0, w), (1, v)],
    g := [(1, 0x100), (2, 3), (3, 0x8000000000001000), (4, 0x20000), (5, 64), (6, 1), (7, 5)],
    k := [(0, 0x10000000), (1, 0x10000001), (2, 0x10000002), (3, 0x20000000), (5, 0x30000000), (6, 0x60000000), (7, 0x70000000),
          (8, 0x80000000), (9, 0x90000000)] }

/-- Context 0 of Field 0 runs `x`. -/
def runs (x : Ctx) : State := { dev with job := { job with ctx := [(0, x)] } }

/-- Context 0 of Field 0 has come to the word `w`. -/
abbrev at_ (w : DWord) : State := runs (ctx0 w)

/-- The Drill issues the word `w`. -/
abbrev Is (w : DWord) : Prop := Issues (at_ w) 0 0 (insOf w).op (ctx0 w) (insOf w)

/-- The part of `Issues` that is computed. -/
def issB (s : State) (x : Ctx) (w : DWord) : Bool :=
  let i := insOf w
  decide (nextIns x = some i) && formGood x i && (match formOf i with | some fm => reservedOk i fm | none => false) &&
    drillRuns s 0 && ready s (ckey 0 0) x i && picked s (ckey 0 0) x

theorem issues_of {s : State} {x : Ctx} (w : DWord) (hc : s.ctx (ckey 0 0) = some x) (h : issB s x w = true) :
    Issues s 0 0 (insOf w).op x (insOf w) := by
  simp only [issB, Bool.and_eq_true, decide_eq_true_eq] at h
  obtain ⟨⟨⟨⟨⟨h1, h2⟩, h3⟩, h4⟩, h5⟩, h6⟩ := h
  exact ⟨hc, h1, rfl, h2, h3, h4, h5, h6⟩

/-- The Drill issues each of these words. -/
theorem is_all (l : List DWord) (h : (l.all fun w => issB (at_ w) (ctx0 w) w) = true) : ∀ w ∈ l, Is w :=
  fun w hw => issues_of w rfl (List.all_eq_true.1 h w hw)

/-! The block, arithmetic and control flow. -/

theorem wit_step : { dev with pending := [.poolHeartbeat] }.pending = [.poolHeartbeat] := rfl

theorem wit_idle : dev.pending = [] ∧ dev.sys.porst = false ∧ dev.yoke.pl ≠ 4 ∧ dev.tim.set = none ∧ dev.tim.step = none ∧
    State.reset.sys.porst = true ∧ { dev.tim with set := some 5 }.set = some 5 ∧ { dev.tim with step := some 5 }.step = some 5 := by decide

theorem wit_alu : ∀ w ∈ [word 0x22 0 4 1 2, word 0x23 1 4 1 0 7, word 0x24 0 1 1 1, word 0x25 0 4 1 2, word 0x26 0 4 1 2,
    word 0x27 0 4 1 2, word 0x28 1 4 1 0 63, word 0x29 0 4 1 2, word 0x2A 1 4 1 0 1], Is w := is_all _ (by decide)

theorem wit_moves : ∀ w ∈ [word 0x2B 0 0 1 2, word 0x20 0 4 16 0, word 0x20 1 31 0 0 9, word 0x21 0 4 0 0 0 1], Is w :=
  is_all _ (by decide)

/-- A context with return addresses. -/
def stack4 (w : DWord) (l : List Nat) : Ctx := { ctx0 w with stack := l }

theorem wit_branches : (∀ w ∈ [word 0 0 0 0 0, word 1 10 0 0 0 5, word 2 0 0 0 0 100], Is w) ∧
    Issues (runs (stack4 (word 3 0 0 0 0) [7])) 0 0 3 (stack4 (word 3 0 0 0 0) [7]) (insOf (word 3 0 0 0 0)) ∧
    inProgram (ctx0 0) 100 ∧ inProgram (stack4 0 [7]) 7 :=
  ⟨is_all _ (by decide), issues_of _ rfl (by decide), by intro n h; cases h; decide, by intro n h; cases h; decide⟩

theorem wit_controlFaults : Issues (runs (stack4 (word 2 0 0 0 0 5) [1, 2, 3, 4])) 0 0 2 (stack4 (word 2 0 0 0 0 5) [1, 2, 3, 4])
      (insOf (word 2 0 0 0 0 5)) ∧ (ctx0 0).stack = [] ∧
    (∀ w ∈ [word 3 0 0 0 0, word 1 11 0 0 0 5, word 1 0 0 0 0 101, word 0x28 1 4 1 0 64, word 0x31 0 0 1 2 4], Is w) ∧
    ((ctx0 0).gr 1 + BitVec.signExtend 64 4#32).toNat % 8 ≠ 0 :=
  ⟨issues_of _ rfl (by decide), rfl, is_all _ (by decide), by decide⟩

theorem wit_unassigned : let w := word 0x10 0 0 0 0
    nextIns (ctx0 w) = some (insOf w) ∧ formGood (ctx0 w) (insOf w) = false ∧ drillRuns (at_ w) 0 = true ∧
      ready (at_ w) 0 (ctx0 w) (insOf w) = true ∧ picked (at_ w) 0 (ctx0 w) = true ∧ thas (at_ w).sys.dispatch 0x10 = false := by decide

/-- A context that sleeps. -/
def sleeps : Ctx := { ctx0 (word 5 0 0 1 0) with wait := .sleep 0 }

theorem wit_end : (∀ w ∈ [word 4 1 0 1 0, word 4 0 0 0 0, word 5 1 0 1 0, word 5 0 0 0 0], Is w) ∧
    (runs sleeps).ctx (ckey 0 0) = some sleeps ∧ sleeps.wait = .sleep 0 ∧ 0 ≤ (runs sleeps).tim.dtb.toNat :=
  ⟨is_all _ (by decide), rfl, rfl, Nat.zero_le _⟩

/-! Memory words, fences, synchronisation. -/

theorem wit_loads : (∀ w ∈ [word 0x30 0 4 1 0, word 0x30 1 4 3 0 4], Is w) ∧
    place (at_ 0) 0 ((ctx0 0).ea (insOf (word 0x30 0 4 1 0))) 8 = some (.dev 0x100) ∧
    place (at_ 0) 0 ((ctx0 0).ea (insOf (word 0x30 1 4 3 0 4))) 4 = some (.host 0x1004) ∧ (∀ r, Place.dev 0x100 ≠ .remote r) :=
  ⟨is_all _ (by decide), by decide, by decide, nofun⟩

/-- A load outstanding. -/
def loads (a : DWord) : State :=
  let s := runs (ctx0 0)
  { s with job := { s.job with work := [(0, { ctx := 0, hold := 0, kind := .ld a false, d := 4, engine := false, fcls := 0 })], nextWork := 1 } }

theorem wit_loadReturns : (loads 0x100).flt.safe = false ∧ place (loads 0x100) 0 0x100 8 = some (.dev 0x100) ∧
    devMapped (loads 0x100) 0 0x100 8 = true ∧ devPoison (loads 0x100) 0 0x100 8 = false ∧ (loads 0x100).ctx 0 = some (ctx0 0) ∧
    place (loads 0) 0 0x8000000000001000 8 = some (.host 0x1000) := ⟨rfl, by decide, by decide, by decide, rfl, by decide⟩

theorem wit_stores : (∀ w ∈ [word 0x31 0 0 1 2, word 0x31 1 0 3 2 4], Is w) ∧
    place (at_ 0) 0 ((ctx0 0).ea (insOf (word 0x31 0 0 1 2))) 8 = some (.dev 0x100) ∧ devMapped (at_ 0) 0 0x100 8 = true ∧
    place (at_ 0) 0 ((ctx0 0).ea (insOf (word 0x31 1 0 3 2 4))) 4 = some (.host 0x1004) :=
  ⟨is_all _ (by decide), by decide, by decide, by decide⟩

/-- A context at a FENCE. -/
def fences : Ctx := { ctx0 (word 0x40 0 0 0 0 0x102) with wait := .fence 1 2 }

theorem wit_fences : Is (word 0x40 0 0 0 0 0x102) ∧ (runs fences).ctx 0 = some fences ∧ fences.wait = .fence 1 2 ∧
    (∀ p ∈ (runs fences).job.work, p.2.ctx = 0 → fenceHits 1 p.2 = false) ∧ fences.bports = 0 ∧
    nextIns fences = some (insOf (word 0x40 0 0 0 0 0x102)) ∧ fences.ended = none := by
  exact ⟨is_all [_] (by decide) _ (List.mem_singleton.2 rfl), rfl, rfl, nofun, rfl, rfl, rfl⟩

theorem wit_semaphores : (∀ w ∈ [word 0x42 0 0 24 0 5, word 0x43 0 0 24 0 2, word 0x43 1 0 24 0 0x10003], Is w) ∧
    useHandle (at_ 0) 0 [8] ((ctx0 0).hnd 24) = some (obj 0) ∧ tget (at_ 0).job.sem 0 = some { hold := 0, count := 2 } :=
  ⟨is_all _ (by decide), rfl, rfl⟩

/-- A context that waits with a timeout, on a semaphore or a barrier. -/
def waits (w : Wait) : State :=
  let s := runs { ctx0 0 with wait := w }
  { s with job := { s.job with sem := [(0, { hold := 0, count := 0, waiters := [(0, 3)] })], bar := [(0, { hold := 0, parts := 2, arrived := [0] })] } }

theorem wit_waitTimeout : (waits (.sem 0 3 false true)).ctx (ckey 0 0) = some { ctx0 0 with wait := .sem 0 3 false true } ∧
    tget (waits (.sem 0 3 true true)).job.sem 0 = some { hold := 0, count := 0, waiters := [(0, 3)] } ∧
    tget (waits (.bar 0 true true)).job.bar 0 = some { hold := 0, parts := 2, arrived := [0] } := ⟨rfl, rfl, rfl⟩

/-- A barrier at which context 1 has arrived. -/
def arrived1 (w : DWord) : State :=
  let s := at_ w
  { s with job := { s.job with bar := [(0, { hold := 0, parts := 2, arrived := [1] })] } }

theorem wit_barriers : Is (word 0x41 0 0 25 0) ∧ useHandle (at_ 0) 0 [9] ((ctx0 0).hnd 25) = some (obj 0) ∧
    tget (at_ 0).job.bar 0 = some { hold := 0, parts := 2 } ∧
    Issues (arrived1 (word 0x41 1 0 25 0)) 0 0 0x41 (ctx0 (word 0x41 1 0 25 0)) (insOf (word 0x41 1 0 25 0)) ∧
    tget (arrived1 0).job.bar 0 = some { hold := 0, parts := 2, arrived := [1] } :=
  ⟨is_all [_] (by decide) _ (List.mem_singleton.2 rfl), rfl, rfl, issues_of _ rfl (by decide), rfl⟩

theorem wit_reports : Quiet (at_ 0) ∧ (∀ w ∈ [word 0x44 0 0 1 0, word 0x45 0 0 16 0], Is w) ∧ cqOf (at_ 0) 0 1 = 1 ∧
    ((tget (at_ 0).job.cq 1).map fun q => (q.dropOk, q.hold, q.isFull)) = some (false, [], false) ∧
    useHandle (at_ 0) 0 [1] ((ctx0 0).hnd 16) = some (obj 0) := ⟨rfl, is_all _ (by decide), rfl, by decide, rfl⟩

/-! Objects and parameters. -/

/-- The bytes of a channel block. -/
def blkBytes (b : Blk) : List Byte :=
  toLE 1 1 ++ toLE 1 b.dir ++ toLE 1 b.codec ++ toLE 1 (b2n b.live) ++ toLE 1 b.profile ++ toLE 1 b.level ++ toLE 1 b.chroma ++
    toLE 1 b.depth ++ toLE 2 b.width ++ toLE 2 b.height ++ toLE 2 b.num ++ toLE 2 b.den ++ toLE 1 b.preset ++ toLE 1 b.rcMode ++
    toLE 1 b.look ++ toLE 1 b.pool ++ toLE 4 b.bitrate ++ toLE 4 b.maxrate ++ toLE 4 b.bufsize ++ toLE 4 b.gop ++ toLE 4 b.fifoCells ++
    toLE 1 b.home ++ toLE 1 b.span ++ toLE 1 b.tier

/-- A state with bytes at offset 0x100 of holding 0's memory. -/
def withMem (s : State) (bs : List Byte) : State := { s with drm := { s.drm with mem := writeBytes [] 0x100 bs } }

theorem wit_channelOpen : let s := withMem (at_ (word 0x60 0 26 1 0)) (blkBytes (blk 1 false))
    let x := ctx0 (word 0x60 0 26 1 0)
    Issues s 0 0 0x60 x (insOf (word 0x60 0 26 1 0)) ∧ BlockAt s x (insOf (word 0x60 0 26 1 0)) 0x100 :=
  ⟨issues_of _ rfl (by decide), by decide, by decide, by decide, by decide⟩

theorem wit_channelOpenBlock : let s := withMem (at_ 0) (blkBytes (blk 1 false))
    let bs := readDev s 0 0x100 64
    byteAt bs 0 = 1 ∧ zeroFrom bs 43 = true ∧ blkOf bs = blk 1 false ∧ blkOk (blkOf bs) (byteAt bs 3) = true := by decide

theorem wit_channelOpenRoom : let s := at_ 0
    let b := blk 1 false
    s.native 0 = true ∧ chanCount s 0 < (s.hd 0).qChan ∧ dramFits s 0 (b.pool * b.bufSize + b.lookSize) = true ∧
      b.pages ≤ reserveFree s ∧ (nativeChans s).head? = some 3 ∧ lowestFree s.job.obj 0x100000 0x100000 = some 0x100003 := by decide

theorem wit_channelOpenQuota : let s := { dev with hold := [(0, { hold0 with qChan := 3 })] }
    (s.hd 0).qChan ≤ chanCount s 0 := by decide

theorem wit_objectOpen : (let s := withMem (at_ (word 0x60 1 26 1 0)) (toLE 1 6);
      BlockAt s (ctx0 (word 0x60 1 26 1 0)) (insOf (word 0x60 1 26 1 0)) 0x100 ∧ byteAt (readDev s 0 0x100 64) 0 = 6 ∧
        zeroFrom (readDev s 0 0x100 64) 1 = true ∧ lowestFree s.vid.grp 0 32 = some 1 ∧
        lowestFree s.job.obj 0x600000 0x100000 = some 0x600001) ∧
    (let s := withMem (at_ (word 0x60 2 26 1 0)) (toLE 4 7);
      BlockAt s (ctx0 (word 0x60 2 26 1 0)) (insOf (word 0x60 2 26 1 0)) 0x100 ∧ byteAt (readDev s 0 0x100 64) 0 = 7 ∧
        zeroFrom ((readDev s 0 0x100 64).take 20) 1 = true ∧ zeroFrom (readDev s 0 0x100 64) 24 = true ∧
        lowestFree s.vid.mux 0 16 = some 1 ∧ lowestFree s.job.obj 0x700000 0x100000 = some 0x700001) := by
  unfold BlockAt; decide

theorem wit_objectOpenIssues : (∀ w ∈ [word 0x60 3 26 2 0, word 0x60 4 26 2 0, word 0x60 4 26 0 0], Is w) ∧
    (∀ w ∈ [word 0x60 1 26 1 0, word 0x60 2 26 1 0], Issues (withMem (at_ w) (toLE 1 6)) 0 0 0x60 (ctx0 w) (insOf w)) ∧
    syncCount (at_ 0) 0 < 1024 ∧ lowestFree (at_ 0).job.obj 0x800000 0x10000 = some 0x800001 ∧
    lowestFree (at_ 0).job.obj 0x900000 0x10000 = some 0x900001 ∧ ((ctx0 0).gr 2).toNat = 3 ∧ ((ctx0 0).gr 0).toNat = 0 := by
  refine ⟨is_all _ (by decide), ?_, by decide, by decide, by decide, by decide, by decide⟩
  intro w hw
  rcases List.mem_cons.1 hw with rfl | hw
  · exact issues_of _ rfl (by decide)
  · rw [List.mem_singleton.1 hw]; exact issues_of _ rfl (by decide)

/-- Channel 0 drains. -/
def drains : State := { dev with vid := { vid with chan := [(0, { chanD with st := .draining, slot := 0 })] } }

theorem wit_objectClose : (∀ w ∈ [word 0x61 0 0 16 0, word 0x61 0 0 24 0], Is w) ∧
    useHandle (at_ 0) 0 [1, 4, 5, 6, 7, 8, 9] ((ctx0 0).hnd 16) = some (obj 0) ∧ (at_ 0).chan 0 = some chanD ∧
    rungOpen (at_ 0) chanD = false ∧ useHandle (at_ 0) 0 [1, 4, 5, 6, 7, 8, 9] ((ctx0 0).hnd 24) = some (obj 0) ∧
    hType ((ctx0 0).hnd 24) = 8 ∧ drained drains 0 { chanD with st := .draining, slot := 0 } = true ∧ egrFlowsOf drains 0 = [] := by
  exact ⟨is_all _ (by decide), rfl, rfl, by decide, rfl, by decide, by decide, by decide⟩

/-- A parameter word: SPARAM of the object in K`a` with the value of register `b`. -/
def par (id a b : Nat) : DWord := word 0x62 0 0 (16 + a) b id

theorem wit_params : (∀ w ∈ [par 0x101 1 2, par 0x101 1 5, par 0x10 1 2, par 0x20 1 5, par 0x24 1 6, par 0x24 6 6], Is w) ∧
    useHandle (at_ 0) 0 paramTypes ((ctx0 0).hnd 17) = some (obj 1) ∧ (at_ 0).chan 1 = some chanE ∧
    useHandle (at_ 0) 0 paramTypes ((ctx0 0).hnd 22) = some (obj 0) ∧ ownParam 0x104 = false ∧
    parRange chanE 0x104 = some (1, 12) ∧ parKind chanE.blk 0x104 = true ∧ ((ctx0 0).reg 2).toNat = 3 ∧ ((ctx0 0).reg 5).toNat = 64 ∧
    ratesOk { blk 1 false 2 with bitrate := 64 } = true ∧ ratesOk { blk 1 false 3 with bitrate := 65 } = false ∧
    chanE.blk.rcMode < 2 ∧ chanE.grp = none ∧ tget (at_ 0).vid.grp 0 = some { hold := 0 } := by
  exact ⟨is_all _ (by decide), rfl, rfl, rfl, by decide, by decide, by decide, by decide, by decide, by decide, by decide, by decide,
    rfl, rfl⟩

/-- Channel 1 in RC_MODE 5, for the multiplex group; MUX_MIN `m`. -/
def muxDev (w : DWord) (m : Nat) : State :=
  let s := at_ w
  { s with vid := { s.vid with chan := [(1, { chanE with blk := blk 1 false 5, par := [(0x10E, m)] })] } }

theorem wit_groupParams : (∀ w ∈ [par 0x30 6 17, par 0x3B 6 17, par 0x30 6 2, par 0x41 7 5, par 0x200 6 6, par 0x210 5 5, par 0x213 5 6],
      Is w) ∧
    useHandle (at_ 0) 0 paramTypes ((ctx0 0).hnd 22) = some (obj 0) ∧ valueChan (at_ 0) 0 ((ctx0 0).reg 17) = some 1 ∧
    valueChan (at_ 0) 0 ((ctx0 0).reg 2) = none ∧ (at_ 0).chan 1 = some chanE ∧ chanE.grp = none ∧
    useHandle (at_ 0) 0 paramTypes ((ctx0 0).hnd 21) = some (obj 3) ∧ (at_ 0).buf 3 = some bufB ∧
    { bufB with par := tset bufB.par 0x210 64 }.needs ≤ bufB.size ∧
    bufB.size < { bufB with par := tset bufB.par 0x210 8192 }.needs := by
  exact ⟨is_all _ (by decide), rfl, by decide, by decide, rfl, rfl, rfl, rfl, by decide, by decide⟩

theorem wit_muxParams : (∀ m ∈ [0, 1001], Issues (muxDev (par 0x40 7 17) m) 0 0 0x62 (ctx0 (par 0x40 7 17)) (insOf (par 0x40 7 17))) ∧
    valueChan (muxDev 0 0) 0 ((ctx0 0).reg 17) = some 1 ∧ muxMins (muxDev 0 0) [1] ≤ 1000 ∧ 1000 < muxMins (muxDev 0 1001) [1] ∧
    muxMins (muxDev 0 0) [] ≤ 64 := by
  refine ⟨?_, by decide, by decide, by decide, by decide⟩
  intro m hm
  rcases List.mem_cons.1 hm with rfl | hm
  · exact issues_of _ rfl (by decide)
  · rw [List.mem_singleton.1 hm]; exact issues_of _ rfl (by decide)

theorem wit_paramGet : (∀ w ∈ [word 0x62 1 4 17 0 0x10, word 0x62 1 20 17 0 0x104], Is w) ∧ parKind chanE.blk 0x104 = true ∧
    (parRange chanE 0x104).isSome = true ∧ chanE.blk.enc = true := by
  exact ⟨is_all _ (by decide), by decide, by decide, by decide⟩

/-! Pictures. -/

theorem wit_buffers : (∀ w ∈ [word 0x63 0 26 17 0, word 0x63 0 26 16 0, word 0x63 1 26 5 0, word 0x64 0 0 19 0, word 0x64 0 0 21 0], Is w) ∧
    (freeBufs (at_ 0) 1).head? = some 1 ∧ (at_ 0).buf 1 = some (bufP 1) ∧ lowestFree (at_ 0).job.obj 0x200000 0x100000 = some 0x200001 ∧
    freeBufs (at_ 0) 0 = [] ∧ dramFits (at_ 0) 0 (pageUp 64) = true ∧ bufPlace (at_ 0) 0 0x10000 (pageUp 64) = true ∧
    lowestFree (at_ 0).job.obj 0x300000 0x100000 = some 0x300001 ∧
    useHandle (at_ 0) 0 [2, 3] ((ctx0 0).hnd 19) = some (obj 0) ∧ (at_ 0).buf 0 = some (bufP 0 1) ∧ (bufP 0 1).chan ≠ none ∧
    useHandle (at_ 0) 0 [2, 3] ((ctx0 0).hnd 21) = some (obj 3) ∧ bufB.chan = none ∧ bufClaims (at_ 0) 3 = 1 ∧
    dramFits { dev with hold := [(0, { hold0 with qDram := 0 })] } 0 (pageUp 64) = false := by
  exact ⟨is_all _ (by decide), by decide, rfl, by decide, by decide, by decide, by decide, by decide, rfl, rfl, nofun, rfl, rfl,
    by decide, by decide⟩

/-- Channel 0 has 20 buffers. -/
def poolDev (w : DWord) : State :=
  let s := at_ w
  { s with vid := { s.vid with buf := (0, bufP 0 1) :: ((List.range 20).map fun i => (i + 1, bufP 0)) } }

theorem wit_pins : (∀ w ∈ [word 0x65 0 0 19 0 1, word 0x65 0 0 19 0 0], Is w) ∧
    useHandle (at_ 0) 0 [2, 3] ((ctx0 0).hnd 19) = some (obj 0) ∧
    Issues (poolDev (word 0x65 0 0 19 0 1)) 0 0 0x65 (ctx0 (word 0x65 0 0 19 0 1)) (insOf (word 0x65 0 0 19 0 1)) ∧
    minPool chanD.blk < unpinned (poolDev 0) 0 ∧ unpinned (at_ 0) 0 ≤ minPool chanD.blk := by
  exact ⟨is_all _ (by decide), rfl, issues_of _ rfl (by decide), by decide, by decide⟩

theorem wit_longTerm : (∀ w ∈ [word 0x66 0 0 18 2, word 0x66 1 0 18 7, word 0x66 1 0 18 2, word 0x66 2 0 18 0, word 0x66 3 0 18 6], Is w) ∧
    useHandle (at_ 0) 0 [1] ((ctx0 0).hnd 18) = some (obj 2) ∧ (at_ 0).chan 2 = some chanL ∧ chanL.blk.live = true ∧
    chanL.blk.enc = true ∧ chanL.blk.codec ≠ 0 ∧ ((ctx0 0).gr 2).toNat = 3 ∧ tget chanL.ltr 1 = some { buf := 2, counter := 5 } ∧
    ((ctx0 0).gr 6).toNat = 1 ∧ (∀ p ∈ chanL.ltr, p.2.counter.toNat ≠ 64) := by
  exact ⟨is_all _ (by decide), rfl, rfl, rfl, rfl, by decide, by decide, rfl, by decide, by decide⟩

/-! Video instructions. -/

/-- A context like `ctx0` that the class `n` bounds, with a grant or not. -/
def ctxC (w : DWord) (n : Nat) (g : Bool) : Ctx := { ctx0 w with cls := n, granted := g }

/-- DEC.PIC of channel 0 into K10. -/
def decWord : DWord := word 0x80 3 8 26 16

theorem wit_decodeStarts : Issues (runs (ctxC decWord 2 false)) 0 0 0x80 (ctxC decWord 2 false) (insOf decWord) ∧
    Issues (runs (ctxC decWord 1 false)) 0 0 0x80 (ctxC decWord 1 false) (insOf decWord) ∧
    Issues (runs (ctxC decWord 2 true)) 0 0 0x80 (ctxC decWord 2 true) (insOf decWord) ∧
    useHandle (runs (ctxC decWord 2 true)) 0 [1] ((ctxC decWord 2 true).hnd 16) = some (obj 0) ∧
    (runs (ctxC decWord 2 true)).chan 0 = some chanD ∧ chanD.blk.dec = true ∧ chanD.st ≠ .failed ∧
    (∀ q ∈ (runs (ctxC decWord 2 false)).yoke.reqs, q.key ≠ ckey 0 0) ∧
    lowestFree (runs (ctxC decWord 2 true)).job.obj 0x200000 0x100000 = some 0x200001 :=
  ⟨issues_of _ rfl (by decide), issues_of _ rfl (by decide), issues_of _ rfl (by decide), rfl, rfl, rfl, by decide, nofun, by decide⟩

/-- The channel has failed. -/
def failedDev (w : DWord) : State :=
  let s := at_ w
  { s with vid := { s.vid with chan := [(0, { chanD with st := .failed })] } }

theorem wit_decodeFailed : Issues (failedDev decWord) 0 0 0x80 (ctx0 decWord) (insOf decWord) ∧ (insOf decWord).d < 16 ∧
    (failedDev decWord).chan 0 = some { chanD with st := .failed } := ⟨issues_of _ rfl (by decide), by decide, rfl⟩

/-- The group of channel 1, and a picture that is empty. -/
def encDev (w : DWord) : State :=
  let s := at_ w
  { s with vid := { s.vid with grp := [(0, { hold := 0, rungs := [(0, 1)], fixed := true })] } }

theorem wit_encodeIssue : (∀ w ∈ [word 0x81 0 8 17 19, word 0x81 0 8 17 21, word 0x82 0 8 22 19, word 0x83 0 8 17 19], Is w) ∧
    useHandle (at_ 0) 0 [2, 3] ((ctx0 0).hnd 19) = some (obj 0) ∧ (at_ 0).buf 0 = some (bufP 0 1) ∧ srcOk (bufP 0 1) = true ∧
    Source (bufP 0 1) ∧ useHandle (at_ 0) 0 [1] ((ctx0 0).hnd 17) = some (obj 1) ∧ (at_ 0).chan 1 = some chanE ∧ chanE.grp = none ∧
    srcChroma (at_ 0) 0 (bufP 0 1) = chanE.blk.chroma ∧ 3 ≤ (ctx0 0).cls ∧
    srcChroma (at_ 0) 0 { bufP 0 1 with hdr := { chroma := 2 } } ≠ chanE.blk.chroma ∧
    Issues (encDev (word 0x82 0 8 22 19)) 0 0 0x82 (ctx0 (word 0x82 0 8 22 19)) (insOf (word 0x82 0 8 22 19)) ∧
    useHandle (encDev 0) 0 [6] ((ctx0 0).hnd 22) = some (obj 0) ∧
    rungsOk (encDev 0) { hold := 0, rungs := [(0, 1)] } = true :=
  ⟨is_all _ (by decide), rfl, rfl, by decide, ⟨by decide, nofun⟩, rfl, rfl, rfl, by decide, by decide, by decide,
    issues_of _ rfl (by decide), rfl, by decide⟩

/-- Buffer 0 is an empty picture. -/
def emptyDev (w : DWord) : State :=
  let s := at_ w
  { s with vid := { s.vid with buf := [(0, { hold := 0, empty := true, handles := 1 })] } }

theorem wit_encodeEmpty : Issues (emptyDev (word 0x81 0 8 17 19)) 0 0 0x81 (ctx0 (word 0x81 0 8 17 19)) (insOf (word 0x81 0 8 17 19)) ∧
    (emptyDev 0).buf 0 = some { hold := 0, empty := true, handles := 1 } ∧ srcOk { hold := 0, empty := true, handles := 1 } = true :=
  ⟨issues_of _ rfl (by decide), rfl, by decide⟩

theorem wit_scaleIssue : (∀ w ∈ [word 0x84 0 8 21 19, word 0x84 2 8 21 19 0 1, word 0x85 0 8 21 19], Is w) ∧
    useHandle (at_ 0) 0 [2, 3] ((ctx0 0).hnd 21) = some (obj 3) ∧ useHandle (at_ 0) 0 [2, 3] ((ctx0 0).hnd 19) = some (obj 0) ∧
    (at_ 0).buf 3 = some bufB ∧ (at_ 0).buf 0 = some (bufP 0 1) ∧ outShape (at_ 0) bufB = some (64, 64, 1, 8) ∧
    scaleOk (at_ 0) (ctx0 0) (insOf (word 0x84 0 8 21 19)) 0 (bufP 0 1) (64, 64, 1, 8) = true ∧
    scaleOk (at_ 0) (ctx0 0) (insOf (word 0x84 2 8 21 19 0 1)) 0 (bufP 0 1) (64, 64, 1, 8) = false ∧
    convertOk (at_ 0) (ctx0 0) (insOf (word 0x85 0 8 21 19)) 0 (bufP 0 1) (64, 64, 1, 8) = true ∧
    coloursOk (at_ 0) bufB (bufP 0 1) = true ∧ coloursOk (at_ 0) { bufB with par := tset bufB.par 0x220 0x00FFFFFF } (bufP 0 1) = false :=
  ⟨is_all _ (by decide), rfl, rfl, rfl, rfl, by decide, by decide, by decide, by decide, by decide, by decide⟩

theorem wit_moveIssue : (∀ w ∈ [word 0x86 0 8 16 4 31 1, word 0xC0 0 8 1 4 64, word 0xC0 0 8 10 4 64, word 0xC1 0 8 1 4 64,
      word 0xC4 0 8 19 4 0, word 0xC4 1 8 19 4 64], Is w) ∧
    (extraWord (ctx0 0)).toNat = 64 ∧ place (at_ 0) 0 ((ctx0 0).gr 4) 64 = some (.dev 0x20000) ∧ (∀ r, Place.dev 0x20000 ≠ .remote r) ∧
    (movePlace (at_ 0) 0 ((ctx0 0).gr 1) 64).isSome = true ∧ movePlace (at_ 0) 0 0xC000000000000000 64 = none ∧
    (packRows (bufP 0 1) 64).all (fun r => decide (r.1 ≤ r.2.1)) = true ∧
    place (at_ 0) 0 ((ctx0 0).gr 4) (packSpan (bufP 0 1) 64) = some (.dev 0x20000) ∧ (outShape (at_ 0) (bufP 0 1)).isSome = true :=
  ⟨is_all _ (by decide), by decide, by decide, nofun, by decide, by decide, by decide +kernel, by decide +kernel, by decide⟩

/-! Progress and results of video instructions. -/

/-- An outstanding instruction 0 of context 0. -/
def workDev (v : Vid) (k : WorkKind) (uses : List Nat := []) (fcls : Nat := 1) : State :=
  let s := runs (ctx0 0)
  { s with vid := v, job := { s.job with
      work := [(0, { ctx := 0, hold := 0, kind := k, d := 4, engine := true, fcls := fcls, uses := uses })], nextWork := 1 } }

/-- A DEC.PIC outstanding on channel 0, its picture handle's slot 0x200000. -/
def decDev (v : Vid := vid) : State := workDev v (.decPic 0 (some 0x200000) true false)

/-- A report with nothing in it. -/
def noPics : DecIn := { pics := [], used := 0 }

theorem wit_decodeReturn : let s := decDev { vid with buf := [(0, { bufP 0 1 with outp := true })] }
    (∃ w, decWork s 0 = some (w, 0, 0x200000, true, false)) ∧ s.chan 0 = some chanD ∧ decInOk s 0 noPics = true ∧
      decodeAll 0 false noPics.pics s = (s, 0) ∧ nextOut (decExtras s 0 noPics) 0 = some 0 :=
  ⟨⟨_, rfl⟩, rfl, by decide, rfl, by decide⟩

/-- A report of a picture of `n` × `n` samples. -/
def onePic (n : Nat) : DecIn := { pics := [{ hdr := { chroma := 1, cw := n, ch := n, ww := n, wh := n } }] }

theorem wit_decodeStops : (decodeAll 0 false (onePic 64).pics decDev).2 = 1 ∧ (decodeAll 0 false (onePic 128).pics decDev).2 = 2 ∧
    decInOk decDev 0 (onePic 64) = true := by decide

theorem wit_decodeEvents : (∃ w, decWork decDev 0 = some (w, 0, 0x200000, true, false)) ∧ 0 ≤ fifoAvail (decDev.fifo (fin_ 0)) ∧
    decDev.buf (slotBuf decDev 0x200000) = some (bufP 0 1) ∧ nextOut (decExtras decDev 0 noPics) 0 = none ∧
    fld (decDev.rch 0 B.decCtrl) 16 2 ≠ 1 :=
  ⟨⟨_, rfl⟩, by decide, by decide, by decide, by decide⟩

/-- Channel 0 spans two Fields. -/
def spanDev : State := { dev with vid := { vid with chan := [(0, { chanD with blk := { blk 0 false with span := 2 } })] } }

theorem wit_span : 1 ∈ (spanFields spanDev 0 2).drop 1 ∧ spanGranted spanDev 0 1 = false := by decide

/-- Channel 1 with a source picture that is there. -/
def lookDev : State :=
  { dev with vid := { vid with chan := [(1, { chanE with look := [{ counter := 0, src := some 0, work := 0, pre := some {} }], counter := 1 })] } }

theorem wit_encodeStart : (absorbChan lookDev 1 []).chan 1 = lookDev.chan 1 ∧ (∃ z, lookDev.chan 1 = some z ∧ z.blk.enc = true ∧
    z.cur = none ∧ z.grp = none ∧ (z.look.find? fun q => q.counter.toNat = 0 && q.pre.isSome) =
      some { counter := 0, src := some 0, work := 0, pre := some {} } ∧ released z z.look = true ∧
      pickOk z z.look { pick := 0 } { counter := 0, src := some 0, work := 0, pre := some {} } = true) :=
  ⟨rfl, _, rfl, rfl, rfl, rfl, by decide, by decide, by decide⟩

/-- A band of two rows, and a picture being coded into buffer 1. -/
def band0 : Band := { field := 0, first := 0, count := 2, t := 0, l := 0, llvl := 1000000, q := 30 }
def cur0 : Cur :=
  { pic := { counter := 0, src := some 0, work := 0 }, ptype := 0, depth := 0, idr := true, ltrRef := false, isRef := true, nref := 0,
    c := 1, rowC := [1, 1], t := none, l := 1000000, hrd := false, cpb := 0, qplan := 30, qmin := 0, qmax := 51, filler := false,
    rate := 60, start := 0, bands := [band0], buf := some 1 }
def row0 : RowIn := { units := List.replicate (rowUnits (blk 1 false) false) 8, data := [1, 2, 3] }
def curDev (cells : Nat := 64) : State :=
  { dev with vid := { vid with chan := [(1, { chanE with cur := some cur0, blk := { blk 1 false with fifoCells := cells } })] }
             hold := [(0, { hold0 with qMax := 4, qMin := 1 })] }

theorem wit_encodeRows : (∃ z, (curDev 0).chan 1 = some z ∧ z.cur = some cur0 ∧ rebands (curDev 0) z cur0 = cur0 ∧
      rowInOk (curDev 0) z cur0 row0 = true ∧ z.blk.fifoCells ≤ outCells (curDev 0) 1) ∧ cur0.buf ≠ none ∧ cur0.stall = none ∧
    cur0.timeout = false ∧ cur0.front ≠ cur0.bands.length :=
  ⟨⟨_, rfl, rfl, rfl, by decide, by decide⟩, nofun, rfl, rfl, by decide⟩

/-- The channel of `curDev`. -/
def chanC : Chan := { chanE with cur := some cur0 }

theorem wit_rowPlaced : curDev.chan 1 = some chanC ∧ rebands curDev chanC cur0 = cur0 ∧ rowInOk curDev chanC cur0 row0 = true ∧
    cur0.bands[0]? = some band0 ∧ band0.rows.length + 1 < band0.count ∧ pvRate curDev chanC = false ∧
    (let r := fillRow (encCounted curDev 1 chanC band0.field row0) 0 64 (itemCells row0.data.length) none 0
        (outCells (encCounted curDev 1 chanC band0.field row0) 1) (itemCells row0.data.length);
      r.1.isSome = true ∧ r.2.1 = 1 ∧ itemCells row0.data.length ≤ r.2.1) ∧
    (afterRow chanC cur0 band0 0 row0 (stubAt band0.llvl (stubUnit false 0) (rawUnit chanC.blk false)
      ((band0.count - band0.rows.length - 1) * rowUnits chanC.blk false) (bandBits band0) row0.units).isSome).1 = false :=
  ⟨rfl, rfl, by decide, rfl, by decide, by decide, by decide +kernel, by decide +kernel⟩

/-- A picture coded that an instruction is still to report. -/
def coded0 : Coded :=
  { counter := 0, code := 0, bits := 8, pts := 0, ptype := 0, nref := 0, secs := [], rcState := 0, cpb := 0, evStub := false, evHrd := false }

theorem wit_encodeReturn : let s := workDev { vid with chan := [(1, { chanE with coded := [coded0] })] } (.encPic 1 0 none)
    encWork s 0 = some (1, 0, none) ∧ s.chan 1 = some { chanE with coded := [coded0] } ∧
      encWork (workDev vid (.encPic 1 0 (some 0))) 0 = some (1, 0, some 0) :=
  ⟨rfl, rfl, rfl⟩

theorem wit_ladderReturn : let s := workDev { vid with grp := [(0, { hold := 0, rungs := [(0, 1)], fixed := true, coded := [[(0, coded0)]] })] } (.encLadder 0 0 none)
    ladderWork s 0 = some (0, 0, none) ∧ tget s.vid.grp 0 = some { hold := 0, rungs := [(0, 1)], fixed := true, coded := [[(0, coded0)]] } ∧
      s.chan 1 = some chanE := ⟨rfl, rfl, rfl⟩

theorem wit_analyze : let s := workDev vid (.analyze 1 0)
    (∃ w, tget s.job.work 0 = some w ∧ w.kind = .analyze 1 0) ∧ s.buf 0 = some (bufP 0 1) ∧ s.chan 1 = some chanE ∧ s.flt.safe = false :=
  ⟨⟨_, rfl, rfl⟩, rfl, rfl, rfl⟩

theorem wit_scaleResults : let s := workDev vid (.scale 1 0 0 0 0 0 false) [1, 0]
    s.buf 1 = some (bufP 1) ∧ s.buf 0 = some (bufP 0 1) ∧ (bufP 1).chan ≠ none ∧ (bufP 1).pic = true ∧ (bufP 0).rows = false ∧
      (bufP 0).empty = false ∧ coloursOk s (bufP 1) (bufP 0 1) = true :=
  ⟨rfl, rfl, nofun, rfl, rfl, rfl, by decide⟩

theorem wit_scaleEmpty : let b : Buf := { hold := 0, empty := true, handles := 1 }
    let s := workDev { vid with buf := [(0, b), (1, bufP 1)] } (.convert 1 0 false) [1, 0]
    s.buf 0 = some b ∧ b.rows = false ∧ b.empty = true ∧
      coloursOk s (bufP 1) { bufP 0 with par := [(0x220, 0x00FFFFFF)], hdr := { (bufP 0).hdr with prim := 255 } } = false :=
  ⟨rfl, rfl, rfl, by decide⟩

/-! Moves, flows, grants, jobs. -/

/-- In one granule, different offsets are different addresses. -/
theorem apart_one (s : State) {h off len : Nat} (hg : off % granule + len ≤ granule) : Apart s h off len := by
  intro i j a hi hj h1 h2
  unfold devAddr at h1 h2
  unfold granule at *
  have e1 : (off + i) / 16777216 = off / 16777216 := by omega
  have e2 : (off + j) / 16777216 = off / 16777216 := by omega
  rw [e1] at h1
  rw [e2] at h2
  cases hm : tget s.drm.map (4096 * h + off / 16777216) with
  | none => rw [hm] at h1; cases h1
  | some g =>
    rw [hm] at h1 h2
    simp only [Option.map_some, Option.some.injEq] at h1 h2
    omega

theorem wit_movesFinish : let s := workDev vid (.xfer 0x100 0x20000 64 true 0) [] 2
    place s 0 0x20000 64 = some (.dev 0x20000) ∧ devMapped s 0 0x20000 64 = true ∧ place s 0 0x100 64 = some (.dev 0x100) ∧
      devPoison s 0 0x20000 64 = false ∧ overlaps (.dev 0x100) (.dev 0x20000) 64 = false ∧ Apart s 0 0x100 64 ∧
      place s 0 0x8000000000001000 64 = some (.host 0x1000) :=
  ⟨by decide, by decide, by decide, by decide, by decide, apart_one _ (by decide), by decide⟩

theorem wit_packFinish : let s := workDev vid (.pack 0 0x20000 64 true false 0) [0] 2
    s.buf 0 = some (bufP 0 1) ∧ (bufP 0 1).chan ≠ none ∧ place s 0 0x20000 (packSpan (bufP 0 1) 64) = some (.dev 0x20000) ∧
      devMapped s 0 0x20000 (packSpan (bufP 0 1) 64) = true ∧ devPoison s 0 0x20000 (packSpan (bufP 0 1) 64) = false :=
  ⟨rfl, nofun, by decide +kernel, by decide +kernel, by decide +kernel⟩

theorem wit_statsFinish : let s := workDev vid (.stats 0 0x20000 0 64) [] 4
    earlierDone s 0 0 = true ∧ s.chan 0 = some chanD ∧ (statBytes 0 chanD 0 64).1.length = 32 ∧ devMapped s 0 0x20000 32 = true ∧
      Apart s 0 0x20000 32 :=
  ⟨by decide, rfl, by decide +kernel, by decide, apart_one _ (by decide)⟩

/-- T0 entry 0 takes port 0 for holding 0, with an action. -/
def t0Dev (s : State) (act : Word) : State :=
  ((s.w2 (A.ingT0 0 + 4) 0x17).w2 (A.ingT0 0 + 8) 0x40).w2 (A.ingT0 0 + 12) act

/-- An ingest block: RTP of a transport stream, any source. -/
def ingBytes : List Byte :=
  [4, 3, 0, 0] ++ toLE 2 0 ++ toLE 2 0 ++ [4, 1] ++ toLE 2 5000 ++ toLE 2 0 ++ toLE 2 256 ++ [239, 0, 0, 1] ++ List.replicate 28 0 ++
    toLE 2 0 ++ toLE 2 0xFFFF

/-- INGEST.BIND at a state with its block. -/
def ingWord : DWord := word 0xC2 0 26 16 1
def ingDev : State := t0Dev (withMem (at_ ingWord) ingBytes) 0

theorem wit_ingestBind : Issues ingDev 0 0 0xC2 (ctx0 ingWord) (insOf ingWord) ∧ BlockIn ingDev (ctx0 ingWord) 0x100 128 0x100 ∧
    ingBlkOk (readDev ingDev 0 0x100 128) = true ∧ ingModeOk chanD.blk (ingBlk (readDev ingDev 0 0x100 128)).mode = true ∧
    ingFlowOf ingDev 0 = none ∧
    (let b := ingBlk (readDev ingDev 0 0x100 128);
      ingTablesOk (countIssue ingDev (ckey 0 0)) 0 b (ingEntries (countIssue ingDev (ckey 0 0)) 0 0 0 b) = true) ∧
    lowestFree ingDev.ing.flow 0 16383 = some 0 ∧ lowestFree ingDev.job.obj 0x400000 0x100000 = some 0x400000 :=
  ⟨issues_of _ rfl (by decide), by unfold BlockIn; decide +kernel, by decide +kernel, by decide +kernel, by decide, by decide +kernel,
    by decide, by decide⟩

/-- An egress block: raw UDP on port 0 by service 0, one template. -/
def egrBytes : List Byte :=
  [5, 0, 0, 0] ++ toLE 2 256 ++ toLE 2 0 ++ [7, 35] ++ toLE 2 1000 ++ [0, 64, 255, 0] ++ toLE 4 0 ++ toLE 4 0 ++ toLE 4 2048 ++
    toLE 4 2048 ++ toLE 2 1600 ++ toLE 2 16 ++ toLE 4 0 ++ toLE 4 100000 ++ toLE 4 0
def egrWord : DWord := word 0xC3 0 26 17 1
def egrDev : State := (withMem (at_ egrWord) egrBytes).w2 (A.egrSvc 0) 1

theorem wit_egressBind : Issues egrDev 0 0 0xC3 (ctx0 egrWord) (insOf egrWord) ∧ BlockIn egrDev (ctx0 egrWord) 0x100 192 0x100 ∧
    egrBlkOk (readDev egrDev 0 0x100 192) = true ∧
    (let e := egrBlk (readDev egrDev 0 0x100 192) 0 1 egrDev.tim.dtb;
      let t := countIssue egrDev (ckey 0 0);
      egrRanges t e = true ∧ egrPids e = true ∧ egrSvcOk t e = true ∧ egrPlace t chanE.blk e = true) ∧
    lowestFree egrDev.egr.flow 0 256 = some 0 ∧ egrSlot egrDev 0 = some 0x500000 :=
  ⟨issues_of _ rfl (by decide), by unfold BlockIn; decide +kernel, by decide +kernel, by decide +kernel, by decide, by decide +kernel⟩

theorem wit_claims : Issues (runs (ctxC (word 0xE0 0 0 0 0 2) 1 true)) 0 0 0xE0 (ctxC (word 0xE0 0 0 0 0 2) 1 true) (insOf (word 0xE0 0 0 0 0 2)) ∧
    Issues (runs (ctxC (word 0xE0 1 0 0 0 2) 2 true)) 0 0 0xE0 (ctxC (word 0xE0 1 0 0 0 2) 2 true) (insOf (word 0xE0 1 0 0 0 2)) ∧
    workClass (runs (ctxC (word 0xE0 1 0 0 0 2) 2 true)) (ckey 0 0) ≤ 2 ∧ Is (word 0xE1 0 0 0 0) ∧
    engineWork (at_ (word 0xE1 0 0 0 0)) (ckey 0 0) = false ∧
    (∀ e, (waits (.claim 2 e true)).ctx (ckey 0 0) = some { ctx0 0 with wait := .claim 2 e true }) ∧ (ctx0 0).tmo ≠ 0 :=
  ⟨issues_of _ rfl (by decide), issues_of _ rfl (by decide), by decide, is_all [_] (by decide) _ (List.mem_singleton.2 rfl), by decide,
    fun _ => rfl, by decide⟩

theorem wit_queries : (∀ w ∈ [word 0xE2 0 8 0 0 0, word 0xE2 0 8 0 0 1, word 0xE2 0 8 0 0 2, word 0xE2 0 8 16 0 0x10, word 0xE2 0 8 24 0 0x30,
      word 0xE2 0 8 0 0 3], Is w) ∧ useHandle (at_ 0) 0 [1] ((ctx0 0).hnd 16) = some (obj 0) ∧
    useHandle (at_ 0) 0 [8] ((ctx0 0).hnd 24) = some (obj 0) := ⟨is_all _ (by decide), rfl, rfl⟩

/-- An inline entry of one NOP, FIRST and LAST. -/
def entry1 : List DWord := [0x0007000000000017, 0, 0, 0, 0, 0, 0, 0]
def entryOf (phase first last : Bool) : List DWord := [BitVec.ofNat 64 (b2n phase + 2 * b2n first + 4 * b2n last + 16), 0, 0, 0, 0, 0, 0, 0]
/-- A pointed entry. -/
def entryP : List DWord := [0x0F, 0, 0x8000000000001000, 1, 2, 3, 4, 0]

/-- SQ 1 with an entry read. -/
def sq1 (e : List DWord) : Sq := { num := 1, base := 0x10000, log2 := 6, cqid := 1, fetched := [e], pi := 1 }
def sqDev (e : List DWord) : State := { dev with job := { job with sq := [(1, sq1 e)] } }

theorem wit_jobPlaced : ∀ e ∈ [entryOf true true true, entryOf true true false, entryP],
    placeable (sqDev e) 0 (sq1 e) = true ∧ firstInLine (sqDev e) 0 = true ∧ entryOk e = true ∧ fld (eword e 0) 12 2 ≠ 3 ∧
      chooseField (sqDev e) 0 (fld (eword e 0) 12 2) (fld (eword e 0) 32 8) = some 0 ∧ lowestFree (sqDev e).job.ctx (0 * 32) 32 = some 0 := by
  decide

/-- A job whose program stands in host memory. -/
def ctxP : Ctx := { ctx0 0 with prog := [], ptr := some 0x8000000000001000 }

/-- Field 0 is disabled. -/
def offDev : State := (at_ 0).put2 (A.fld 0) 0 1 0

theorem wit_jobMoves : readyAny (at_ 0) (ckey 0 0) (ctx0 0) = true ∧ (runs ctxP).ctx (ckey 0 0) = some ctxP ∧ wantWord ctxP = some 0 ∧
    place (runs ctxP) 0 (0x8000000000001000 + BitVec.ofNat 64 (8 * 0)) 8 = some (.host 0x1000) ∧
    (List.replicate 32 (0 : DWord))[(0x1000 + 8 * 0) % 256 / 8]? = some 0 ∧ fieldOn offDev 0 = false ∧
    engineWork offDev (ckey 0 0) = false ∧ (∃ g, chooseField offDev 0 0 0 = some g ∧ lowestFree offDev.job.ctx (g * 32) 32 = some (g * 32)) ∧
    dev.chan 0 = some chanD ∧ chanD.cur = none ∧ fieldOn dev 1 = true :=
  ⟨by decide, rfl, by decide, by decide, by decide, by decide, by decide, ⟨1, by decide, by decide⟩, rfl, rfl, by decide⟩

/-- A job that has ended. -/
def endedDev (fault : Bool) : State := runs { ctx0 0 with ended := some (0x0100, 0), fault := fault }

theorem wit_jobEnds : ∀ b : Bool, (endedDev b).ctx (ckey 0 0) = some { ctx0 0 with ended := some (0x0100, 0), fault := b } ∧
    cqOf (endedDev b) 0 1 = 1 ∧ tget (endedDev b).job.cq 1 = some { num := 1, base := 0x20000, log2 := 6 } ∧
    Cq.isFull { num := 1, base := 0x20000, log2 := 6 } = false := fun _ => ⟨rfl, rfl, rfl, by decide⟩

/-! Rings and admin commands. -/

/-- A completion ring that is full. -/
def fullCq (n : Nat) : Cq := { num := 1, base := 0x20000, log2 := 4, pi := 0x8000, hold := List.replicate n { final := true, tag := 0, status := 0, sqid := 1, field := 0, ctx := 0, result := 0 } }
def cqDev (q : Cq) : State := { dev with job := { job with cq := [(1, q)] } }

theorem wit_posting : tget (cqDev (fullCq 0)).job.cq 1 = some (fullCq 0) ∧ (fullCq 0).isFull = true ∧ (fullCq 63).hold.length < 64 ∧
    (fullCq 64).hold.length = 64 ∧ Cq.isFull { num := 1, base := 0x20000, log2 := 4 } = false := ⟨rfl, by decide, by decide, by decide, by decide⟩

theorem wit_sqDoorbell : barOn dev 0 = true ∧ dev.active 0 = true ∧ tget dev.job.sq (qkey 0 1) = some { num := 1, base := 0x10000, log2 := 6, cqid := 1 } ∧
    idxDist 64 0 0 ≤ idxDist 64 0x8000 0 ∧ idxDist 64 0x8000 0 ≤ 64 ∧ 64 ≤ 64 % 0x8000 ∧ 64 < idxDist 64 0x8001 0 ∧
    idxDist 64 1 0 < idxDist 64 2 0 := by
  refine ⟨by decide, by decide, rfl, by decide, by decide, by decide, by decide, by decide⟩

/-- A completion ring of 16 with everything written and nothing taken. -/
theorem wit_cqDoorbell : (dev.hd 0).adm = [] ∧ dev.flt.safe = false ∧ idxDist 16 0x8000 1 ≤ idxDist 16 0x8000 0 ∧
    idxDist 16 0x8000 1 < 16 ∧ (fullCq 1).hold.length = 1 ∧ idxDist 16 1 0 < idxDist 16 1 2 := by decide

/-- SQ 1 whose host has produced an entry. -/
def sqR (retry : Bool) (sheaf : Option Nat) : Sq :=
  { num := 1, base := 0x10000, log2 := 6, cqid := 1, pi := 1, retry := retry, sheaf := sheaf }

theorem wit_queueReads : (∀ r ∈ [true, false], ∀ h ∈ [none, some 0], sqReads dev 0 1 (sqR r h) = true) ∧ 1 ≤ idxDist 64 1 0 ∧
    fld (eword (entryOf true true true) 0) 0 1 = idxPhase 0 ∧ eFirst (entryOf true true true) = true ∧
    eFirst (entryOf true false true) = false ∧ eLast (entryOf true false true) = true ∧
    fld (eword (entryOf false true true) 0) 0 1 ≠ idxPhase 0 ∧ (runs (ctx0 0)).ctx 0 = some (ctx0 0) := by
  refine ⟨by decide, by decide, by decide, by decide, by decide, by decide, by decide, rfl⟩

/-- An admin entry: command, queue, ring address, and the fields of its third word. -/
def admEntry (op qid addr w2 : Nat) : List DWord := [BitVec.ofNat 64 (6 + op * 256 + 9 * 65536 + qid * 2 ^ 32), BitVec.ofNat 64 addr, BitVec.ofNat 64 w2, 0, 0, 0, 0, 0]

/-- Holding 0 with its admin queues, one admin command waiting, and SQ 2 and CQ 2 besides. -/
def admDev (e : List DWord) (x : Sq := { num := 2, base := 0x10000, log2 := 6, cqid := 2, enable := false }) : State :=
  { dev with
    hold := [(0, { hold0 with adm := [e] })]
    job := { job with
      sq := [(0, { num := 0, base := 0, log2 := 4, cqid := 0 }), (2, x)]
      cq := [(0, { num := 0, base := 0, log2 := 4 }), (2, { num := 2, base := 0x20000, log2 := 6 }), (3, { num := 3, base := 0, log2 := 4 })] } }

/-- The hypotheses about one waiting admin command. -/
theorem admWaits_of (e : List DWord) (x : Sq) (h : admGood (admOf e) = true) :
    AdmWaits (admDev e x) 0 (admOf e).op (admOf e) { num := 0, base := 0, log2 := 4 } :=
  ⟨⟨e, rfl, rfl⟩, h, rfl, rfl, rfl, rfl, rfl, by decide⟩

theorem wit_adminCommands : (∀ e ∈ [admEntry 1 5 0x100 4, admEntry 1 2 0x100 4, admEntry 2 5 0x100 (4 + 2 * 2 ^ 16), admEntry 3 2 0 0,
      admEntry 4 3 0 0, admEntry 5 2 0 (2 ^ 32), admEntry 5 2 0 0, admEntry 6 2 0x100 (2 ^ 34), admEntry 6 2 0x100 (2 ^ 33)],
      admGood (admOf e) = true) ∧
    (let s := admDev (admEntry 1 5 0x100 4);
      let a := admOf (admEntry 1 5 0x100 4);
      a.qid = 5 ∧ thas s.job.cq (qkey 0 5) = false ∧ ringOk a = true ∧ freeNum (cqNums s) = some 1 ∧ thas s.job.cq (qkey 0 2) = true) ∧
    (let s := admDev (admEntry 2 5 0x100 (4 + 2 * 2 ^ 16));
      let a := admOf (admEntry 2 5 0x100 (4 + 2 * 2 ^ 16));
      a.cqid = 2 ∧ thas s.job.cq (qkey 0 a.cqid) = true ∧ thas s.job.sq (qkey 0 5) = false ∧ ringOk a = true ∧ freeNum (sqNums s) = some 1) ∧
    sqIdleNow (admDev []) 0 2 { num := 2, base := 0x10000, log2 := 6, cqid := 2, enable := false } = true ∧
    sqIdleNow (admDev []) 0 2 { num := 2, base := 0x10000, log2 := 6, cqid := 2 } = false ∧
    (∀ p ∈ (admDev []).job.sq, p.1 / 1024 = 0 → p.2.cqid ≠ 3) ∧ (admOf (admEntry 5 2 0 (2 ^ 32))).enable = true ∧
    (admOf (admEntry 6 2 0x100 (2 ^ 33))).cqsel = true ∧ (admOf (admEntry 6 2 0x100 (2 ^ 34))).clear = true := by
  refine ⟨by decide +kernel, by decide +kernel, by decide +kernel, by decide +kernel, by decide +kernel, by decide +kernel, by decide +kernel, by decide +kernel, by decide +kernel⟩

/-- The admin pair is ready to be created: IDLE, nothing of it there. -/
def pairDev : State := { dev with job := {} }

theorem wit_adminPair : fld (pairDev.r0 0 B.admqCtrl) 0 2 = 2 ∧ fnOn pairDev 0 = true ∧ 4 ≤ (0x441 : Word).toNat / 16 % 16 ∧
    4 ≤ (0x441 : Word).toNat / 256 % 16 ∧ freeNum (sqNums pairDev) = some 0 ∧ freeNum (cqNums pairDev) = some 0 ∧
    fld ((dev.w0 0 B.admqCtrl 1).r0 0 B.admqCtrl) 0 1 = 1 ∧
    (let s := { admDev [] with hold := [(0, { hold0 with idleWait := [(2, 9)] })] };
      sqIdleNow s 0 2 { num := 2, base := 0x10000, log2 := 6, cqid := 2, enable := false } = true ∧ (s.hd 0).idleWait = [(2, 9)] ∧
        (admPost s 0 9 0 0).isSome = true) ∧
    sqIdleNow { dev with job := { cq := [(0, { num := 0, base := 0, log2 := 4 })] } } 0 0 { num := 0, base := 0, log2 := 4, cqid := 0, enable := false } = true := by
  refine ⟨by decide +kernel, by decide +kernel, by decide +kernel, by decide +kernel, by decide +kernel, by decide +kernel, by decide +kernel, by decide +kernel, by decide +kernel⟩

/-! Interrupts. -/

/-- Source 5 of holding 0 on vector 3, deliverable; source 6 at rest, source 1281 of another holding. -/
def intDev : State :=
  { dev with intr := { src := [(5, { vec := 3, prio := 4, en := true, pend := true }), (6, { vec := 3, en := true, act := true }), (7, { hold := 1 })] } }

theorem wit_claimsOfVectors : fnOn intDev 0 = true ∧ claimPick intDev 0 3 = some (4, 5, false) ∧ claimPick intDev 0 2 = none ∧
    Tab.rising intDev.intr.src = true ∧ (intDev.vac 0).act = false ∧ srcOwn intDev 0 6 = true ∧ (intDev.src 6).act = true ∧
    (intDev.src 6).vec = 3 ∧ srcOwn intDev 0 7 = false ∧ 0 * 64 + 3 ∉ delivVecs dev := by decide

theorem wit_intWrites : srcOwn intDev 0 5 = true ∧ srcOwn intDev 0 ((intDev.r0 0 B.igfSel).toNat % 2048) = true ∧
    (intDev.src 5).ev < max 1 (2 % 256) ∧ Admin intDev 0 ∧ (5 : Nat) % 32 ≠ (intDev.src 5).hold ∧
    (0x300 : Nat) % 32 = (intDev.src 5).hold ∧ (intDev.src 5).prio ≠ 0x300 / 65536 % 16 := by
  unfold Admin; decide

/-- Source 5 counts events, and its timer runs; vector 3 is masked and held. -/
def timerDev : State :=
  ({ intDev with intr := { src := [(0, { ev := 2, cnt := 4, timer := true }), (5, { vec := 3, en := true, pend := true })], held := [3] } }).put0 0 (0x80C + 3 * 16) 0 1 1

theorem wit_timers : 0 < (timerDev.src ((timerDev.r0 0 B.igfSel).toNat % 2048)).ev ∧ (timerDev.src 0).timer = true ∧
    timerDev.intr.held = [0 * 64 + 3] ∧ (timerDev.hd 0).fnMask = false ∧ 0 * 64 + 3 ∈ delivVecs timerDev ∧
    useHandle timerDev 0 [1] 0x10000001 = some (obj 1) ∧ useHandle timerDev 0 [1] 0x10000009 = none := by decide

/-! Holdings and host ports. -/

/-- A device in RUN with functions 0 and 1 to come. -/
def funDev (st : HSt) : State :=
  ({ dev with hold := [(0, hold0), (1, { enable := true, st := st })], hport := [(0, { up := true, vfs := 1 })], job := {}, vid := {} }).put2 A.bootStatus 0 4 6

theorem wit_functions : (∀ st ∈ [HSt.absent, .resetting], functionFits (funDev st) 1 = true) ∧ ((funDev .absent).hd 1).present = false ∧
    running (funDev .absent) = true ∧ (∀ i ∈ (List.range 16).drop 1, ((funDev .absent).hd (0 * 16 + i)).present = false ∧
      ((funDev .absent).hd (0 * 16 + i)).back = false ∧ ((funDev .absent).hd (0 * 16 + i)).st ≠ .resetting) := by decide

/-- Holding 1 at rest, and RESETTING. -/
def restDev (st : HSt) : State :=
  { dev with hold := [(0, hold0), (1, { enable := true, present := true, d3 := true, st := st, td := if st = .resetting then some .flr else none })], job := {}, vid := {} }

theorem wit_atRest : AtRest (restDev .active) 1 ∧ ((restDev .active).hd 1).present = true ∧ ((restDev .active).hd 1).d3 = true ∧
    ((restDev .resetting).hd 1).st = .resetting ∧ ((restDev .resetting).hd 1).td = some .flr ∧
    ((restDev .resetting).hd 1).cut = false ∧ ((restDev .resetting).hd 1).back = false := by
  refine ⟨⟨by decide +kernel, by decide +kernel, by decide +kernel, by decide +kernel, by decide +kernel⟩, by decide +kernel, by decide +kernel, by decide +kernel, by decide +kernel, by decide +kernel, by decide +kernel⟩

/-- Holding 1 is DORMANT or ABSENT, enabled or not, with a Yoke quota. -/
def quotaDev (st : HSt) (en : Bool) (cu : Nat) : State :=
  { dev with hold := [(0, hold0), (1, { enable := en, present := st ≠ .absent, st := st, qYoke := cu })] }

theorem wit_holdings : Admin (quotaDev .dormant false 5) 0 ∧ ((quotaDev .dormant false 5).hd 1).enable = false ∧
    (∀ cu ∈ [5, 13], sumsRefuse ((quotaDev .dormant false cu).setHd 1
      { (quotaDev .dormant false cu).hd 1 with enable := true, pers := false, pv := false }) = if cu = 5 then 0 else 0x13) ∧
    ((quotaDev .absent true 5).hd 1).enable = true ∧ ((quotaDev .absent true 5).hd 1).st = .absent := by
  unfold Admin; decide

/-- Both physical functions are there; the role is `o`. -/
def roleDev (o : Option Nat) : State := { dev with hold := [(0, hold0), (16, hold0)], adm := { owner := o, lease := true } }

theorem wit_role : barOn (roleDev (some 0)) 0 = true ∧ (roleDev none).adm.owner = none ∧ (roleDev none).native 16 = true ∧
    (roleDev none).active 16 = true ∧ (roleDev (some 0)).native (16 - 0) = true ∧ (roleDev (some 0)).active (16 - 0) = true ∧
    (roleDev (some 16)).adm.owner ≠ some 0 ∧ (roleDev (some 0)).adm.lease = true ∧ fld ((roleDev none).r2 A.admLeaseMs) 0 16 ≠ 0 := by decide

theorem wit_hostPorts : (dev.hp 1).up = false ∧ dev.sys.powerGood = true ∧ dev.sys.porst = false ∧ (dev.hp 0).up = true ∧
    (∀ i ∈ List.range 16, ({ dev with hold := [] }.hd (0 * 16 + i)).present = false ∧ ({ dev with hold := [] }.hd (0 * 16 + i)).back = false) ∧
    ({ dev with hport := [(0, { up := true, outage := true, clx := .cl1 })] }.hp 0).outage = true ∧ Admin dev 0 ∧ (dev.hp 0).outage = false ∧
    barOn (roleDev (some 16)) 0 = true ∧ sqReads dev 0 1 (sqR false none) = true := by
  unfold Admin; decide

theorem wit_registers : windowOn dev 0 = false ∧ dev.native 0 = true ∧ (∀ a ∈ [0x100, 0x400], isPair dev 0 0 a = true ∧ rwPair dev 0 0 a = true) ∧
    isPair dev 0 0 (0x100 + 4) = false ∧ tget ({ hold0 with latch := [(pairKey 0 0x100, 5)] }).latch (pairKey 0 0x100) = some 5 ∧
    tget ({ hold0 with lowHeld := [(pairKey 0 B.admqSqBase, 5)] }).lowHeld (pairKey 0 B.admqSqBase) = some 5 ∧
    fld (dev.r0 0 B.admqCtrl) 0 2 = 2 := by decide

/-! Faults, time, ports, ingest. -/

/-- The Collector holds source 3, whose cause persists, and source 12. -/
def fltDev (safe : Bool) (sev : Nat) : State := { dev with hold := [], flt := { safe := safe, status := [(3, 2), (12, sev)], cause := [3] } }

theorem wit_faultRegisters : Admin dev 0 ∧ sevFixed 12 = false ∧ sevFixed 1 = true ∧ levelSrc 3 = true ∧ levelSrc 12 = false ∧
    3 ∈ (fltDev true 2).flt.cause ∧ 12 ∉ (fltDev true 2).flt.cause ∧ thas (fltDev true 2).flt.status 3 = true ∧
    (∀ p ∈ (fltDev true 2).flt.status, p.2 < 4) ∧ (∃ p ∈ (fltDev true 4).flt.status, 4 ≤ p.2) ∧
    (∀ p ∈ (fltDev true 2).hold, p.2.st ≠ .active ∧ p.2.st ≠ .resetting) ∧
    fld (dev.r0 0 B.chnSel) 0 8 = 0 ∧ dev.chan 0 = some chanD := by unfold Admin; decide

/-- Fields by their bits of FLD_CTRL. -/
def fieldsOn (l : List Nat) : State := l.foldl (fun t f => t.put2 (A.fld f) 0 1 1) ((List.range 8).foldl (fun t f => t.put2 (A.fld f) 0 1 0) dev)

/-- A multiplex group whose one member has a picture behind. -/
def tickDev : State :=
  { dev with vid := { vid with
      mux := [(0, { hold := 0, rate := 60, members := [1] })]
      chan := [(1, { chanE with mux := some 0, par := [(0x10E, 10)], look := [{ counter := 0, src := none, work := 0, pre := some {} }] })] } }

theorem wit_timeFields : Admin dev 0 ∧ follows dev = false ∧ follows (dev.put2 A.bkSyncCtrl 1 1 1) = true ∧
    fieldOn (fieldsOn [0, 1]) 0 = true ∧ fieldOn (fieldsOn [0, 1]) 1 = true ∧ (∀ g, g < 8 → g ≠ 0 → fieldOn (fieldsOn [0]) g = false) ∧
    (({ dev with yoke := { field := [(2, { draining := true })] } } : State).fs 2).draining = true ∧
    fieldPictures { dev with yoke := { field := [(2, { draining := true })] } } 2 = false ∧ drillBusy dev 2 = false ∧
    fieldGranted dev 2 = false := by unfold Admin; decide +kernel

theorem wit_muxTick : ∃ g y, tget tickDev.vid.mux 0 = some g ∧ g.members = [1] ∧ tickDev.chan 1 = some y ∧
    (behindOf y (lookOf tickDev y) []).isEmpty = false ∧ y.par_ 0x10E ≤ y.blk.maxrate :=
  ⟨_, _, rfl, rfl, rfl, by decide, by decide⟩

/-- Quad 0 in four-port mode, its PLL locked; P1 enabled or not, up or not. -/
def netDev (on up : Bool) : State :=
  { (dev.put2 (A.ingQuad 0) 0 2 1).put2 (A.ingPortCtrl 1) 0 1 (b2n on) with
    yoke := { dev.yoke with plls := [10] }
    ing := { port := [(1, { link := up })] } }

theorem wit_networkPorts : Admin (netDev true true) 0 ∧ portExists (netDev true true) 1 = true ∧ portOn (netDev false false) 1 = false ∧
    portOn (netDev true true) 1 = true ∧ portExists (dev.put2 (A.ingQuad 0) 0 2 3) 1 = false ∧ linkUp (netDev true true) 1 = true ∧
    linkUp (netDev true false) 1 = false ∧ (netDev true true).ing.flow = [] ∧ pvPortHold (netDev true true) 1 = none ∧
    (∀ i, i < 4 → portOn dev (4 * 0 + i) = false) ∧ 10 + 1 / 4 ∈ (netDev true false).yoke.plls ∧
    10 + 1 / 4 ∉ (netDev true false).yoke.unlocked ∧ bit ((netDev true true).put2 A.ingPause 1 1 1 |>.r2 A.ingPause) 1 = true ∧
    paused (netDev true true) 1 = false ∧ paused ((netDev true true).put2 A.ingPause 17 1 1) 1 = true := by
  unfold Admin; decide +kernel

/-- A frame of 60 bytes: zeros but for its type. -/
def frame60 : List Byte := List.replicate 12 0 ++ [0x08, 0x06] ++ List.replicate 46 0

/-- P1 has a frame in its buffer; node 0 of the parse graph goes on to itself, or ends
the walk and T0 entry 0 sends everything to channel 0. -/
def clsDev (hit : Bool) : State :=
  let s := { netDev true true with ing := { port := [(1, { link := true, buf := [{ port := 1, data := frame60, start := 0, arrive := 5 }] })] } }
  if hit then ((s.w2 (A.ingNode 0) 0x100000).w2 (A.ingT0 0 + 8) 0x40).w2 (A.ingT0 0 + 12) 1 else s

theorem wit_receive : 60 ≤ frame60.length ∧ frame60.length ≤ 9212 ∧ isPause frame60 = false ∧ (netDev true true).flt.safe = false ∧
    bufUsed (netDev true true) 1 + frame60.length + 4 ≤ 1048576 ∧ (59 : Nat) + 4 < 64 ∧ 9216 < (9213 : Nat) + 4 := by decide +kernel

theorem wit_classifyRefused : nextPort (clsDev false) = some 1 ∧ (clsDev false).flt.safe = false ∧
    ((clsDev false).nport 1).buf = [{ port := 1, data := frame60, start := 0, arrive := 5 }] ∧ pvPortHold (clsDev false) 1 = none ∧
    bit ((clsDev false).r2 (A.ingPortCtrl 1)) 3 = false ∧ (walk (clsDev false) frame60 (fld ((clsDev false).r2 A.ingGraph) 0 6)).2 = some Rsn.depth ∧
    t0Find (clsDev false) (t0Key 1 none none) = none ∧
    bit ((clsDev false).r2 (A.ingExcCfg (fld ((clsDev false).r2 (A.ingPortCtrl 1)) 4 5))) 10 = false := by decide +kernel

theorem wit_classifyChannel : nextPort (clsDev true) = some 1 ∧ (walk (clsDev true) frame60 (fld ((clsDev true).r2 A.ingGraph) 0 6)).2 = none ∧
    t0Find (clsDev true) (t0Key 1 none none) = some 0 ∧ (clsDev true).ing.t1 = [] ∧
    (∀ j, j < 1024 → bit ((clsDev true).r2 (t3Addr j + 0x64)) 0 = false) ∧ actKind (t0Word (clsDev true) 0 3) = 1 ∧
    bit (t0Word (clsDev true) 0 3) 13 = false ∧ bit (t0Word (clsDev true) 0 3) 26 = false ∧
    (clsDev true).chan (actChan (t0Word (clsDev true) 0 3)) = some chanD ∧ chanD.hold = t0Hold (clsDev true) 0 ∧ chanD.st = .opened := by
  decide +kernel

/-- A packet, and a flow that waits for number 5 and holds number 6. -/
def pkt6 : Pkt := { num := 6, arrive := 0, pay := [], cell := 0, rtp := [] }
def ingFlow : Flow := { hold := 0, chan := 0, slot := 0, mode := 0, port := 1, portB := 1, pid := 0, reorder := 100, meter := none, e := some 5, held := [pkt6], up := 3 }

/-- Holding 0 may have cells. -/
def cellDev : State := { dev with hold := [(0, { hold0 with qMax := 4 })] }

theorem wit_ingestTimers : (dev.fifo (fin_ 0)).pend = none ∧ fifoUsed (dev.fifo (fin_ 0)) + itemCells 100 ≤ chanD.blk.fifoCells ∧
    (∃ k, (allocChain cellDev 0 (itemCells 100)).1 = some k) ∧ 0 < tgetD [(0, 2)] 0 0 ∧ fld ((dev.w2 (A.ingExcRate 0) 0x10001).r2 (A.ingExcRate 0)) 0 16 ≠ 0 ∧
    5 < ingFlow.mod ∧ pkt6.num = (5 + 1) % ingFlow.mod ∧ ingFlow.up.testBit 1 = true := by
  refine ⟨by decide, by decide, Option.isSome_iff_exists.1 (by decide +kernel), by decide, by decide, by decide, by decide, by decide⟩

/-- The entry that zero data words spell. -/
def t1Zero : T1E := { prof := 0, key := List.replicate 37 0, flow := 5, role := 0, ports := 0, hold := 0, ts := false, action := 0 }
def tblDev (w13 : Word) (l : List T1E) : State := { dev.w2 (A.ingTblData + 52) w13 with ing := { t1 := l } }

/-- Without an enabled port every table word may be written; a port that runs unpaused stops it. -/
theorem wit_tableWords : meterWord A.ingGraph = false ∧ A.ingGraph % 4 = 0 ∧ tableWord dev A.ingGraph 3 = some (0x3F, true, false) ∧
    tableWord (netDev true true) A.ingGraph 3 = some (0x3F, false, false) ∧ meterWord (A.ingMeter 1) = true ∧ A.ingMeter 1 % 4 = 0 ∧
    fld (meterNow dev (A.ingMeter 1)) 0 28 ≤ fld (meterNow dev (A.ingMeter 1 + 4)) 0 28 ∧
    fld (meterNow (dev.w2 (A.ingMeter 1) 2) (A.ingMeter 1 + 4)) 0 28 < fld (meterNow (dev.w2 (A.ingMeter 1) 2) (A.ingMeter 1)) 0 28 := by
  decide +kernel

theorem wit_tableCommands : Admin (tblDev 0 []) 0 ∧ (tblDev 0 []).ing.cmd = none ∧ bit (1 : Word) 2 = false ∧
    kindReserved (tblData (tblDev 0 []) 13) = false ∧ maskPaused (tblDev 0 []) (tblT1 (tblDev 0 []) 0).ports = true ∧
    (tblDev 0 []).ing.t1.any (tblT1 (tblDev 0 []) 0).same = false ∧ (tblDev 0 [t1Zero]).ing.t1.any (tblT1 (tblDev 0 [t1Zero]) 0).same = true ∧
    (tblDev 0 [t1Zero]).ing.t1.find? (fun y => decide (y.prof = fld (1 : Word) 3 2) && decide (y.key = tblKey (tblDev 0 [t1Zero]))) = some t1Zero ∧
    (tblDev 0 []).ing.t1.find? (fun y => decide (y.prof = fld (1 : Word) 3 2) && decide (y.key = tblKey (tblDev 0 []))) = none := by
  unfold Admin; decide +kernel

/-! Memory and its upkeep. -/

theorem wit_dramErrors : dramServes dev = true ∧ devGranules dev * granule ≤ 960 * granule ∧
    (∀ a ∈ [granule, granule + 256, 256, 928 * granule], a < devGranules dev * granule ∧ a / 32 ∉ dev.drm.poison) ∧
    (∀ a ∈ [granule, granule + 256], critical dev a = false) ∧ (∀ a ∈ [256, 928 * granule], critical dev a = true) ∧ Admin dev 0 := by
  unfold Admin; decide +kernel

/-- Bank 3 owes 6 refreshes, bank 2 owes 7. -/
def oweDev (d : Drm) : State := { dev with drm := { d with owed := [(2, 7), (3, 6)] } }

theorem wit_refresh : dev.drm.ranks = 1 ∧ dev.drm.raw ≠ 0 ∧ dev.drm.self = false ∧ fld (dev.r2 A.drcCtrl) 0 8 ≠ 0 ∧
    (∀ b, b < 16 → owedOf dev.drm ((0 * 2 + 0) * 16 + b) ≤ 5) ∧
    ((List.range 16).filter fun b => decide (6 ≤ if b ∈ [2, 5] then min 8 (owedOf (oweDev dev.drm).drm ((0 * 2 + 0) * 16 + b) + 1)
      else owedOf (oweDev dev.drm).drm ((0 * 2 + 0) * 16 + b))).length < 8 := by decide +kernel

theorem wit_retrain : dev.drm.retrain = none ∧ (3 : Nat) ∈ ({ dev.drm with due := [3] } : Drm).due ∧ 3 ∉ dev.drm.due ∧
    10 < (11 : Int) - trainTemp dev 3 ∧ (-11 : Int) - trainTemp dev 3 < -10 ∧ -10 ≤ (-10 : Int) - trainTemp dev 3 ∧
    (10 : Int) - trainTemp dev 3 ≤ 10 ∧ ({ dev.drm with retrain := some 3 } : Drm).retrain = some 3 := by decide +kernel

theorem wit_granule : (dev.hd 0).enable = true ∧ 2 < (dev.hd 0).qDram ∧ tget dev.drm.map (4096 * 0 + 2) = none ∧ 5 < dramAvail dev ∧
    (∀ p ∈ dev.drm.map, p.2 ≠ 5) := by decide +kernel

/-- Cells in use: an on-chip one, or a spill cell. -/
def spillDev (c : Nat) : State := { dev with grn := { cells := [(c, { next := lastCell, head := true, alloc := true, refs := 1, hold := 0 })] } }

theorem wit_spill : (64 : Word).toNat % 128 ≤ 64 ∧ 64 < (65 : Word).toNat % 128 ∧ (∀ p ∈ (spillDev 65535).grn.cells, p.1 < 65536) ∧
    (∃ p ∈ (spillDev 65536).grn.cells, 65536 ≤ p.1) ∧ sumsRefuse ((spillDev 65535).put2 A.grnSpill 0 7 64) = 0 ∧
    (∀ p ∈ (spillDev 65535).drm.map, p.2 < dramAvail ((spillDev 65535).put2 A.grnSpill 0 7 64)) := by decide +kernel

/-! Rings of the DMA engine. -/

/-- Receive ring 0 of holding 0: off with legal sizes, or on with three records and none taken. -/
def rxDev (on : Bool) : State :=
  { dev.w0 0 (B.rxr 0 + 8) (BitVec.ofNat 32 (b2n on + 4 * 2 + 11 * 32)) with dma := { rx := [(0, { pi := 3 })] } }

theorem wit_receiveRings : barOn dev 0 = true ∧ dev.native 0 = true ∧ dev.active 0 = true ∧ bit (rxCtrl (rxDev false) 0 0) 0 = false ∧
    4 ≤ fld (rxCtrl (rxDev false) 0 0) 1 4 ∧ fld (rxCtrl (rxDev false) 0 0) 1 4 ≤ 12 ∧ 11 ≤ fld (rxCtrl (rxDev false) 0 0) 5 4 ∧
    fld (rxCtrl (rxDev false) 0 0) 5 4 ≤ 14 ∧ idxDist 16 3 2 ≤ idxDist 16 3 0 ∧ (16 : Nat) ≤ 16 % 0x8000 ∧
    idxDist 16 3 1 < idxDist 16 3 0 := by decide +kernel

/-- Descriptor ring 2 is holding 0's: off or on, with what it is doing. -/
def ringDev (on : Bool) (x : DRing) : State :=
  { (dev.w2 (A.dmaRingOwner 2) 0x20).w0 32 (B.dmar 2 + 8) (BitVec.ofNat 32 (b2n on + 4 * 2)) with
    dma := { ring := [(2, x)] }, hold := [(0, { hold0 with qMax := 4 })] }

/-- A descriptor of `len` bytes: its first word, source and destination. -/
def desc (w0 src dst len : Nat) : List Word := [BitVec.ofNat 32 w0, BitVec.ofNat 32 len, BitVec.ofNat 32 src, 0, BitVec.ofNat 32 dst, 0, 0, 0]

theorem wit_ringControl : ringMine (ringDev false {}) 0 2 = true ∧ bit (ringCtrl (ringDev false {}) 2) 0 = false ∧
    bit (ringCtrl (ringDev true {}) 2) 0 = true ∧ 4 ≤ fld (ringCtrl (ringDev false {}) 2) 1 4 ∧ fld (ringCtrl (ringDev false {}) 2) 1 4 ≤ 12 ∧
    (ringDev false {}).active 0 = true ∧ ringOwner (ringDev true {}) 2 = some 0 := by decide +kernel

theorem wit_descriptors : (∀ o ∈ [0, 1], (desc o 0x20000 0x100 64).length = 8) ∧ bit ((desc 1 0x20000 0x100 64).getD 0 0) 0 = true ∧
    bit ((desc 0 0x20000 0x100 64).getD 0 0) 0 = false ∧ bit (({ w := desc 1 0x20000 0x100 64 } : Desc).wd 0) 2 = false ∧
    descCheck (ringDev true {}) 0 { w := desc 1 0x20000 0x100 0 } = .error St.illegal ∧
    descCheck (ringDev true {}) 0 { w := desc 1 0x20000 0x100 64 } = .ok (.at_ (.dev 0x20000), .at_ (.dev 0x100)) ∧
    devMapped (ringDev true {}) 0 0x20000 64 = true ∧ devMapped (ringDev true {}) 0 0x100 64 = true ∧
    devPoison (ringDev true {}) 0 0x20000 64 = false ∧ overlaps (.dev 0x20000) (.dev 0x100) 64 = false ∧
    overlaps (.dev 0x100) (.dev 0x20000) 64 = false ∧ Apart (ringDev true {}) 0 0x100 64 := by
  refine ⟨by decide +kernel, by decide +kernel, by decide +kernel, by decide +kernel, rfl, rfl, by decide +kernel,
    by decide +kernel, by decide +kernel, by decide +kernel, by decide +kernel, apart_one _ (by decide)⟩

/-- Ring 2 waits for the one cell of an item of 64 bytes for channel 0. -/
def waitRing : DRing := { cur := some { w := desc 0x41 0x20000 0 64 }, run := true, wait := true }

theorem wit_ringResume : ((ringDev true waitRing).ring 2).wait = true ∧
    descCheck (ringDev true waitRing) 0 { w := desc 0x41 0x20000 0 64 } = .ok (.at_ (.dev 0x20000), .fifo 0) ∧ itemCells 64 = 1 ∧
    (ringDev true waitRing).chan 0 = some chanD ∧ fifoUsed ((ringDev true waitRing).fifo (fin_ 0)) < chanD.blk.fifoCells ∧
    (∃ q, growChain (ringDev true waitRing) 0 none = some q) ∧ dev.chan 9 = none ∧ ((ringDev true waitRing).ring 2).cur.isSome = true := by
  refine ⟨by decide +kernel, rfl, by decide, by decide +kernel, by decide +kernel, Option.isSome_iff_exists.1 (by decide +kernel),
    by decide, by decide +kernel⟩

/-! Egress. -/

/-- An egress flow of channel 1 to P0, unshaped, with feed slot 3. -/
def egrFlow : EFlow :=
  { hold := 0, chan := 1, slot := 0, mode := 0, svc := 0, port := 0, vpid := 256, ppid := 256, pkts := 7, pcrMs := 35, holdUs := 100000,
    dscp := 0, ttl := 64, feed := some 3, feedLog2 := 12, feedBase := 0x10000, cir := 0, pir := 0, cbs := 0, pbs := 0, quantum := 2000,
    qlimit := 100, ssrc := 0, muxDelay := 0, vlan := 0, mac := List.replicate 6 0, dst := List.replicate 16 0, srcA := List.replicate 16 0,
    dport := 5000, sport := 5000, psi := [{ addr := 0x20000, pid := 0, ms := 100, en := true, crc := false }] }

/-- An item of the first row of a picture, and a gap marker. -/
def egrItem : Item :=
  { cell := 0, cells := 1, len := 300, gap := false, reset := false, time := 0, items := 0, bytes := 0, data := List.replicate 300 7,
    pic := some (0, 0, 0, true) }
def egrGap : Item := { egrItem with gap := true, len := 0, data := [], pic := none }

/-- Holding 0 may have cells; channel 1 has an item for the flow; device memory holds a template of 3 bytes at 0x20000. -/
def egrD (x : EFlow) (i : Item) (mem : List Host.Cell := []) : State :=
  { dev with
    hold := [(0, { hold0 with qMax := 4 })]
    drm := { dev.drm with mem := mem }
    egr := { flow := [(9, x)] }
    grn := { cells := [(0, { next := lastCell, head := true, alloc := true, refs := 1, hold := 0 })], fifo := [(fout 1, { items := [i] })] } }

theorem wit_egressTake : (egrD egrFlow egrItem).flt.safe = false ∧ egrFlowsOf (egrD egrFlow egrItem) 1 = [9] ∧
    ((egrD egrFlow egrItem).fifo (fout 1)).items = egrItem :: [] ∧ ((egrD egrFlow egrGap).fifo (fout 1)).items = egrGap :: [] ∧
    tget (egrD egrFlow egrItem).egr.flow 9 = some egrFlow ∧ (egrD egrFlow egrItem).chan 1 = some chanE ∧
    (takeItem false egrFlow egrItem).1.length = 1 ∧ queueRoom egrFlow (takeItem false egrFlow egrItem).1.length = true ∧
    (cellsFor (egrD egrFlow egrItem) 0 (takeItem false egrFlow egrItem).1.length).1.isSome = true ∧
    (cellsFor ((egrD egrFlow egrItem).setFifo (fout 1) { (egrD egrFlow egrItem).fifo (fout 1) with items := [] }) 0
      (takeItem false egrFlow egrItem).1.length).1.isSome = true := by decide +kernel

theorem wit_egressFeed : barOn (egrD egrFlow egrItem) 0 = true ∧ (egrD egrFlow egrItem).native 0 = true ∧
    feedFlow (egrD egrFlow egrItem) 0 3 = some 9 ∧ egrFlow.feed = some 3 ∧ (4 : Nat) < 8 ∧ 4 ≤ 2 ^ egrFlow.feedLog2 ∧
    2 ^ egrFlow.feedLog2 < (4097 : Nat) ∧ ((egrD egrFlow egrItem).r0 0 (B.egfPi 3)).toNat ≤ 4 := by decide +kernel

/-- A TS packet of the flow. -/
def tsP : TsPkt := { data := List.replicate 188 0 }

theorem wit_egressTimers : ({ egrFlow with dgram := [tsP] } : EFlow).dgram ≠ [] ∧ egrFlow.ready = [] ∧ egrFlow.closing = false ∧
    egrFlow.offset = none ∧ ({ egrFlow with offset := some 0 } : EFlow).offset ≠ none ∧
    egrFlow.psi[0]? = some { addr := 0x20000, pid := 0, ms := 100, en := true, crc := false } := by decide +kernel

theorem wit_egressPsi : let p : Psi := { addr := 0x20000, pid := 0, ms := 100, en := true, crc := false }
    let s := egrD egrFlow egrItem [(0x20000, 3), (0x20008, 2)]
    psiMapped s 0 p = true ∧ psiRead s 0 p = some [2, 0, 0] ∧ queueRoom egrFlow (psiPackets 0 [2, 0, 0]).length = true ∧
      (cellsFor s 0 (psiPackets 0 [2, 0, 0]).length).1.isSome = true ∧ psiRead (egrD egrFlow egrItem) 0 p = none ∧ p.copy = none := by
  decide +kernel

/-- P0 is on and its link up, or not; the flow has a datagram ready. -/
def sendDev (on : Bool) : State :=
  { (egrD { egrFlow with ready := [tsP], feed := none } egrItem).put2 (A.egrPort 0) 0 1 (b2n on) with ing := { port := [(0, { link := on })] } }

theorem wit_egressSend : (∀ on ∈ [true, false], ∃ k, choose (sendDev on) 0 = some k ∧ k.c.x.feed = none ∧ k.c.x.closing = false) ∧
    bit ((sendDev true).r2 (A.egrPort 0)) 0 = true ∧ linkUp (sendDev true) 0 = true ∧ bit ((sendDev false).r2 (A.egrPort 0)) 0 = false ∧
    linkUp (sendDev false) 0 = false ∧ (sendDev true).egr.flow.length ≤ 64 := by
  refine ⟨?_, by decide +kernel, by decide +kernel, by decide +kernel, by decide +kernel, by decide +kernel⟩
  have h : ∀ on ∈ [true, false], ((choose (sendDev on) 0).any fun k => decide (k.c.x.feed = none) && !k.c.x.closing) = true := by decide +kernel
  intro on ho
  have g := h on ho
  cases e : choose (sendDev on) 0 with
  | none => rw [e] at g; cases g
  | some k => rw [e] at g; simp at g; exact ⟨k, rfl, g.1, g.2⟩

/-- More than 64 flows. -/
theorem wit_egressMany : 64 < ({ dev with egr := { flow := (List.range 65).map fun e => (e, egrFlow) } } : State).egr.flow.length ∧
    Admin dev 0 := by unfold Admin; decide +kernel

/-! The Yoke, clocks and power levels. -/

/-- A request of holding 0 on Field 0 for class C2. -/
def yreq (live : Bool) : YReq := { key := 0, field := 0, hold := 0, cls := 2, live := live, fallow := 0 }
def reqDev (r : YReq) (c : Nat) (q : Nat) : State :=
  { dev.put2 A.yokeCeiling 0 11 c with yoke := { dev.yoke with reqs := [r] }, hold := [(0, { hold0 with qYoke := q })] }

theorem wit_admit : (reqDev (yreq true) 1200 100).yoke.reqs = [yreq true] ∧ (reqDev (yreq true) 1200 100).yoke.change = none ∧
    envActive (reqDev (yreq true) 1200 100) ≠ 2 ∧
    ledger (reqDev (yreq true) 1200 100) + paidSum (reqPaid (reqDev (yreq true) 1200 100) (yreq true)) ≤ ceiling (reqDev (yreq true) 1200 100) ∧
    (reqDev (yreq true) 1200 100).yoke.grants = [] ∧
    ceiling (reqDev (yreq false) 208 0) < ledger (reqDev (yreq false) 208 0) + paidSum (reqPaid (reqDev (yreq false) 208 0) (yreq false)) ∧
    reqGroup (reqDev (yreq false) 208 0) (yreq false) = 4 := by decide +kernel

/-- Ramps that wait: an uncore PLL's, a Field's. -/
theorem wit_ramp : ({ unit := 10, cost := 5, clk := 0 } : Ramp).key = none ∧ (8 : Nat) ≤ ({ unit := 10, cost := 5, clk := 0 } : Ramp).unit ∧
    ({ unit := 0, cost := 5, clk := 12 } : Ramp).unit < 8 ∧ ({ unit := 0, cost := 5, clk := 12 } : Ramp).clk ≠ 0 ∧
    0 ∈ ({ dev.yoke with recalls := [0] } : Yoke).recalls ∧ dev.yoke.change = none := by decide

theorem wit_ceiling : Admin dev 0 ∧ bit (dev.r2 A.bkPoolCtrl) 0 = false ∧
    dev.hold.foldl (fun n p => if p.2.enable then n + p.2.qYoke else n) 0 + 208 ≤ max 320 (min 1200 ((320 : Word).toNat % 2048)) ∧
    ledger dev ≤ max 320 (min 1200 ((320 : Word).toNat % 2048)) ∧
    max 320 (min 1200 ((320 : Word).toNat % 2048)) < (reqDev (yreq true) 0 113).hold.foldl (fun n p => if p.2.enable then n + p.2.qYoke else n) 0 + 208 ∧
    (208 : Nat) ≤ ledger dev ∧ ledger dev < 209 := by unfold Admin; decide +kernel

theorem wit_fallow : (1 : Nat) * 32 + 3 ∉ dev.yoke.fallow ∧ (∀ x ∈ dev.yoke.fallow, x / 32 ≠ 5) ∧ (∀ q ∈ dev.yoke.reqs, q.key ≠ 256 + 2) ∧
    160 + 2 ∈ ({ fallow := [162], grants := [{ key := 258, field := 2, hold := 32, eng := 0, paid := [], borrowed := false }] } : Yoke).fallow ∧
    (∀ w ∈ dev.job.work, w.2.engine = false ∨ w.2.ctx / 32 ≠ 2) := by decide

theorem wit_temperatures : sensorOut dev = none ∧ tempTop [40, 50, 45] = 50 ∧ (50 : Int) < (fld (dev.r2 A.tempCfg) 0 8 : Nat) ∧
    (50 : Int) < (min 110 (fld (dev.r2 A.tempCfg) 8 8) : Nat) ∧ 120 ≤ tempTop [40, 120] ∧ dev.yoke.hot = false ∧
    (∀ f, f < 8 → (dev.fs f).throttle = 0) ∧ 2 ∉ dev.flt.cause := by decide +kernel

/-- A device with Field states, PLLs and an uncore level. -/
def powDev (y : Yoke) : State := { dev with yoke := y, vid := {}, job := {} }

theorem wit_fieldPower : fieldGranted (powDev { field := [(0, { fs := 1, clk := 10 })] }) 0 = false ∧
    drillBusy (powDev { field := [(0, { fs := 1, clk := 10 })] }) 0 = false ∧
    ((powDev { field := [(0, { fs := 1, clk := 10 })] }).fs 0).fs < min 2 (deepestFs (powDev { field := [(0, { fs := 1, clk := 10 })] }) 0) ∧
    ((powDev { field := [(0, { waking := true })] }).fs 0).waking = true ∧ ((powDev { field := [(0, { pllStop := true })] }).fs 0).pllStop = true := by
  decide +kernel

theorem wit_plls : 10 ∈ (powDev { plls := [10] }).yoke.plls ∧ pllUser (powDev { plls := [10] }) 10 = false ∧
    pllRuns (powDev { plls := [10] }) 10 = true ∧ pllRuns (powDev { field := [(0, { clk := 10 })] }) 0 = true ∧
    10 ∉ (powDev { plls := [10] }).yoke.unlocked ∧ (powDev { unlocked := [10] }).yoke.unlocked = [10] := by decide +kernel

/-- Every rank is in power-down. -/
def downDev (pl : Nat) (w : Option Nat) : State :=
  { powDev { pl := pl, wake := w } with drm := { dev.drm with pd := (List.range 32).map id } }

theorem wit_uncore : (∀ l ∈ [1, 2, 3, 4], l ≤ deepestPl (downDev 0 none) ∧ plCond (downDev 0 none) l = true) ∧ (downDev 0 none).yoke.wake = none ∧
    0 < (downDev 4 none).yoke.pl ∧ (downDev 4 (some 0)).yoke.wake = some 0 := by decide +kernel

theorem wit_envelope : Admin dev 0 ∧ bit (dev.r2 A.pwrEnvelope) 3 = false ∧ (2 : Word).toNat % 4 ≠ 3 ∧ (3 : Word).toNat % 4 = 3 ∧
    dev.yoke.fast = [] ∧ envTotal dev 2 ≤ ceiling dev ∧ ceiling (dev.put2 A.yokeCeiling 0 11 100) < envTotal (dev.put2 A.yokeCeiling 0 11 100) 2 ∧
    bit ((dev.put2 A.pwrEnvelope 3 1 1).r2 A.pwrEnvelope) 3 = true ∧ (790 : Nat) ≤ envVolt 2 + 10 ∧ envVolt 2 ≤ 790 + 10 ∧
    envVolt 2 + 10 < 811 ∧ (789 : Nat) + 10 < envVolt 2 := by unfold Admin; decide +kernel

/-! Self-tests, resets and boot. -/

/-- A test runs. -/
def testDev (t : Option (Nat × Nat)) (used : Nat := 0) : State := { dev with sys := { dev.sys with stRun := t, repairUsed := used, softRepairs := 28 } }

theorem wit_selfTests : Admin (testDev none) 0 ∧ (testDev none).sys.stRun = none ∧ dueFieldTest (testDev none) = false ∧
    (∀ g, g < 8 → 160 + g ∉ (testDev none).yoke.fallow) ∧ (∀ q ∈ (testDev none).yoke.reqs, q.key ≠ 256 + 0) ∧
    (∀ l, l < 20 → lanePortOn (testDev none) l = false) ∧ lanePortOn (netDev true true) 1 = true ∧ (testDev (some (3, 0))).sys.stRun ≠ none ∧
    ({ unit := 8 + 5, res := 1, detail := 0, dur := 1 } : TestRes).unit = 8 + 5 ∧
    (testDev (some (7, 0)) 100).sys.repairUsed + (testDev (some (7, 0)) 100).sys.softRepairs ≤ 128 ∧
    128 < (testDev (some (7, 0)) 101).sys.repairUsed + (testDev (some (7, 0)) 101).sys.softRepairs := by unfold Admin; decide +kernel

/-- A sound firmware image, and a good board record. -/
def fwImg : Image :=
  { magic := 0x5746515A, device := 0x9600, stepping := 0xA2, svn := 1, version := 7, length := 4096, flags := 0, rsvOk := true,
    keyOk := true, sigOk := true, tagOk := true, plain := [] }
def brd : Board :=
  { magic := 0x4342515A, rate := 1, density := 0, ranks := 1, pmbus := 32, ceiling := 800, flags := 0, restZero := true, crcOk := true }

/-- Before the rising edge of PORST_N. -/
def bootDev : State := State.reset

theorem wit_boot : bootDev.sys.porst = true ∧ bootDev.sys.powerGood = true ∧ bootDev.sys.sysrst = false ∧ fwOk bootDev fwImg = true ∧
    boardOk brd = true ∧ brd.flags = 0 ∧ (∀ p, (bootDev.hp p).up = false) ∧ rawGranules brd.density brd.ranks = some 1024 ∧
    dev.sys.porst = false ∧ dev.sys.powerGood = true :=
  ⟨rfl, rfl, rfl, by decide, by decide, rfl, fun _ => rfl, rfl, rfl, rfl⟩

/-- SYSRST_N is held low, with and without PORST_N; BOOT_MODE 1 has been sampled. -/
theorem wit_release : (∀ p ∈ [true, false], let s : State := { dev with sys := { dev.sys with porst := p, sysrst := true, bootMode := 1 } }
    s.sys.sysrst = true ∧ s.sys.porst = p ∧ s.sys.powerGood = true ∧ s.sys.bootMode = 1) := by decide

/-- The boot window is open and wants the firmware image, or nothing yet. -/
def winDev (ready : Bool) : State :=
  { dev.put2 A.bootStatus 16 1 (b2n ready) with sys := { dev.sys with bwOpen := true } }

theorem wit_window : (winDev true).sys.bwOpen = true ∧ ((winDev true).hp 0).up = true ∧ bit ((winDev false).r2 A.bootStatus) 16 = false ∧
    bit ((winDev true).r2 A.bootStatus) 16 = true ∧ fld (0x400000 : Word) 22 2 ≠ fld ((winDev true).r2 A.bootStatus) 17 2 ∧
    fld ((winDev true).r2 A.bootStatus) 17 2 = 0 ∧ fld (4400 : Word) 22 2 = 0 ∧ fwOk (winDev true) fwImg = true ∧
    304 + fwImg.length ≤ fld (4400 : Word) 0 22 ∧ fld (4400 : Word) 0 22 ≤ 1048880 ∧
    (∀ n ∈ [2, 6], 2 ≤ fld ((dev.put2 A.bootStatus 0 4 n).r2 A.bootStatus) 0 4 ∧ fld ((dev.put2 A.bootStatus 0 4 n).r2 A.bootStatus) 0 4 ≤ 6) := by
  decide +kernel

/-! Baulk. -/

/-- Device 0 of a group: B1 on, its PLL locked; up with peer 2 or not. Export 3 gives peer 2 granule 0 and 1 of holding 0. -/
def bkDev (p : BPort) : State :=
  { (((((dev.put2 (A.bkPortCtrl 1) 0 1 1).put2 (A.bkPortStatus 1) 1 2 2).w2 0xC01030 0xC0).w2 0xC01034 0).w2 0xC01038 2) with
    yoke := { dev.yoke with plls := [12] }
    baulk := { port := [(1, p)] } }
def upPort : BPort := { up := true, tx := 3, rx := 5, credit := 1000 }

theorem wit_baulkUp : bkOn dev 1 = false ∧ bkReady (bkDev {}) 1 = true ∧ ((bkDev {}).bp 1).up = false ∧ (1 : Nat) ≠ (0 + 1 + 1) % 4 ∧
    ((bkDev upPort).bp 1).up = true ∧ ((bkDev upPort).bp 1).wait = [] ∧
    ((bkDev { upPort with replay := [(2, 7, [])] }).bp 1).replay ≠ [] := by decide +kernel

theorem wit_baulkFrames : Next (bkDev upPort) 1 { dst := 0, seq := 5 } ∧ (bkDev upPort).flt.safe = false ∧
    exportAt (bkDev upPort) 1 3 0x100 4 = some (0, 0x100) ∧ devMapped (bkDev upPort) 0 0x100 4 = true ∧
    Apart (bkDev upPort) 0 0x100 4 ∧ exportAt (bkDev upPort) 1 4 0 4 = none ∧ exportAt (bkDev upPort) 1 4 0 0 = none ∧
    ((bkDev upPort).bp 1).replay.length < 64 ∧ 256 + 32 ≤ ((bkDev upPort).bp 1).credit ∧ devPoison (bkDev upPort) 0 0x100 4 = false ∧
    exportAt (bkDev upPort) 1 3 0 0 = some (0, 0) ∧ tget (bkDev upPort).job.obj (0x800000 + 0 % 65536) = some (obj 0) ∧
    (obj 0).hold = 0 ∧ tget (bkDev upPort).job.sem (obj 0).ref = some { hold := 0, count := 2 } ∧ (2 : Nat) + 7 < 2 ^ 32 := by
  refine ⟨⟨by decide +kernel, by decide +kernel, by decide +kernel⟩, by decide +kernel, by decide +kernel, by decide +kernel,
    apart_one _ (by decide), by decide +kernel, by decide +kernel, by decide +kernel, by decide +kernel, by decide +kernel,
    by decide +kernel, rfl, rfl, rfl, by decide⟩

theorem wit_baulkReplay : (∀ n ∈ [0, 8], ((bkDev { upPort with replay := [(2, 7, [])], nreplay := n, naked := 2 }).bp 1).nreplay = n ∧
    ((bkDev { upPort with replay := [(2, 7, [])], nreplay := n, naked := 2 }).bp 1).replay = (2, 7, []) :: []) := by decide +kernel

theorem wit_baulkTables : Admin (bkDev {}) 0 ∧ bit ((bkDev {}).r2 (0xC01000 + 16 * 4)) 7 = false ∧ bit ((bkDev {}).r2 (0xC01000 + 16 * 3)) 7 = true ∧
    bit ((bkDev {}).r2 (0xC02000 + 16 * 63)) 13 = false ∧ bit (0x2000 : Word) 13 = true := by unfold Admin; decide +kernel

/-- Device `i` of a group that hears `l`, taking part in the pool or not, with a share. -/
def bkPool (i : Nat) (l : List Nat) (on : Bool) (share : Nat := 400) : State :=
  { (((dev.put2 A.yokeCeiling 0 11 800).put2 A.bkPoolCtrl 0 1 (b2n on)).put2 A.bkPoolCtrl 16 13 2000).put2 A.bkPoolStatus 0 11 share with
    sys := { dev.sys with baulkId := i }, baulk := { present := l, gather := true } }

theorem wit_pool : Admin (bkPool 2 [1] false) 0 ∧ poolOn (bkPool 2 [1] false) = false ∧ bit (0x2800001 : Word) 0 = true ∧
    640 ≤ fld (0x2800001 : Word) 16 13 ∧ 1 ≤ ceiling (bkPool 2 [1] false) ∧ poolOn (bkPool 2 [1] true) = true ∧
    poolLeader (bkPool 2 [1] true) = some 1 ∧ share (bkPool 2 [1] true) < max 320 (min 1200 ((401 : Word).toNat % 2048)) ∧
    ceiling (bkPool 2 [1] true) ≤ 1200 ∧ 320 < ceiling (bkPool 2 [1] true) ∧ leads (bkPool 0 [] true) = true ∧
    (poolMembers (bkPool 0 [] true)).foldl (fun n i => n + shareOf (bkPool 0 [] true) i) 0 ≤ budget (bkPool 0 [] true) ∧
    syncLeads (bkPool 0 [1] true) = true ∧ bit (((bkPool 0 [1] true).put2 A.bkSyncCtrl 0 1 1).r2 A.bkSyncCtrl) 0 = true := by
  unfold Admin; decide +kernel

/-- A follower whose DTB is off the edge by so many ns. -/
def syncDev (ns : Nat) : State := { dev.put2 A.bkSyncCtrl 1 1 1 with tim := { dtb := BitVec.ofNat 64 (5000000 + ns) } }

theorem wit_sync : follows (syncDev 0) = true ∧ 1000 < syncDiff (syncDev 1001) ∧ syncDiff (syncDev 998999) < -1000 ∧
    -1000 ≤ syncDiff (syncDev 999000) ∧ syncDiff (syncDev 1000) ≤ 1000 := by decide +kernel

/-! PV16. -/

/-- Holding 0 is a PV16 holding: its channels 0 to 3 are device channels 0 (decode), 1 (encode), 4 (transcode) and 9 (closed). -/
def pvDev (x : Option Ctx) : State :=
  { ((((((dev.w0 0 0x404 (480 * 65536 + 640)).w0 0 0x408 3).w0 0 0x40C 1000).w0 0 0x41C 0x4000).w0 0 0x580 4).w0 0 0x584 (480 * 65536 + 640)).w0 0 0x588 3 |>.w0 0 0x58C 1000
      |>.w0 0 0x590 1000 |>.w0 0 0x598 30 |>.w0 0 0x59C 0x4000 |>.w0 0 0x88 4 |>.w0 0 0x108 0x8001 |>.w0 0 4 1 |>.w0 0 0x10 1 with
    hold := [(0, { hold0 with pv := true, pvChans := [0, 1, 4, 9], pvPorts := 1, qMax := 4 })]
    yoke := { dev.yoke with field := (List.range 8).map fun f => (f, { fs := 0, clk := 10 }) }
    vid := { vid with chan := vid.chan ++ [(4, { chanE with blk := blk 2 false })] }
    job := { job with sq := [], cq := [], ctx := match x with | some x => [(0, x)] | none => [] }
    pv := [(0, { sqTail := [(0, 1)] })] }

theorem wit_pvRegs : pvOn (pvDev none) 0 = true ∧ ((pvDev none).hd 0).st ≠ .resetting ∧ ((pvDev none).hd 0).d3 = false ∧
    (pvDev none).active 0 = true ∧ (1 : Word).toNat % 1024 < pvSqSize (pvDev none) 0 0 ∧ pvSqSize (pvDev none) 0 0 ≤ (2 : Word).toNat % 1024 ∧
    (15 : Word).toNat % 4096 < pvCqSize (pvDev none) 0 ∧ pvCqSize (pvDev none) 0 ≤ (16 : Word).toNat % 4096 ∧ ((pvDev none).pvq 0).hold = [] ∧
    bit ((pvDev none).r0 0 0x10) 0 = true ∧ (pvDev none).r0 0 0x10 &&& (pvDev none).r0 0 0x14 &&& ~~~ 0xFFFFFFFF = 0 ∧
    ((pvDev none).src (pvCqNum (pvDev none) 0)).ev = 0 := by decide +kernel

/-- PV16 holding 1 at rest. -/
def pvRest : State := { restDev .active with hold := [(0, hold0), (1, { hold0 with pv := true, pvChans := [0] })] }

theorem wit_pvReset : ((pvRest.hd 1).pv = true ∧ (pvRest.hd 1).st ≠ .resetting ∧ (pvRest.hd 1).d3 = false) ∧ AtRest pvRest 1 := by
  unfold AtRest; decide +kernel

theorem wit_pvPorts : (∀ on ∈ [true, false], let s : State := { ((pvDev none).put2 (A.ingQuad 0) 0 2 1).put2 (A.ingPortCtrl 0) 0 1 (b2n on) with ing := {} };
    pvPortHold s 0 = some 0 ∧ portExists s 0 = true ∧ portOn s 0 = on ∧ linkUp s 0 = false ∧ s.ing.flow = []) ∧
    (let s : State := (pvDev none).put2 (A.ingQuad 0) 0 2 1;
      (s.hd 0).pv = true ∧ fld (s.r2 (A.ingQuad 0)) 0 2 = 1 ∧ ∀ p ∈ s.hold, p.1 ≠ 0 → p.2.pvPorts &&& BitVec.ofNat 4 1 = 0) ∧
    (dev.hd 0).pv = false ∧ Admin (pvDev none) 0 := by unfold Admin; decide +kernel

/-- A descriptor of NOP, of an undefined operation, and one with the wrong PHASE. -/
theorem wit_pvTake : pvNext (pvDev none) 0 = some (1, 0, 1) ∧ tget ((pvDev none).pvq 0).fetched 0 = none ∧ firstInLine (pvDev none) 1 = true ∧
    (chooseField (pvDev none) 0 1 (((pvDev none).hd 0).pvChans.getD 0 0)).isSome = true ∧ lowestFree (pvDev none).job.ctx (0 * 32) 32 = some 0 ∧
    bit (([0x80000000, 0, 0, 0, 0, 0, 0, 0] : List Word).getD 0 0) 31 = pvPhase ((pvDev none).pvq 0) 0 ∧
    bit (([0x80000003, 0, 0, 0, 0, 0, 0, 0] : List Word).getD 0 0) 31 = pvPhase ((pvDev none).pvq 0) 0 ∧
    bit (([0, 0, 0, 0, 0, 0, 0, 0] : List Word).getD 0 0) 31 ≠ pvPhase ((pvDev none).pvq 0) 0 ∧ fld (0x80000000 : Word) 0 8 ∈ pvOps ∧
    fld (0x80000003 : Word) 0 8 ∉ pvOps := by decide +kernel

/-- The internal job of queue `q` that is at step `n` of an operation. -/
def pvJ (op n : Nat) : PvJob := { op := op, idr := false, len := 100, addr := 0x1000, ap := 0x4000000, stride := 64, step := n }
def pvX (q op n : Nat) : Ctx := { hold := 0, sqid := q, cls := 3, granted := true, pv := some (pvJ op n), k := [(0, 0x20000000)] }

theorem pvRuns_of (q op n : Nat) (h : (drillRuns (pvDev (some (pvX q op n))) 0 && (pvDev (some (pvX q op n))).active 0) = true) :
    PvRuns (pvDev (some (pvX q op n))) 0 0 op (pvX q op n) (pvJ op n) := by
  simp only [Bool.and_eq_true] at h
  exact ⟨rfl, rfl, rfl, rfl, rfl, h.1, h.2, nofun⟩

theorem wit_pvRuns : ∀ r ∈ [(0, 0x00, 0), (3, 0x01, 0), (0, 0x01, 0), (3, 0x02, 0), (0, 0x02, 0), (0, 0x10, 0), (1, 0x11, 0), (0, 0x20, 0),
    (0, 0x20, 1), (0, 0x20, 2), (3, 0x20, 0), (1, 0x21, 0), (1, 0x21, 1), (1, 0x21, 2), (3, 0x21, 0), (2, 0x22, 0), (2, 0x22, 2), (3, 0x22, 0)],
    PvRuns (pvDev (some (pvX r.1 r.2.1 r.2.2))) 0 0 r.2.1 (pvX r.1 r.2.1 r.2.2) (pvJ r.2.1 r.2.2) := by
  have h : ∀ r ∈ [(0, 0x00, 0), (3, 0x01, 0), (0, 0x01, 0), (3, 0x02, 0), (0, 0x02, 0), (0, 0x10, 0), (1, 0x11, 0), (0, 0x20, 0),
      (0, 0x20, 1), (0, 0x20, 2), (3, 0x20, 0), (1, 0x21, 0), (1, 0x21, 1), (1, 0x21, 2), (3, 0x21, 0), (2, 0x22, 0), (2, 0x22, 2), (3, 0x22, 0)],
      (drillRuns (pvDev (some (pvX r.1 r.2.1 r.2.2))) 0 && (pvDev (some (pvX r.1 r.2.1 r.2.2))).active 0) = true := by decide +kernel
  exact fun r hr => pvRuns_of _ _ _ (h r hr)

theorem wit_pvChans : let s := pvDev none
    (∀ r ∈ [(0, 0), (1, 1), (2, 4)], (pvChan s (pvX r.1 0 0)).map (·.1) = some r.2) ∧ pvChan s (pvX 3 0 0) = none ∧
      thas s.vid.chan (pvDevChan s 0 0) = true ∧ thas s.vid.chan (pvDevChan s 0 3) = false ∧
      (blk 0 false).dec = true ∧ (blk 1 false).enc = true ∧ (blk 2 false).dec = true ∧ (addEmpty s 0 true).isSome = true ∧
      pvFrameBad s 0 0x4000000 (packSpan (pvFrame 0 (blk 0 false)) 64) = false ∧ (∀ a ∈ [0, 0x4000001], pvFrameBad s 0 a (packSpan (pvFrame 0 (blk 0 false)) 64) = true) ∧
      ingFlowOf s 0 = none ∧ fifoUsed (s.fifo (fin_ 0)) + itemCells 100 ≤ chanD.blk.fifoCells ∧ (s.fifo (fin_ 0)).pend = none ∧
      (allocChain s 0 (itemCells 100)).1.isSome = true ∧ egrFlowsOf s 1 = [] ∧
      ingFlowOf { s with ing := { flow := [(0, ingFlow)] } } 0 ≠ none := by decide +kernel

theorem wit_pvPictures : let s := pvDev none
    pvPicture s (pvX 0 0x20 1) = some (0, bufP 0 1) ∧ (bufP 0 1).empty = false ∧
      (packRows (bufP 0 1) 64).any (fun r => decide (r.2.1 < r.1)) = false ∧ pvFrameBad s 0 0x4000000 (packSpan (bufP 0 1) 64) = false ∧
      stOf ((pvX 0 0x20 2).gr 1) = 0 ∧ srcOk (bufP 0 1) = true ∧ srcChroma s 0 (bufP 0 1) = (blk 1 false).chroma := by decide +kernel

/-- Its channels are all closed. -/
def pvShut : State := { pvDev none with vid := {} }

theorem wit_pvOpen : let s := pvShut
    thas s.vid.chan (pvDevChan s 0 0) = false ∧ pvUnsupported s 0 0 (pvBlk s 0 0) = false ∧ pvUnsupported s 0 2 (pvBlk s 0 2) = true ∧
      (∃ n, pvPool s 0 0 (pvBlk s 0 0) = some n ∧ blkOk { pvBlk s 0 0 with pool := n } (b2n (!(pvBlk s 0 0).live)) = true ∧
        (∃ m, (openChannel s 0 { pvBlk s 0 0 with pool := n } 0 [pvDevChan s 0 0]).1 = some m)) ∧
      bit (pvReg s 0 0 0x20) 2 = false ∧ bit (pvReg s 0 0 0x30) 2 = false := by
  refine ⟨by decide +kernel, by decide +kernel, by decide +kernel, ⟨32, by decide +kernel, by decide +kernel,
    Option.isSome_iff_exists.1 (by decide +kernel)⟩, by decide +kernel, by decide +kernel⟩

/-! One command that each check of WellFormed refuses. -/

theorem test_wf_refuses : ([.functionPresent 32, .fieldWakeDone 8, .nop 0 32, .channelDrainComplete 256, .hostLinkLoss 2, .netLinkUp 8,
    .baulkBringupRetry 3, .jobPlace 0 1024, .igfClaim 0 64, .datagramHoldExpiry 256, .registerWrite 0 0 0x10000 0, .registerWrite 0 1 2 0,
    .registerWrite 0 3 0 0, .sriovNumvfsWrite 0 16, .quotaWrite 0 0 4 0, .hostLinkTrain 0 5 false, .clxEntryRequest 0 4 0 false,
    .programLineFetch 0 0 (List.replicate 33 0), .sqEntryTake 0 1 [[0]], .sqPhaseRetry 0 1 [0], .igTargetWrite 0 2047 0,
    .coalesceTimerExpiry 2047, .msixMaskRelease 0 65, .muxRateTick 16, .ingQuadModeWrite 0 2 0, .reorderHoleTimeout 16384,
    .ingTableWrite 0 2 0, .meterCommit 0 4096 0, .rxrEnable 0 32, .dmarEnable 0 16, .dmaDescriptorFetch 0 [0], .dmaDescriptorDone 16 {},
    .dramRetrainStart 16 0, .psiRepeatDue 0 4, .egfPiWrite 0 32 0, .mr4Poll 0 2 0, .fieldIdleTimer 0 5, .pllRelock 15, .uncoreWake 5,
    .laneRecal 20, .fcSevWrite 0 64 0, .fcStatusClear 0 2 0, .selftestSerdesNear 0 20, .link 0 4 0 0, .readReq 0 { dst := 0, seq := 0 } 64 0 1,
    .readReq 0 { dst := 0, seq := 0 } 0 0 0, .signalFrame 0 { dst := 0, seq := 0 } 64 0 0, .poolMessage 4 0 0 0, .pvSqTailWrite 0 16 0,
    .pvDescriptorTake 0 [0], .pvPortEnable 0 4 true] : List Instr).all (fun i => !i.wf) = true := by decide +kernel

theorem test_wf_accepts : ([.functionPresent 31, .nop 7 31, .registerWrite 0 2 0x1FFFFFC 0, .coalesceTimerExpiry 2046,
    .sqEntryTake 31 1023 [List.replicate 8 0], .pvPortEnable 0 3 false] : List Instr).all (fun i => i.wf) = true := by decide +kernel

/-! Worked examples of the spec. -/

/-- ADD G3, G1, G2 with each field of R74 written out: OPCODE 0x10, D 3, A 1, B 2. -/
theorem test_instruction_word : insOf 0x0000000008230010 = { op := 0x10, xw := 0, mod := 0, d := 3, a := 1, b := 2, rsv := 0, imm := 0 } := by decide

/-- The example of 08 behind R182: the parts of a 1920 × 1080 encode channel with LOOKAHEAD 16. -/
theorem test_buffer_size : let b : Blk := { blk 1 false with width := 1920, height := 1080, depth := 10, look := 16, pool := 8 }
    b.bufSize = 4046848 ∧ b.dramBytes = 95027200 ∧ b.pages * 4096 = 1990656 := by decide +kernel

/-- The example of 08 behind R194: 1080p60 at the wrap of 2^33. -/
theorem test_timestamps : let b : Blk := { blk 0 false with num := 60, den := 1 }
    let r := extendTs b 33 0x1DC false (some { raw := 0x1FFFFFC00, ext := 0x7FFFFFC00 })
    r.1.ext = 0x8000001DC ∧ (extendTs b 33 0x1FFFFF624 false (some r.1)).1.ext = 0x7FFFFF624 := by decide +kernel

/-- The example of 06: a ring of 16. -/
theorem test_ring_distance : idxDist 16 0x8000 0x000A = 6 ∧ idxDist 16 0x8000 0 = 16 ∧ idxDist 16 0x800A 0x0009 = 17 ∧
    idxDist 16 0x800A 0x000A = 16 ∧ idxDist 16 0x800A 0x000B = 15 := by decide

/-- The example of 13 behind R294: the taps of phase 8 at two thirds. -/
theorem test_scaler_taps : phaseCoefs true 2 3 8 = [1, -15, 25, 162, 100, -14, -3, 0] := by decide +kernel

/-- The example of 17 behind R389. -/
theorem test_dram_location : dramLoc 2 0x123456780 = { ch := 4, rank := 0, bank := 6, row := 0x136B, burst := 48 } := by decide

/-- The example of 15: an item of 1316 bytes. -/
theorem test_item_cells : itemCells 1316 = 6 := by decide

/-- The queues of R492's example: WEIGHT and BURST 3 and 2, 1 and 4, 2 and 1, each with descriptors. -/
def rrDev (s : State) (p : Pv) : State := { s with pv := [(0, p)] }
def rrBase : State :=
  (((pvDev none).w0 0 0x108 (0x8006 + 3 * 16 + 2 * 256)).w0 0 0x128 (0x8006 + 1 * 16 + 4 * 256)).w0 0 0x148 (0x8006 + 2 * 16 + 1 * 256)
def rrRun (p : Pv) : Nat → List Nat
  | 0 => []
  | n + 1 => match pvNext (rrDev rrBase p) 0 with | some v => v.2.1 :: rrRun (pvMove p v) n | none => []

/-- The example of 22 behind R492: two rounds. -/
theorem test_pv_round_robin : rrRun { sqTail := [(0, 60), (1, 60), (2, 60)] } 13 = [0, 0, 1, 1, 1, 1, 2, 0, 0, 2, 0, 0, 0] := by decide +kernel

/-- ISO/IEC 13818-1 uses the CRC of R375; its check value over "123456789". -/
theorem test_crc : crc32 [0x31, 0x32, 0x33, 0x34, 0x35, 0x36, 0x37, 0x38, 0x39] = 0x0376E6E7 := by decide +kernel

/-- The example of 09 behind R212. -/
theorem test_transform : idct (-12 :: List.replicate 63 0) = List.replicate 64 (-1) ∧ idct (12 :: List.replicate 63 0) = List.replicate 64 2 := by
  decide +kernel

/-- A block of an MPEG-2 picture, at the top left. -/
theorem wit_transform : let pl := [List.replicate 16 (List.replicate 16 100)]
    let b : ResBlk := { plane := 0, x := 0, y := 0, coef := 12 :: List.replicate 63 0 }
    0 < b.dx ∧ 0 < b.dy ∧ pl[b.plane]? = some (List.replicate 16 (List.replicate 16 100)) ∧
      (List.replicate 16 (List.replicate 16 100))[b.y + 7 * b.dy]? = some (List.replicate 16 100) ∧
      (List.replicate 16 100)[b.x + 7 * b.dx]? = some 100 ∧ sampleAt (reconstruct 0 pl [b]) 0 7 7 = 102 ∧
      sampleAt (reconstruct 0 pl [b]) 0 8 7 = 100 := by decide +kernel

/-- An MPEG-2 channel with a free buffer, and one that codes into it. -/
def mpegDev : State := { dev with vid := { vid with chan := [(0, { chanD with blk := { blk 0 false with codec := 0 } })] } }

theorem wit_transformPictures : let y : Chan := { chanD with blk := { blk 0 false with codec := 0 } }
    let p : DecPic := { hdr := { sdepth := 8 } }
    y.blk.depth = p.hdr.sdepth ∧ p.damage = [] ∧ ((decodeInto 0 2 0 false y mpegDev p).buf 2).isSome = true ∧
      mpegDev.chan 0 = some y ∧ y.blk.codec = 0 ∧
      (let u : Cur := { cur0 with buf := some 2, isRef := true };
        u.pic.ltrSet = none ∧ ((keepRecon mpegDev 0 u {}).buf 2).isSome = true) := by decide +kernel

/-- A PAUSE frame; the other physical function absent or not; a frame for another device. -/
theorem wit_others : isPause (List.replicate 12 0 ++ [0x88, 0x08] ++ List.replicate 46 0) = true ∧
    (List.replicate 12 (0 : Byte) ++ [0x88, 0x08] ++ List.replicate 46 0).length = 60 ∧
    (let s : State := { dev with adm := { owner := some 0, lease := true } };
      barOn s 0 = true ∧ s.adm.owner = some 0 ∧ s.active (16 - 0) = false) ∧
    barOn { dev with hold := [(5, hold0)], hport := [(0, { up := true }), (1, { up := true })] } 5 = true ∧
    ((bkDev upPort).bp 1).up = true ∧ ({ dst := 1, seq := 5 } : BkHdr).dst ≠ (bkDev upPort).sys.baulkId := by decide +kernel

end Sys2Proof.Tests
end

section
/-! PROOFS. A picture in encode: its begin, a row that waits or is placed, the end of its time budget (O25, O26). -/

namespace Sys2Proof.Machine

/-! Channels, FIFOs and device memory through updates that leave them alone. -/

theorem chan_congr {s t : State} (h : t.vid = s.vid) (c : Nat) : t.chan c = s.chan c := by unfold State.chan; rw [h]

theorem chan_modChan_ne (s : State) {c j : Nat} (f : Chan → Chan) (n : j ≠ c) : (s.modChan c f).chan j = s.chan j :=
  tget_tmod_ne _ _ n

@[simp] theorem chan_modBuf (s : State) (n : Nat) (f : Buf → Buf) (c : Nat) : (s.modBuf n f).chan c = s.chan c := rfl

@[simp] theorem setChan_buf (s : State) (c : Nat) (x : Chan) : (s.setChan c x).vid.buf = s.vid.buf := rfl

theorem fifo_congr {s t : State} (h : t.grn = s.grn) (k : Nat) : t.fifo k = s.fifo k := by unfold State.fifo; rw [h]

@[simp] theorem fifo_setFifo_same (s : State) (k : Nat) (f : Fifo) : (s.setFifo k f).fifo k = f := tgetD_tset_same ..

@[simp] theorem fifo_setChan (s : State) (c : Nat) (x : Chan) (k : Nat) : (s.setChan c x).fifo k = s.fifo k := rfl

@[simp] theorem fifo_modChan (s : State) (c : Nat) (f : Chan → Chan) (k : Nat) : (s.modChan c f).fifo k = s.fifo k := rfl

@[simp] theorem fifo_setCells (s : State) (t : Tab Cell) (k : Nat) : (s.setCells t).fifo k = s.fifo k := rfl

/-- Device memory reads the same in states with the same DRAM. -/
theorem sameBytes_of_drm {s t : State} (h : t.drm = s.drm) : SameBytes s t := by
  intro k off
  unfold readDev devAddr
  rw [h]

/-- A picture whose reconstruction has its buffer takes no other (R185). -/
theorem takeBuf_of_buf {s : State} {c : Nat} {z : Chan} {v : Cur} (hz : s.chan c = some z) (hv : z.cur = some v)
    (hb : v.buf ≠ none) : takeBuf s c = s := by
  have hn : v.buf.isNone = false := Option.isNone_eq_false_iff.2 (Option.isSome_iff_ne_none.2 hb)
  unfold takeBuf
  simp only [hz, hv]
  split
  · rename_i h _
    cases h
    simp [hn]
  · rfl

/-! The report of a coded row. -/

/-- Waits are counted in the channel's registers alone. -/
theorem addWaits_eq (s : State) (c : Nat) (w : List Nat) : addWaits s c w = { s with bc := (addWaits s c w).bc } := by
  have h : ∀ (l : List (Nat × Nat)) (t : State),
      l.foldl (fun t a => if w.getD a.2 0 = 0 then t else t.addqch c a.1 (w.getD a.2 0)) t =
        { t with bc := (l.foldl (fun t a => if w.getD a.2 0 = 0 then t else t.addqch c a.1 (w.getD a.2 0)) t).bc } := by
    intro l
    induction l with
    | nil => intro t; rfl
    | cons a l ih =>
      intro t
      rw [List.foldl_cons, ih]
      split <;> rfl
  exact h _ s

@[simp] theorem addWaits_tim (s : State) (c : Nat) (w : List Nat) : (addWaits s c w).tim = s.tim := by rw [addWaits_eq]

@[simp] theorem addWaits_hold (s : State) (c : Nat) (w : List Nat) : (addWaits s c w).hold = s.hold := by rw [addWaits_eq]

@[simp] theorem addWaits_job (s : State) (c : Nat) (w : List Nat) : (addWaits s c w).job = s.job := by rw [addWaits_eq]

@[simp] theorem addWaits_grn (s : State) (c : Nat) (w : List Nat) : (addWaits s c w).grn = s.grn := by rw [addWaits_eq]

@[simp] theorem addWaits_drm (s : State) (c : Nat) (w : List Nat) : (addWaits s c w).drm = s.drm := by rw [addWaits_eq]

@[simp] theorem addWaits_vid (s : State) (c : Nat) (w : List Nat) : (addWaits s c w).vid = s.vid := by rw [addWaits_eq]

@[simp] theorem encCounted_chan (s : State) (c : Nat) (z : Chan) (f : Nat) (r : RowIn) :
    (encCounted s c z f r).chan c = some z := by
  unfold encCounted
  exact chan_setChan_same ..

@[simp] theorem encCounted_tim (s : State) (c : Nat) (z : Chan) (f : Nat) (r : RowIn) :
    (encCounted s c z f r).tim = s.tim := by simp [encCounted]

@[simp] theorem encCounted_hold (s : State) (c : Nat) (z : Chan) (f : Nat) (r : RowIn) :
    (encCounted s c z f r).hold = s.hold := by simp [encCounted]

@[simp] theorem encCounted_job (s : State) (c : Nat) (z : Chan) (f : Nat) (r : RowIn) :
    (encCounted s c z f r).job = s.job := by simp [encCounted]

@[simp] theorem encCounted_grn (s : State) (c : Nat) (z : Chan) (f : Nat) (r : RowIn) :
    (encCounted s c z f r).grn = s.grn := by simp [encCounted]

@[simp] theorem encCounted_drm (s : State) (c : Nat) (z : Chan) (f : Nat) (r : RowIn) :
    (encCounted s c z f r).drm = s.drm := by simp [encCounted]

@[simp] theorem encCounted_buf (s : State) (c : Nat) (z : Chan) (f : Nat) (r : RowIn) :
    (encCounted s c z f r).vid.buf = s.vid.buf := by simp [encCounted]

/-- The Field that codes a row: that of its band, else the channel's home Field. -/
def rowField (z : Chan) (v : Cur) (r : RowIn) : Nat :=
  match v.bands[r.band]? with
  | some x => x.field
  | none => z.home

theorem rowField_of_band {z : Chan} {v : Cur} {r : RowIn} {x : Band} (h : v.bands[r.band]? = some x) :
    rowField z v r = x.field := by
  unfold rowField
  rw [h]

/-- ENC_ROW_CODED of a picture that has its buffer and waits for nothing: the report is counted, then the row is placed. -/
theorem exec_encRowCoded {s : State} {c : Nat} {r : RowIn} {z : Chan} {v : Cur} (hs : s.flt.safe = false)
    (hz : s.chan c = some z) (hv : z.cur = some v) (hb : v.buf ≠ none) (hw : v.stall = none)
    (hr : rebands s z v = v) (hi : rowInOk s z v r = true) :
    exec (.encRowCoded c r) s =
      .next (finish s (placeRow (encCounted s c z (rowField z v r) r) c z v { row := r })) := by
  have he : { z with cur := some v } = z := by rw [← hv]
  have hn : v.buf.isNone = false := Option.isNone_eq_false_iff.2 (Option.isSome_iff_ne_none.2 hb)
  change execEncRowCoded c r s = _
  unfold execEncRowCoded
  simp only [hs, takeBuf_of_buf hz hv hb, hz, hv, hr, hw, hn, hi, he]
  rfl

/-- A report that is taken while rows are missing is of a row of one of the picture's bands. -/
theorem band_of_rowInOk {s : State} {z : Chan} {v : Cur} {r : RowIn} (hi : rowInOk s z v r = true)
    (hd : rowsDone v = false) : ∃ x, v.bands[r.band]? = some x := by
  unfold rowInOk at hi
  rw [hd] at hi
  cases hx : v.bands[r.band]? with
  | some x => exact ⟨x, rfl⟩
  | none => simp [hx] at hi

/-! Cells of an output FIFO. -/

/-- Every item takes a cell: its header is there without a payload (R352). -/
theorem itemCells_pos (n : Nat) : 0 < itemCells n := by
  unfold itemCells cdiv
  omega

/-- What the output holds depends on the Granary and on the channel's waiting row. -/
theorem outCells_congr {s t : State} {c : Nat} (hg : t.grn = s.grn) (hc : t.chan c = s.chan c) :
    outCells t c = outCells s c := by
  unfold outCells staged
  rw [hc, fifo_congr hg, hg]

/-- A row that needs a cell gets none from a full output (R12). -/
theorem fillRow_full (s : State) (h : Nat) {lim need used : Nat} (hn : 0 < need) (hl : lim ≤ used) (k : Nat) :
    fillRow s h lim need none 0 used k = (none, 0, s) := by
  cases k with
  | zero => rfl
  | succ k =>
    unfold fillRow
    rw [if_neg (Nat.not_le.2 hn), if_pos hl]

/-- A row that finds the output full within the time budget waits (R12). -/
theorem placeRow_full {s : State} {c : Nat} {y y1 : Chan} {u : Cur} {r : RowIn} {x : Band} (hc : s.chan c = some y1)
    (hx : u.bands[r.band]? = some x) (ht : u.timeout = false) (hl : y.blk.fifoCells ≤ outCells s c) :
    placeRow s c y u { row := r } = s.setChan c { y with cur := some { u with stall := some { row := r } } } := by
  have hn : 0 < itemCells (if rowsDone u then r.stuff.length else r.data.length) := itemCells_pos _
  unfold placeRow
  simp only [fillRow_full s y.hold hn hl, hc, hx, ht]
  rw [if_neg (Nat.not_le.2 hn)]
  rfl

/-! Committing and placing a row. -/

/-- Giving up a reference to a chain of cells leaves FIFOs as they are. -/
@[simp] theorem fifo_decRef (s : State) (n who k : Nat) : (decRef s n who).fifo k = s.fifo k := by
  have hd : ∀ (t : State) (a b m : Nat), (devEvent t a b m).grn = t.grn := fun t a b m => by simp [devEvent]
  unfold decRef
  split
  · split
    · split <;> exact fifo_setCells ..
    · exact fifo_congr (by simp [hd]) k
  · exact fifo_congr (by simp [hd]) k

@[simp] theorem fifo_dropItems (s : State) (l : List Item) (k : Nat) : (dropItems s l).fifo k = s.fifo k :=
  List.foldlRecOn (motive := fun t => t.fifo k = s.fifo k) l _ rfl fun t h i _ => (fifo_decRef t i.cell 0 k).trans h

/-- Taking a cell sets the Granary's cells and nothing else. -/
theorem takeCell_eq_setCells {s : State} {h c : Nat} {t : State} (he : takeCell s h = some (c, t)) :
    ∃ l, t = s.setCells l := by
  unfold takeCell at he
  split at he
  · split at he
    · cases he
      exact ⟨_, rfl⟩
    · cases he
  · cases he

/-- Taking cells together leaves FIFOs as they are. -/
theorem fifo_takeCells (s : State) (h n k : Nat) : (takeCells s h n).2.fifo k = s.fifo k := by
  induction n generalizing s with
  | zero => rfl
  | succ n ih =>
    unfold takeCells
    split
    · rfl
    · rename_i c s1 he
      obtain ⟨l, rfl⟩ := takeCell_eq_setCells he
      rw [← fifo_setCells s l k, ← ih (s.setCells l)]
      split <;> rename_i h2 <;> rw [h2]

theorem fifo_cellFail (s : State) (k : Nat) : (cellFail s).fifo k = s.fifo k :=
  fifo_congr (by simp [cellFail, devEvent]) k

theorem fifo_allocChain (s : State) (h n k : Nat) : (allocChain s h n).2.fifo k = s.fifo k := by
  rw [← fifo_takeCells s h n k]
  unfold allocChain
  split <;> rename_i h2 <;> rw [h2]
  · rfl
  · exact (fifo_setCells ..).trans (fifo_cellFail ..)

theorem fifo_gapCommitted (s : State) (c k : Nat) : (gapCommitted s c).fifo k = s.fifo k :=
  fifo_congr (by simp [gapCommitted, chanEvent]) k

/-- Committing a pending gap marker leaves the uncommitted items of the FIFO as they are (R356). -/
theorem unc_commitPending (s : State) (k h : Nat) : ((commitPending s k h).2.fifo k).unc = (s.fifo k).unc := by
  unfold commitPending
  split
  · rfl
  · rw [← fifo_allocChain s h 1 k]
    split <;> rename_i h2 <;> rw [h2]
    simp [fifo_gapCommitted]

theorem fifo_egressClock (s : State) (c : Nat) (d : DWord) (b : Bool) (k : Nat) :
    (egressClock s c d b).fifo k = s.fifo k := rfl

theorem unc_addPending (f : Fifo) (i b : Nat) (t : DWord) : (addPending f i b t).unc = f.unc := by
  unfold addPending
  split <;> rfl

/-- Committing items, or dropping them into the gap marker, leaves the uncommitted items as they are (R352, R356). -/
theorem unc_commitItems (s : State) (c h : Nat) (l : List Item) :
    ((commitItems s c h l).fifo (fout c)).unc = (s.fifo (fout c)).unc := by
  have hp := unc_commitPending s (fout c) h
  unfold commitItems
  split
  · rfl
  · split <;> rename_i s1 h2 <;> rw [h2] at hp
    · simpa [unc_addPending] using hp
    · dsimp only
      split
      · simpa [fifo_egressClock] using hp
      · simpa using hp

/-- Before a row of the first band is placed, the rows ahead of it are committed: none is left uncommitted (R13). -/
theorem unc_commitBand_all (s : State) (c h : Nat) (front : Bool) :
    ((commitBand s c h 0 0 front).fifo (fout c)).unc = [] := by
  unfold commitBand
  simp [unc_commitItems]

/-- A row of the first band is put behind the uncommitted rows. -/
theorem unc_putRow (s : State) (c : Nat) (i : Item) :
    ((putRow s c 0 i).fifo (fout c)).unc = (s.fifo (fout c)).unc ++ [i] := by
  simp [putRow]

/-- A band whose row rate control keeps has one row more (R271). -/
theorem afterRow_kept {y : Chan} {u : Cur} {x : Band} {now : DWord} {r : RowIn} {cut : Bool}
    (h : (afterRow y u x now r cut).1 = false) :
    (afterRow y u x now r cut).2.rows.length = x.rows.length + 1 ∧ (afterRow y u x now r cut).2.count = x.count := by
  revert h
  unfold afterRow
  dsimp only
  split
  · intro _
    exact ⟨List.length_append, rfl⟩
  · split
    · intro h
      cases h
    · intro _
      exact ⟨List.length_append, rfl⟩

/-- A front band that is not wholly coded stays the front band, and releases no rows (R256). -/
theorem advanceFront_incomplete {s : State} {c h : Nat} {u : Cur} {x : Band} (hx : u.bands[u.front]? = some x)
    (hl : x.rows.length ≠ x.count) (n : Nat) : advanceFront s c h u n = (u.front, s) := by
  induction n with
  | zero => rfl
  | succ n ih =>
    unfold advanceFront
    simp only [ih, hx, hl, if_false]

/-- What taking cells for a row leaves, of what the placing of the row reads. -/
structure CellsTaken (s t : State) : Prop where
  /-- Channels and buffers. -/
  vid : t.vid = s.vid
  /-- Time. -/
  tim : t.tim = s.tim
  /-- Holdings. -/
  hold : t.hold = s.hold

theorem CellsTaken.refl (s : State) : CellsTaken s s := ⟨rfl, rfl, rfl⟩

theorem CellsTaken.trans {s t u : State} (h : CellsTaken s t) (k : CellsTaken t u) : CellsTaken s u :=
  ⟨k.vid.trans h.vid, k.tim.trans h.tim, k.hold.trans h.hold⟩

theorem growChain_taken {s : State} {h c : Nat} {head : Option Nat} {t : State} (he : growChain s h head = some (c, t)) :
    CellsTaken s t := by
  unfold growChain at he
  split at he
  · cases he
  · rename_i h1
    obtain ⟨l, rfl⟩ := takeCell_eq_setCells h1
    split at he <;> cases he <;> exact ⟨rfl, rfl, rfl⟩

theorem fillRow_taken (s : State) (h lim need : Nat) (head : Option Nat) (n used k : Nat) :
    CellsTaken s (fillRow s h lim need head n used k).2.2 := by
  induction k generalizing s head n used with
  | zero => exact .refl s
  | succ k ih =>
    unfold fillRow
    split
    · exact .refl s
    · split
      · exact .refl s
      · split
        · rename_i h1
          exact (growChain_taken h1).trans (ih ..)
        · constructor <;> simp [cellFail, devEvent]

/-- A row with all its cells is coded (R517). -/
theorem placeRow_filled {s s1 : State} {c head n : Nat} {y y1 : Chan} {u : Cur} {r : RowIn} {x : Band}
    (hd : rowsDone u = false) (hx : u.bands[r.band]? = some x) (hc : s1.chan c = some y1)
    (hf : fillRow s y.hold y.blk.fifoCells (itemCells r.data.length) none 0 (outCells s c) (itemCells r.data.length) =
      (some head, n, s1)) (hn : itemCells r.data.length ≤ n) :
    placeRow s c y u { row := r } = rowDone s1 c y1 u r.band x r (rowItem u x r head n) := by
  unfold placeRow
  simp [hd, hf, hc, hx, hn]

/-- The level's limit forces stubble mode within a row of a band coded under the native model (R274). -/
def forcedStubble (y : Chan) (u : Cur) (x : Band) (r : RowIn) : Bool :=
  (stubAt x.llvl (stubUnit false u.ptype) (rawUnit y.blk false) ((x.count - x.rows.length - 1) * rowUnits y.blk false)
    (bandBits x) r.units).isSome

/-- A row of the first band that is kept and is not the band's last is the only uncommitted item of the output (R13, R271). -/
theorem unc_rowDone {s : State} {c : Nat} {y : Chan} {u : Cur} {x : Band} {r : RowIn} {i : Item}
    (hp : pvRate s y = false) (hf : u.front = 0) (hx : u.bands[0]? = some x) (hl : x.rows.length + 1 < x.count)
    (hk : (afterRow y u x s.tim.dtb r (forcedStubble y u x r)).1 = false) :
    ((rowDone s c y u 0 x r i).fifo (fout c)).unc = [i] := by
  unfold forcedStubble at hk
  obtain ⟨hrows, hcount⟩ := afterRow_kept hk
  have h0 : 0 < u.bands.length := (List.getElem?_eq_some_iff.1 hx).1
  unfold rowDone
  simp only [hp, Bool.false_eq_true, if_false, hk]
  rw [advanceFront_incomplete (by simp [hf, h0]; rfl) (by omega)]
  simp only [hf, List.length_set, Nat.ne_of_lt h0, decide_false, Bool.false_and, Bool.false_eq_true, if_false]
  rw [fifo_modChan, fifo_setChan, unc_putRow, unc_commitBand_all]
  rfl

/-- Settles O26: the row's cells are taken, rate control keeps the row, and it is put behind rows that are all committed. -/
theorem rowPlaced : Obligations.RowPlaced := by
  intro s c r z v x head n s1 hs hz hv hb hw hr hi hf hx hb0 hl hpv hfill hn hk
  have hx' : v.bands[r.band]? = some x := by rw [hb0]; exact hx
  have hd : rowsDone v = false := by
    have h0 : 0 < v.bands.length := (List.getElem?_eq_some_iff.1 hx).1
    simp only [rowsDone, hf, decide_eq_false_iff_not]
    omega
  have ht : CellsTaken (encCounted s c z x.field r) s1 := by
    have h := fillRow_taken (encCounted s c z x.field r) z.hold z.blk.fifoCells (itemCells r.data.length) none 0
      (outCells (encCounted s c z x.field r) c) (itemCells r.data.length)
    rw [hfill] at h
    exact h
  have hc : s1.chan c = some z := (chan_congr ht.vid c).trans (encCounted_chan ..)
  have htim : s1.tim = s.tim := ht.tim.trans (encCounted_tim ..)
  have hp1 : pvRate s1 z = false := by
    have hh : s1.hold = s.hold := ht.hold.trans (encCounted_hold ..)
    unfold pvRate State.native State.hd at hpv ⊢
    rw [hh]
    exact hpv
  rw [exec_encRowCoded hs hz hv hb hw hr hi, rowField_of_band hx', placeRow_filled hd hx' hc hfill hn, hb0]
  exact ⟨_, rowItem v x r head n, rfl, unc_rowDone hp1 hf hx hl (by rw [htim]; exact hk), rfl, rfl, rfl, rfl⟩

/-! The begin of a picture. -/

/-- What the begin of a picture on channel `c` leaves: time, device memory, every other channel, and the channel's
lookahead. -/
structure PicFrame (c : Nat) (s t : State) : Prop where
  /-- Time. -/
  tim : t.tim = s.tim
  /-- Device memory. -/
  drm : t.drm = s.drm
  /-- Other channels. -/
  other : ∀ m, m ≠ c → t.chan m = s.chan m
  /-- The lookahead. -/
  look : (t.chan c).map (·.look) = (s.chan c).map (·.look)

theorem PicFrame.refl (c : Nat) (s : State) : PicFrame c s s := ⟨rfl, rfl, fun _ _ => rfl, rfl⟩

theorem PicFrame.trans {c : Nat} {s t u : State} (h : PicFrame c s t) (k : PicFrame c t u) : PicFrame c s u :=
  ⟨k.tim.trans h.tim, k.drm.trans h.drm, fun m hm => (k.other m hm).trans (h.other m hm), k.look.trans h.look⟩

theorem PicFrame.chan_some {c : Nat} {s t : State} (h : PicFrame c s t) {y : Chan} (hy : s.chan c = some y) :
    ∃ z, t.chan c = some z ∧ z.look = y.look := by
  have hl := h.look
  rw [hy] at hl
  exact Option.map_eq_some_iff.1 hl

theorem PicFrame.foldl {β : Type} {c : Nat} {g : State → β → State} (hg : ∀ t x, PicFrame c t (g t x)) (l : List β)
    (s : State) : PicFrame c s (l.foldl g s) := by
  induction l generalizing s with
  | nil => exact .refl c s
  | cons x l ih => exact (hg s x).trans (ih (g s x))

/-- An update that touches none of time, device memory and channels. -/
theorem PicFrame.of_eq {c : Nat} {s t : State} (ht : t.tim = s.tim) (hd : t.drm = s.drm)
    (hc : ∀ m, t.chan m = s.chan m) : PicFrame c s t := ⟨ht, hd, fun m _ => hc m, by rw [hc]⟩

theorem PicFrame.modBuf (c : Nat) (s : State) (n : Nat) (f : Buf → Buf) : PicFrame c s (s.modBuf n f) :=
  .of_eq rfl rfl fun _ => rfl

theorem PicFrame.reapBuf (c : Nat) (s : State) (n : Nat) : PicFrame c s (reapBuf s n) := by
  unfold Machine.reapBuf
  split
  · split
    · exact .of_eq rfl rfl fun _ => rfl
    · exact .refl c s
  · exact .refl c s

/-- An update of the channel itself that keeps its lookahead. -/
theorem PicFrame.setChan {c : Nat} {s : State} {y z : Chan} (hy : s.chan c = some y) (hl : z.look = y.look) :
    PicFrame c s (s.setChan c z) :=
  ⟨rfl, rfl, fun _ hm => chan_setChan_ne _ _ hm, by simp [hy, hl]⟩

theorem PicFrame.homeMove (c : Nat) (s : State) : PicFrame c s (homeMove s c) := by
  unfold Machine.homeMove
  refine ⟨rfl, rfl, fun m hm => chan_modChan_ne _ _ hm, ?_⟩
  rw [chan_modChan_same, Option.map_map]
  rfl

theorem PicFrame.keepShort (c : Nat) (s : State) (keep : List Nat) : PicFrame c s (keepShort s c keep) := by
  unfold Machine.keepShort
  exact .foldl (fun t n => .modBuf c t n _) _ s

theorem PicFrame.dropLtr (c : Nat) (s : State) (n : Nat) : PicFrame c s (dropLtr s c n) := by
  unfold Machine.dropLtr
  split
  · exact .refl c s
  · rename_i y hy
    split
    · exact .refl c s
    · have h1 := PicFrame.setChan (z := { y with ltr := tdel y.ltr n }) hy rfl
      dsimp only
      split
      · exact h1
      · exact (h1.trans (.modBuf ..)).trans (.reapBuf ..)

theorem PicFrame.dropLtrs (c : Nat) (s : State) (f : Ltr → Bool) : PicFrame c s (dropLtrs s c f) := by
  unfold Machine.dropLtrs
  split
  · refine .foldl (fun t p => ?_) _ s
    split
    · exact .dropLtr ..
    · exact .refl c t
  · exact .refl c s

theorem PicFrame.startMarks (c : Nat) (s : State) (idr rec : Bool) (keep : List Nat) :
    PicFrame c s (startMarks s c idr rec keep) := by
  unfold Machine.startMarks
  split
  · exact (PicFrame.keepShort ..).trans (.dropLtrs ..)
  · split
    · exact (PicFrame.keepShort ..).trans (.dropLtrs ..)
    · exact .keepShort ..

/-- The picture in encode is `p`, of this type, begun at `now`; its time budget has not ended. -/
structure Begun (k : Cur) (p : LkPic) (ptype : Nat) (idr : Bool) (now : DWord) : Prop where
  /-- The picture. -/
  pic : k.pic = p
  /-- Its type. -/
  ptype : k.ptype = ptype
  /-- It is an IDR. -/
  idr : k.idr = idr
  /-- When its time budget starts. -/
  start : k.start = now
  /-- The time budget has not ended. -/
  timeout : k.timeout = false

/-- The picture that is budgeted is the channel's picture in encode, and its time budget starts now (R262, R267). -/
theorem budgetPic_begun {s : State} {c : Nat} {z y : Chan} (hz : s.chan c = some z) (hl : y.look = z.look) (p : LkPic)
    (ptype depth : Nat) (idr ltrRef : Bool) (e : EncStart) (behind : List (Nat × Nat × Nat)) (w0 h0 : Nat) :
    PicFrame c s (budgetPic s c y p ptype depth idr ltrRef e behind w0 h0) ∧
      ∃ y' k, (budgetPic s c y p ptype depth idr ltrRef e behind w0 h0).chan c = some y' ∧ y'.cur = some k ∧
        Begun k p ptype idr s.tim.dtb := by
  unfold budgetPic
  refine ⟨⟨rfl, rfl, fun m hm => chan_setChan_ne _ _ hm, ?_⟩, _, _, chan_setChan_same .., rfl, ⟨rfl, rfl, rfl, rfl, rfl⟩⟩
  rw [chan_congr (wch_vid ..), chan_setChan_same, hz, Option.map_some, Option.map_some]
  exact congrArg some hl

/-- Taking the buffer for the reconstruction keeps the picture in encode (R185). -/
theorem takeBuf_begun {s : State} {c : Nat} {y : Chan} {k : Cur} {p : LkPic} {ptype : Nat} {idr : Bool} {now : DWord}
    (hy : s.chan c = some y) (hk : y.cur = some k) (hb : Begun k p ptype idr now) :
    PicFrame c s (takeBuf s c) ∧ ∃ y' k', (takeBuf s c).chan c = some y' ∧ y'.cur = some k' ∧ Begun k' p ptype idr now := by
  have stay : PicFrame c s s ∧ ∃ y' k', s.chan c = some y' ∧ y'.cur = some k' ∧ Begun k' p ptype idr now :=
    ⟨.refl c s, y, k, hy, hk, hb⟩
  unfold takeBuf
  simp only [hy, hk]
  split
  · rename_i u n hu _
    cases hu
    split
    · obtain ⟨hpic, hptype, hidr, hstart, htimeout⟩ := hb
      exact ⟨(PicFrame.modBuf ..).trans (.setChan hy rfl), _, _, chan_setChan_same .., rfl,
        ⟨hpic, hptype, hidr, hstart, htimeout⟩⟩
    · exact stay
  · exact stay

/-- A picture without reported loss begins as it was picked; an IDR is of type I (R242, R262, R267). -/
theorem beginPic_begun {s : State} {c : Nat} {y : Chan} (hy : s.chan c = some y) {p : LkPic} (hp : p.loss = false)
    {ptype : Nat} {idr : Bool} (hi : idr = true → ptype = 0) (depth : Nat) (e : EncStart)
    (behind : List (Nat × Nat × Nat)) (w0 h0 : Nat) :
    PicFrame c s (beginPic s c p ptype depth idr e behind w0 h0) ∧
      ∃ y' k, (beginPic s c p ptype depth idr e behind w0 h0).chan c = some y' ∧ y'.cur = some k ∧
        Begun k p ptype idr s.tim.dtb := by
  have h1 := PicFrame.homeMove c s
  have hpt : (if idr = true then 0 else ptype) = ptype := by
    split
    · rename_i h; exact (hi h).symm
    · rfl
  obtain ⟨y1, hc1, -⟩ := h1.chan_some hy
  have h2 := h1.trans (PicFrame.startMarks c (homeMove s c) idr false e.keep)
  obtain ⟨z, hc2, -⟩ := h2.chan_some hy
  unfold beginPic
  simp only [hc1, hp, Bool.false_and, Bool.or_false, Bool.false_eq_true, if_false, hpt, hc2]
  obtain ⟨h3, z1, k1, hz1, hk1, hb1⟩ := budgetPic_begun (y := { z with
    lastIdr := if idr = true then some p.counter else z.lastIdr,
    top := if ptype = 2 then z.top else some p.counter }) hc2 rfl p ptype depth idr false e behind w0 h0
  obtain ⟨h4, z2, k2, hz2, hk2, hb2⟩ := takeBuf_begun hz1 hk1 hb1
  rw [h2.tim] at hb2
  exact ⟨(h2.trans h3).trans h4, z2, k2, hz2, hk2, hb2⟩

/-- Searching sources leaves time and device memory (R244). -/
theorem absorbChan_kept (s : State) (c : Nat) (l : List (Nat × PreIn)) :
    (absorbChan s c l).tim = s.tim ∧ (absorbChan s c l).drm = s.drm := by
  refine List.foldlRecOn (motive := fun t : State => t.tim = s.tim ∧ t.drm = s.drm) l _ ⟨rfl, rfl⟩ fun t h q _ => ?_
  split
  · have hr : ∀ (l : List Nat) (u : State), PicFrame c u (reapBufs u l) :=
      fun l u => PicFrame.foldl (fun t n => .reapBuf c t n) l u
    exact ⟨(PicFrame.tim (hr _ _)).trans h.1, (PicFrame.drm (hr _ _)).trans h.2⟩
  · exact h

/-- The type of the picture picked: I where R242 asks for it, else as the encoder decides. -/
def pickType (z : Chan) (e : EncStart) (p : LkPic) : Nat := if intraDue z p then 0 else if e.b then 2 else 1

/-- The lookahead that the picture picked has left. -/
def lookWithout (z : Chan) (p : LkPic) : List LkPic := z.look.filter fun q => q.counter ≠ p.counter

/-- The state in which the picture picked has left the lookahead and begun. -/
def pickBegun (s : State) (c : Nat) (z : Chan) (e : EncStart) (p : LkPic) : State :=
  beginPic (s.setChan c { z with look := lookWithout z p }) c p (pickType z e p)
    (if pickType z e p = 2 then e.depth else 0) (idrDue z p) e (behindOf z (lookWithout z p) e.plan) z.blk.width z.blk.height

/-- ENC_PICTURE_START of a channel outside a ladder that may code the picked picture next: it begins (R240, R242). -/
theorem exec_encPictureStart {s : State} {c : Nat} {e : EncStart} {y z : Chan} {p : LkPic} (hs : s.flt.safe = false)
    (hy : s.chan c = some y) (he : y.blk.enc = true) (hcur : y.cur = none) (hg : y.grp = none)
    (hz : (absorbChan s c e.pre).chan c = some z)
    (hf : z.look.find? (fun q => q.counter.toNat = e.pick && q.pre.isSome) = some p)
    (hr : released z z.look = true) (hp : pickOk z z.look e p = true) :
    exec (.encPictureStart c e) s = .next (finish s (pickBegun (absorbChan s c e.pre) c z e p)) := by
  change execEncPictureStart c e s = _
  unfold execEncPictureStart
  simp only [hs, hy, he, hcur, hg, hz, hf, hr, hp]
  rfl

/-- A picture that must be an IDR is coded intra (R242). -/
theorem pickType_of_idrDue {z : Chan} {e : EncStart} {p : LkPic} (h : idrDue z p = true) : pickType z e p = 0 := by
  simp [pickType, intraDue, h]

/-- The picture picked has left the lookahead, is the picture in encode, and its time budget starts now (R240, R267). -/
theorem pickBegun_begun (s : State) (c : Nat) (z : Chan) (e : EncStart) {p : LkPic} (hp : p.loss = false) :
    (pickBegun s c z e p).drm = s.drm ∧ (∀ m, m ≠ c → (pickBegun s c z e p).chan m = s.chan m) ∧
      ∃ y k, (pickBegun s c z e p).chan c = some y ∧ y.look = lookWithout z p ∧ y.cur = some k ∧
        Begun k p (pickType z e p) (idrDue z p) s.tim.dtb := by
  obtain ⟨hframe, y, k, hy, hk, hb⟩ := beginPic_begun (chan_setChan_same s c { z with look := lookWithout z p }) hp
    pickType_of_idrDue (if pickType z e p = 2 then e.depth else 0) e (behindOf z (lookWithout z p) e.plan) z.blk.width
    z.blk.height
  obtain ⟨y', hy', hlook⟩ := hframe.chan_some (chan_setChan_same ..)
  cases hy.symm.trans hy'
  rw [setChan_tim] at hb
  exact ⟨hframe.drm, fun m hm => (hframe.other m hm).trans (chan_setChan_ne _ _ hm), y, k, hy, hlook, hk, hb⟩

/-- A row that finds the output full waits, and only the counters of its report move besides (R12). -/
theorem encRowCoded_waits {s : State} {c : Nat} {r : RowIn} {z : Chan} {v : Cur} (hs : s.flt.safe = false)
    (hz : s.chan c = some z) (hv : z.cur = some v) (hb : v.buf ≠ none) (hw : v.stall = none) (ht : v.timeout = false)
    (hr : rebands s z v = v) (hi : rowInOk s z v r = true) (hf : v.front ≠ v.bands.length)
    (hl : z.blk.fifoCells ≤ outCells s c) :
    ∃ u, exec (.encRowCoded c r) s = .next (finish s u) ∧
      u.chan c = some { z with cur := some { v with stall := some { row := r } } } ∧ u.grn = s.grn ∧
      u.vid.buf = s.vid.buf ∧ u.job = s.job ∧ SameBytes s u := by
  obtain ⟨x, hx⟩ := band_of_rowInOk hi (decide_eq_false hf)
  have ho : outCells (encCounted s c z (rowField z v r) r) c = outCells s c :=
    outCells_congr (encCounted_grn ..) ((encCounted_chan ..).trans hz.symm)
  rw [exec_encRowCoded hs hz hv hb hw hr hi, placeRow_full (encCounted_chan ..) hx ht (ho.symm ▸ hl)]
  exact ⟨_, rfl, chan_setChan_same .., (setChan_grn ..).trans (encCounted_grn ..),
    (setChan_buf ..).trans (encCounted_buf ..), (setChan_job ..).trans (encCounted_job ..),
    sameBytes_of_drm ((setChan_drm ..).trans (encCounted_drm ..))⟩

/-- The end of the time budget of a picture that waits for nothing only bars retries (R267). -/
theorem exec_encTimeBudgetExpiry {s : State} {c : Nat} {z : Chan} {v : Cur} (hz : s.chan c = some z)
    (hv : z.cur = some v) (hb : v.buf ≠ none) (hw : v.stall = none) :
    exec (.encTimeBudgetExpiry c) s = .next (s.setChan c { z with cur := some { v with timeout := true } }) := by
  have hn : v.buf.isNone = false := Option.isNone_eq_false_iff.2 (Option.isSome_iff_ne_none.2 hb)
  change execEncTimeBudgetExpiry c s = _
  unfold execEncTimeBudgetExpiry
  simp only [takeBuf_of_buf hz hv hb, hz, hv, hw, hn]
  rfl

/-- Settles O25: the begin of a picture, a row that waits, and the end of the time budget. -/
theorem encodePictures : Obligations.EncodePictures := by
  intro s c
  refine ⟨fun e z p hs hz hopen hy hf hl hr hp => ?_, fun r z v hs hz hv hb hw ht hre hi hfr hfull =>
    encRowCoded_waits hs hz hv hb hw ht hre hi hfr hfull, fun z v hz hv hb hw => exec_encTimeBudgetExpiry hz hv hb hw⟩
  obtain ⟨y, hc⟩ := Option.ne_none_iff_exists'.1 hopen
  obtain ⟨henc, hcur, hgrp⟩ := hy y hc
  obtain ⟨htim, hdrm⟩ := absorbChan_kept s c e.pre
  obtain ⟨hmem, hother, z', k, hz', hlook, hk, hbegun⟩ := pickBegun_begun (absorbChan s c e.pre) c z e hl
  rw [htim] at hbegun
  exact ⟨_, z', k, exec_encPictureStart hs hc henc hcur hgrp hz hf hr hp, hz', hk, hlook, by rw [hbegun.pic], hbegun.ptype,
    hbegun.idr, hbegun.start, hbegun.timeout, hother, sameBytes_of_drm (hmem.trans hdrm)⟩

end Sys2Proof.Machine
end

section
/-! PROOFS. The Interrupt Gatherer: what a claim returns, the writes of a source, the release of a held message (O39). -/

namespace Sys2Proof.Machine

/-! Fields of a word. -/

theorem fld_eq_div_mod {n : Nat} (w : BitVec n) (lo len : Nat) : fld w lo len = w.toNat / 2 ^ lo % 2 ^ len := by
  unfold fld
  rw [Nat.shiftRight_eq_div_pow]

/-- The number of a source in the low bits of a word. -/
theorem fld_low_eleven {n : Nat} (w : BitVec n) : fld w 0 11 = w.toNat % 2048 := rfl

theorem bit_eq_decide_fld {n : Nat} (w : BitVec n) (i : Nat) : bit w i = decide (fld w i 1 = 1) := by
  rw [fld_eq_div_mod, Nat.pow_one, ← Nat.testBit_eq_decide_div_mod_eq]
  rfl

/-- A field reads back what was put there, where it lies inside the word. -/
theorem fld_putFld_same {n : Nat} (w : BitVec n) {lo len : Nat} (v : Nat) (hn : lo + len ≤ n) :
    fld (putFld w lo len v) lo len = v % 2 ^ len := by
  have hword : w.toNat - fld w lo len * 2 ^ lo + v % 2 ^ len * 2 ^ lo =
      w.toNat % 2 ^ lo + 2 ^ lo * (v % 2 ^ len + 2 ^ len * (w.toNat / 2 ^ lo / 2 ^ len)) := by
    have hsplit : w.toNat = w.toNat % 2 ^ lo + 2 ^ lo * (fld w lo len + 2 ^ len * (w.toNat / 2 ^ lo / 2 ^ len)) := by
      rw [fld_eq_div_mod, Nat.mod_add_div, Nat.mod_add_div]
    rw [Nat.mul_add] at hsplit ⊢
    rw [Nat.mul_comm (fld w lo len), Nat.mul_comm (v % 2 ^ len)]
    omega
  have hpow : 2 ^ n = 2 ^ lo * 2 ^ (n - lo) := by rw [← Nat.pow_add, Nat.add_sub_cancel' (by omega)]
  have hdvd : 2 ^ len ∣ 2 ^ (n - lo) := Nat.pow_dvd_pow 2 (by omega)
  rw [fld_eq_div_mod, putFld, BitVec.toNat_ofNat, hword, hpow, Nat.mod_mul_right_div_self, Nat.mod_mod_of_dvd _ hdvd,
    Nat.add_mul_div_left _ _ (Nat.two_pow_pos lo), Nat.div_eq_of_lt (Nat.mod_lt _ (Nat.two_pow_pos lo)), Nat.zero_add,
    Nat.add_mul_mod_self_left, Nat.mod_mod]

/-- The bit that a field of one bit leaves. -/
theorem bit_putFld_same {n : Nat} (w : BitVec n) {i : Nat} (v : Nat) (hn : i < n) :
    bit (putFld w i 1 v) i = decide (v % 2 = 1) := by
  rw [bit_eq_decide_fld, fld_putFld_same w v hn, Nat.pow_one]

/-! What a rising table lists. -/

theorem mem_of_tget {α : Type} {t : Tab α} {n : Nat} {x : α} (h : tget t n = some x) : (n, x) ∈ t := by
  induction t with
  | nil => cases h
  | cons p t ih =>
    obtain ⟨k, y⟩ := p
    unfold tget at h
    split at h
    · rename_i hk
      cases h
      rw [hk]
      exact List.mem_cons_self ..
    · exact List.mem_cons_of_mem _ (ih h)

theorem tget_of_mem {α : Type} {t : Tab α} {n : Nat} {x : α} (hr : Tab.rising t = true) (h : (n, x) ∈ t) :
    tget t n = some x := by
  induction t with
  | nil => cases h
  | cons p t ih =>
    obtain ⟨k, y⟩ := p
    obtain ⟨habove, hrest⟩ := rising_cons.1 hr
    unfold tget
    rcases List.mem_cons.1 h with he | ht
    · cases he
      exact if_pos rfl
    · rw [if_neg (Nat.ne_of_lt (habove _ ht))]
      exact ih hrest ht

theorem src_of_mem {s : State} {n : Nat} {x : Src} (hr : Tab.rising s.intr.src = true) (h : (n, x) ∈ s.intr.src) :
    s.src n = x := by
  unfold State.src tgetD
  rw [tget_of_mem hr h]
  rfl

theorem srcDflt_pend (n : Nat) : (srcDflt n).pend = false := by
  unfold srcDflt
  split <;> rfl

theorem srcDflt_mask (n : Nat) : (srcDflt n).mask = false := by
  unfold srcDflt
  split <;> rfl

/-- A deliverable source is listed: what reset leaves is not PENDING (R160). -/
theorem mem_of_deliverable {s : State} {n : Nat} (h : deliverable s n (s.src n) = true) : (n, s.src n) ∈ s.intr.src := by
  cases hg : tget s.intr.src n with
  | some x =>
    have hx : s.src n = x := by simp [State.src, tgetD, hg]
    exact hx ▸ mem_of_tget hg
  | none =>
    have hx : s.src n = srcDflt n := by simp [State.src, tgetD, hg]
    simp [hx, deliverable, srcDflt_pend] at h

/-! What a claim picks (R162). -/

/-- Candidate `a` has a higher priority than `b`, or the same and no higher number. -/
def ClaimFirst (a b : Nat × Nat × Bool) : Prop := b.1 < a.1 ∨ (b.1 = a.1 ∧ a.2.1 ≤ b.2.1)

theorem ClaimFirst.refl (a : Nat × Nat × Bool) : ClaimFirst a a := .inr ⟨rfl, Nat.le_refl _⟩

theorem ClaimFirst.trans {a b c : Nat × Nat × Bool} (h : ClaimFirst a b) (k : ClaimFirst b c) : ClaimFirst a c := by
  unfold ClaimFirst at *
  omega

/-- A fold that keeps the one of two candidates that comes first ends with one that comes before all of them. -/
theorem foldl_claimFirst {f : Option (Nat × Nat × Bool) → Nat × Nat × Bool → Option (Nat × Nat × Bool)}
    (hf : ∀ b c, (f (some b) c = some c ∧ ClaimFirst c b) ∨ (f (some b) c = some b ∧ ClaimFirst b c))
    {l : List (Nat × Nat × Bool)} {b r : Nat × Nat × Bool} (h : l.foldl f (some b) = some r) :
    r ∈ b :: l ∧ ∀ d ∈ b :: l, ClaimFirst r d := by
  induction l generalizing b with
  | nil =>
    cases h
    simpa using ClaimFirst.refl r
  | cons c l ih =>
    rw [List.foldl_cons] at h
    rcases hf b c with ⟨hk, hcb⟩ | ⟨hk, hbc⟩
    · obtain ⟨hmem, hfirst⟩ := ih (hk ▸ h)
      have hrc := hfirst c (List.mem_cons_self ..)
      exact ⟨List.mem_cons_of_mem _ hmem, List.forall_mem_cons.2 ⟨hrc.trans hcb, hfirst⟩⟩
    · obtain ⟨hmem, hfirst⟩ := ih (hk ▸ h)
      obtain ⟨hrb, hrl⟩ := List.forall_mem_cons.1 hfirst
      refine ⟨?_, List.forall_mem_cons.2 ⟨hrb, List.forall_mem_cons.2 ⟨hrb.trans hbc, hrl⟩⟩⟩
      rcases List.mem_cons.1 hmem with rfl | hl
      · exact List.mem_cons_self ..
      · exact List.mem_cons_of_mem _ (List.mem_cons_of_mem _ hl)

/-- A source that a claim picks is listed, deliverable on its vector, and comes before every other such source. -/
theorem claimPick_source {s : State} {h v p n : Nat} (hp : claimPick s h v = some (p, n, false)) :
    (∃ x, (n, x) ∈ s.intr.src ∧ x.hold = h ∧ x.vec = v ∧ deliverable s n x = true ∧ x.prio = p) ∧
    ∀ m y, (m, y) ∈ s.intr.src → y.hold = h → y.vec = v → deliverable s m y = true →
      y.prio < p ∨ (y.prio = p ∧ n ≤ m) := by
  unfold claimPick at hp
  dsimp only at hp
  generalize hcs : (_ ++ _ : List (Nat × Nat × Bool)) = cs at hp
  cases cs with
  | nil => cases hp
  | cons c l =>
    rw [List.foldl_cons] at hp
    obtain ⟨hmem, hfirst⟩ := foldl_claimFirst (fun b c => by
      dsimp only
      split
      · rename_i hb
        simp only [Bool.or_eq_true, Bool.and_eq_true, decide_eq_true_eq] at hb
        exact .inl ⟨rfl, hb.imp_right fun ⟨he, hlt⟩ => ⟨he, Nat.le_of_lt hlt⟩⟩
      · rename_i hb
        simp only [Bool.or_eq_true, Bool.and_eq_true, decide_eq_true_eq] at hb
        exact .inr ⟨rfl, by unfold ClaimFirst; omega⟩) hp
    rw [← hcs] at hmem hfirst
    constructor
    · rcases List.mem_append.1 hmem with hv | hsrc
      · simp at hv
      · obtain ⟨⟨m, y⟩, hy, he⟩ := List.mem_filterMap.1 hsrc
        split at he
        · rename_i hc
          cases he
          simp only [Bool.and_eq_true, decide_eq_true_eq] at hc
          obtain ⟨⟨hhold, hvec⟩, hdel⟩ := hc
          exact ⟨y, hy, hhold, hvec, hdel, rfl⟩
        · cases he
    · intro m y hy hh hv hd
      exact hfirst (y.prio, m, false) (List.mem_append_right _ (List.mem_filterMap.2 ⟨(m, y), hy, by simp [hh, hv, hd]⟩))

/-- Where the sources are listed in order, a claim returns the deliverable source of its vector with the highest priority,
and of equal ones the lowest number (R162). -/
theorem claimPick_first {s : State} {h v p n : Nat} (hp : claimPick s h v = some (p, n, false))
    (hr : Tab.rising s.intr.src = true) :
    deliverable s n (s.src n) = true ∧ (s.src n).hold = h ∧ (s.src n).vec = v ∧
      ∀ m, deliverable s m (s.src m) = true → (s.src m).hold = h → (s.src m).vec = v →
        (s.src m).prio < (s.src n).prio ∨ ((s.src m).prio = (s.src n).prio ∧ n ≤ m) := by
  obtain ⟨⟨x, hx, hhold, hvec, hdel, hprio⟩, hfirst⟩ := claimPick_source hp
  have hn := src_of_mem hr hx
  subst hn hprio
  exact ⟨hdel, hhold, hvec, fun m hm hmh hmv => hfirst m _ (mem_of_deliverable hm) hmh hmv hm⟩

/-! IGF_CLAIM and IGF_COMPLETE (R162, R163). -/

theorem exec_igfClaim_spurious {s : State} {h v : Nat} (hf : fnOn s h = true) (hv : v < 64) (hp : claimPick s h v = none) :
    exec (.igfClaim h v) s = .next { s.cnt2 A.igSpurious 0 31 with readData := 2047 } := by
  change execIgfClaim h v s = _
  simp only [execIgfClaim, hf, Nat.not_le.2 hv, hp, Bool.not_true, decide_false, Bool.or_false, Bool.false_eq_true, if_false]

theorem exec_igfClaim_source {s : State} {h v p n : Nat} (hf : fnOn s h = true) (hv : v < 64)
    (hp : claimPick s h v = some (p, n, false)) :
    exec (.igfClaim h v) s = .next (finish s
      { s.setSrc n { s.src n with pend := false, act := true } with readData := BitVec.ofNat 64 n }) := by
  change execIgfClaim h v s = _
  simp only [execIgfClaim, hf, Nat.not_le.2 hv, hp, done, w64, Bool.not_true, decide_false, Bool.or_false, Bool.false_eq_true,
    if_false]

theorem exec_igfComplete_refused {s : State} {h v : Nat} {w : Word} (hf : fnOn s h = true) (hv : v < 64)
    (hn : w.toNat % 2048 ≠ 2047) (hc : completeSrc s h v (w.toNat % 2048) = none) :
    exec (.igfComplete h v w) s = .next (s.cnt0 h B.igfRefused) := by
  change execIgfComplete h v w s = _
  simp only [execIgfComplete, fld_low_eleven, hf, Nat.not_le.2 hv, hn, hc, igfRefuse, Bool.not_true, decide_false, Bool.or_false,
    Bool.false_eq_true, if_false]

/-- A COMPLETE on a vector that had no deliverable source sends no further message (R163). -/
theorem exec_igfComplete_quiet {s t : State} {h v : Nat} {w : Word} (hf : fnOn s h = true) (hv : v < 64)
    (hn : w.toNat % 2048 ≠ 2047) (hc : completeSrc s h v (w.toNat % 2048) = some t) (hno : h * 64 + v ∉ delivVecs s) :
    exec (.igfComplete h v w) s = .next (finish s t) := by
  have hidle : (delivVecs s).contains (h * 64 + v) = false := by simpa using hno
  change execIgfComplete h v w s = _
  simp only [execIgfComplete, fld_low_eleven, hf, Nat.not_le.2 hv, hn, hc, hidle, done, Bool.not_true, decide_false, Bool.or_false,
    Bool.false_and, Bool.false_eq_true, if_false]

/-- Without an ACTIVE VACANT route a COMPLETE clears the ACTIVE source of the holding on that vector. -/
theorem completeSrc_of_vac {s : State} {h v n : Nat} (ha : (s.vac h).act = false) :
    completeSrc s h v n = if srcOwn s h n && (s.src n).act && (s.src n).vec = v
      then some (s.setSrc n { s.src n with act := false }) else none := by
  simp [completeSrc, ha]

theorem exec_igfComplete_nothing {s : State} {h v : Nat} {w : Word} (hn : w.toNat % 2048 = 2047) :
    exec (.igfComplete h v w) s = .next s := by
  change execIgfComplete h v w s = _
  simp [execIgfComplete, fld_eq_div_mod, hn]

/-- Claims and their ends. -/
theorem interruptClaims : InterruptClaims := by
  intro s h v hf hv
  refine ⟨exec_igfClaim_spurious hf hv, fun p n hp => ⟨exec_igfClaim_source hf hv hp, claimPick_first hp⟩, fun w => ?_⟩
  refine ⟨exec_igfComplete_nothing, fun hn ha hown hact hvec hno => ?_, fun hn ha hbad => ?_⟩
  · refine exec_igfComplete_quiet hf hv hn ?_ hno
    rw [completeSrc_of_vac ha, if_pos]
    simp [hown, hact, hvec]
  · refine exec_igfComplete_refused hf hv hn ?_
    rw [completeSrc_of_vac ha, if_neg]
    rcases hbad with hbad | hbad | hbad <;> simp [hbad]

/-! The writes of a source (R158, R160, R165, R166). -/

theorem igfAct_own {s : State} {h : Nat} {v : Word} (hown : srcOwn s h (v.toNat % 2048) = true) (g : Src → Src) :
    igfAct s h v g = s.setSrc (v.toNat % 2048) (g (s.src (v.toNat % 2048))) := by
  simp [igfAct, fld_eq_div_mod, hown]

theorem igfAct_other {s : State} {h : Nat} {v : Word} (hown : srcOwn s h (v.toNat % 2048) = false) (g : Src → Src) :
    igfAct s h v g = s.cnt0 h B.igfRefused := by
  simp [igfAct, fld_eq_div_mod, hown, igfRefuse]

theorem exec_igfMaskSet {s : State} {h : Nat} (v : Word) (hf : fnOn s h = true) :
    exec (.igfMaskSet h v) s = .next (finish s (igfAct s h v fun x => { x with mask := true })) := if_pos hf

theorem exec_igfMaskClr {s : State} {h : Nat} (v : Word) (hf : fnOn s h = true) :
    exec (.igfMaskClr h v) s = .next (finish s (igfAct s h v fun x => { x with mask := false })) := if_pos hf

theorem exec_igfPendSet {s : State} {h : Nat} (v : Word) (hf : fnOn s h = true) :
    exec (.igfPendSet h v) s = .next (finish s (igfAct s h v fun x => { x with pend := true })) := if_pos hf

theorem exec_igfPendClr {s : State} {h : Nat} (v : Word) (hf : fnOn s h = true) :
    exec (.igfPendClr h v) s = .next (finish s (igfAct s h v fun x => { x with pend := false, ev := 0, timer := false })) :=
  if_pos hf

/-- A holding owns no reserved source and none whose TARGET names another (R156, R166). -/
theorem srcOwn_eq_false {s : State} {h n : Nat} (hn : 1343 ≤ n ∨ (s.src n).hold ≠ h) : srcOwn s h n = false := by
  rcases hn with hn | hn <;> simp [srcOwn, srcReserved, hn]

/-- A counter below the new count keeps counting (R160). -/
theorem setCoal_of_lt {x : Src} {v : Word} (h : x.ev < max 1 (v.toNat % 256)) :
    setCoal x v = { x with cnt := v.toNat % 256, time := v.toNat / 256 % 65536 } := by
  have hlt : ¬ Nat.max 1 (v.toNat % 256) ≤ x.ev := Nat.not_le.2 h
  simp [setCoal, fld_eq_div_mod, hlt]

/-- A counter that has reached the new count makes the source PENDING (R160). -/
theorem setCoal_of_le {x : Src} {v : Word} (h0 : 0 < x.ev) (h : max 1 (v.toNat % 256) ≤ x.ev) :
    setCoal x v = { x with cnt := v.toNat % 256, time := v.toNat / 256 % 65536, ev := 0, timer := false, pend := true } := by
  have hle : Nat.max 1 (v.toNat % 256) ≤ x.ev := h
  simp [setCoal, fld_eq_div_mod, h0, hle, Src.becomePending]

theorem exec_igfCoalWrite {s : State} {h : Nat} (v : Word) (hf : fnOn s h = true)
    (hown : srcOwn s h ((s.r0 h B.igfSel).toNat % 2048) = true) :
    exec (.igfCoalWrite h v) s = .next (finish s
      (s.setSrc ((s.r0 h B.igfSel).toNat % 2048) (setCoal (s.src ((s.r0 h B.igfSel).toNat % 2048)) v))) := by
  change execIgfCoalWrite h v s = _
  simp [execIgfCoalWrite, fld_eq_div_mod, hf, hown, done]

/-- A TARGET that changes in its vector, priority or enable leaves ACTIVE (R165). -/
theorem retarget_of_ne {s : State} {n : Nat} {y : Src}
    (h : (s.src n).vec ≠ y.vec ∨ (s.src n).prio ≠ y.prio ∨ (s.src n).en ≠ y.en) :
    retarget s n y = s.setSrc n { y with act := false } := by
  unfold retarget
  dsimp only
  rw [if_neg]
  rcases h with h | h | h <;> simp [h]

theorem exec_igfRouteWrite {s : State} {h : Nat} (v : Word) (hf : fnOn s h = true)
    (hown : srcOwn s h ((s.r0 h B.igfSel).toNat % 2048) = true) :
    exec (.igfRouteWrite h v) s = .next (finish s (retarget s ((s.r0 h B.igfSel).toNat % 2048)
      { s.src ((s.r0 h B.igfSel).toNat % 2048) with vec := v.toNat % 64, prio := v.toNat / 256 % 16 })) := by
  change execIgfRouteWrite h v s = _
  simp [execIgfRouteWrite, fld_eq_div_mod, hf, hown, done]

/-! The administrative holding's writes, and the coalescing time. -/

theorem adminWrite_of_admin {s : State} {w : Nat} (ha : Admin s w) (g : State → State) : adminWrite s w g = g s := by
  obtain ⟨hpresent, hd3, howner⟩ := ha
  simp [adminWrite, hpresent, hd3, howner]

/-- A TARGET write that keeps the source's holding (R158). -/
theorem exec_igTargetWrite_same {s : State} {h n : Nat} {v : Word} (ha : Admin s h) (hn : n < 1343)
    (hh : v.toNat % 32 = (s.src n).hold) :
    exec (.igTargetWrite h n v) s = .next (finish s (retarget s n
      { s.src n with vec := v.toNat / 256 % 64, prio := v.toNat / 65536 % 16, en := v.getLsbD 31 })) := by
  have hlt : ¬ 2047 ≤ n := by omega
  have hlisted : ¬ 1343 ≤ n := by omega
  change execIgTargetWrite h n v s = _
  simp [execIgTargetWrite, adminWrite_of_admin ha, fld_eq_div_mod, srcReserved, hlt, hlisted, hh, done, bit]

/-- A queue's or a channel's source keeps its holding (R158). -/
theorem exec_igTargetWrite_refused {s : State} {h n : Nat} {v : Word} (ha : Admin s h) (hn : n < 1280)
    (hh : v.toNat % 32 ≠ (s.src n).hold) :
    exec (.igTargetWrite h n v) s = .next (finish s (s.cnt2 A.igTargetRefused 0 31)) := by
  have hlt : ¬ 2047 ≤ n := by omega
  change execIgTargetWrite h n v s = _
  simp [execIgTargetWrite, adminWrite_of_admin ha, fld_eq_div_mod, hlt, hn, hh, done]

theorem exec_coalesceTimerExpiry {s : State} {n : Nat} (hn : n < 1343) (ht : (s.src n).timer = true) :
    exec (.coalesceTimerExpiry n) s =
      .next (finish s (s.setSrc n { s.src n with ev := 0, timer := false, pend := true })) := by
  change execCoalesceTimerExpiry n s = _
  simp [execCoalesceTimerExpiry, srcReserved, hn, ht, done, Src.becomePending]

/-! A held message, and CHN_BYHANDLE (R161, R167). -/

/-- The one held message of a native function goes where nothing holds it any more and its vector has a deliverable
source. -/
theorem releaseMsgs_single {s : State} {h m : Nat} (hm : m < 64) (hheld : s.intr.held = [h * 64 + m])
    (hnat : s.native h = true) (hmask : msgMasked s h m = false) (hd : h * 64 + m ∈ delivVecs s) :
    releaseMsgs s h = { s with intr := { s.intr with held := [] } }.emit (.msix h m) := by
  have hdiv : (h * 64 + m) / 64 = h := by omega
  have hmod : (h * 64 + m) % 64 = m := by omega
  simp [releaseMsgs, hheld, hdiv, hmod, hnat, hmask, hd, remNat]

theorem delivVecs_put0 (s : State) (h a lo len v : Nat) : delivVecs (s.put0 h a lo len v) = delivVecs s := rfl

/-- The mask bit of a vector of a native function. -/
theorem maskReg_of_native {s : State} {h : Nat} (hnat : s.native h = true) (m : Nat) : maskReg s h m = 0x80C + m * 16 := by
  simp only [State.native, Bool.not_eq_true'] at hnat
  simp [maskReg, hnat]

/-- Once the host clears a vector's mask only the function mask and D3hot hold its messages. -/
theorem msgMasked_unmask {s : State} {h m : Nat} (hnat : s.native h = true) (hd3 : (s.hd h).d3 = false)
    (hfn : (s.hd h).fnMask = false) : msgMasked (s.put0 h (0x80C + m * 16) 0 1 0) h m = false := by
  simp only [State.native, Bool.not_eq_true'] at hnat
  have hhd : (s.put0 h (0x80C + m * 16) 0 1 0).hd h = s.hd h := rfl
  simp [msgMasked, hhd, hnat, hd3, hfn, r0_put0_same, bit_putFld_same]

/-- MSIX_MASK_RELEASE of the vector whose message is held: the mask clears and the message goes (R161). -/
theorem exec_msixMaskRelease {s : State} {h m : Nat} (hp : (s.hd h).present = true) (hnat : s.native h = true) (hm : m < 64)
    (hheld : s.intr.held = [h * 64 + m]) (hd3 : (s.hd h).d3 = false) (hfn : (s.hd h).fnMask = false)
    (hd : h * 64 + m ∈ delivVecs s) :
    exec (.msixMaskRelease h m) s =
      .next (State.emit { s.put0 h (0x80C + m * 16) 0 1 0 with intr := { s.intr with held := [] } } (.msix h m)) := by
  have hpv : (s.hd h).pv = false := by simpa [State.native] using hnat
  change execMsixMaskRelease h m s = _
  unfold execMsixMaskRelease
  simp only [hp, hpv, hm, maskReg_of_native hnat, Bool.not_true, Bool.false_eq_true, if_false, if_true]
  rw [releaseMsgs_single (s := s.put0 h (0x80C + m * 16) 0 1 0) hm hheld hnat
    (msgMasked_unmask hnat hd3 hfn) ((delivVecs_put0 s ..).symm ▸ hd)]
  rfl

theorem exec_chnByhandle_some {s : State} {h : Nat} {v : Word} {o : Obj} (hf : fnOn s h = true)
    (ho : useHandle s h [1] v = some o) :
    exec (.chnByhandle h v) s = .next (s.w0 h B.chnSel (BitVec.ofNat 32 o.ref)) := by
  change execChnByhandle h v s = _
  simp [execChnByhandle, hf, ho, w32]

theorem exec_chnByhandle_none {s : State} {h : Nat} {v : Word} (hf : fnOn s h = true) (ho : useHandle s h [1] v = none) :
    exec (.chnByhandle h v) s = .next (s.put0 h B.chnSel 8 1 1) := by
  change execChnByhandle h v s = _
  simp [execChnByhandle, hf, ho]

/-- A field of a BAR0 register touches no other part of the state. -/
theorem sameParts_put0 (s : State) (h a lo len v : Nat) : SameParts s (s.put0 h a lo len v) := by
  simp [SameParts]

theorem sameParts_setIntr {s t : State} (x : Intr) (h : SameParts s t) : SameParts s { t with intr := x } := h

theorem sameParts_emit {s t : State} (o : Out) (h : SameParts s t) : SameParts s (t.emit o) := h

/-- The writes of the Gatherer. -/
theorem interruptWrites : InterruptWrites := by
  intro s h v
  refine ⟨fun hf => ⟨fun hown => ?_, fun hown => ?_, srcOwn_eq_false⟩, srcDflt_mask, fun hf hown => ⟨fun hlt => ?_,
    fun h0 hle => ?_, fun hne => ?_⟩, fun n ha hn hh hne => ?_, fun n ha hn hh => exec_igTargetWrite_refused ha hn hh,
    fun n hn ht => exec_coalesceTimerExpiry hn ht, fun m hp hnat hm hheld hd3 hfn hd => ?_,
    fun o hf ho => exec_chnByhandle_some hf ho, fun hf ho => ?_⟩
  · rw [exec_igfMaskSet v hf, exec_igfMaskClr v hf, exec_igfPendSet v hf, exec_igfPendClr v hf]
    simp only [igfAct_own hown, and_self]
  · rw [exec_igfMaskSet v hf, exec_igfMaskClr v hf, exec_igfPendSet v hf, exec_igfPendClr v hf]
    simp only [igfAct_other hown, and_self]
  · rw [exec_igfCoalWrite v hf hown, setCoal_of_lt hlt]
  · rw [exec_igfCoalWrite v hf hown, setCoal_of_le h0 hle]
  · rw [exec_igfRouteWrite v hf hown, retarget_of_ne (hne.imp_right .inl)]
  · rw [exec_igTargetWrite_same ha hn hh, retarget_of_ne hne]
  · refine ⟨_, exec_msixMaskRelease hp hnat hm hheld hd3 hfn hd, ?_, rfl, rfl, rfl, ?_, rfl⟩
    · change bit ((s.put0 h (0x80C + m * 16) 0 1 0).r0 h (0x80C + m * 16)) 0 = false
      rw [r0_put0_same, bit_putFld_same _ _ (by decide)]
      rfl
    · exact sameParts_emit _ (sameParts_setIntr _ (sameParts_put0 ..))
  · refine ⟨_, exec_chnByhandle_none hf ho, ?_, sameParts_put0 .., put0_job ..⟩
    rw [r0_put0_same, bit_putFld_same _ _ (by decide)]
    rfl

/-- Settles O39: claims of interrupts, and the writes of the Gatherer. -/
theorem interrupts : Obligations.Interrupts := ⟨interruptClaims, interruptWrites⟩

end Sys2Proof.Machine
end

section
/-! PROOFS. The inverse transform of MPEG-2 pictures, and the pictures that hold it (O29). -/

namespace Sys2Proof.Machine

/-! The coefficients: W at the place m in the period of 32, in its first eighth as it stands, mirrored in its last, negated
between them. -/

theorem idctM_first {n k : Nat} (hk : 1 ≤ k) (hm : (2 * n + 1) * k % 32 < 8) : idctM n k = idctW ((2 * n + 1) * k % 32) := by
  unfold idctM
  rw [if_neg (by omega)]
  exact if_pos hm

theorem idctM_last {n k : Nat} (hk : 1 ≤ k) (hm : 24 < (2 * n + 1) * k % 32) :
    idctM n k = idctW (32 - (2 * n + 1) * k % 32) := by
  unfold idctM
  rw [if_neg (by omega)]
  dsimp only
  rw [if_neg (by omega), if_neg (by omega)]

theorem idctM_middle {n k : Nat} (hk : 1 ≤ k) (hlo : 8 < (2 * n + 1) * k % 32) (hhi : (2 * n + 1) * k % 32 < 24) :
    idctM n k = -idctW (if (2 * n + 1) * k % 32 < 16 then 16 - (2 * n + 1) * k % 32 else (2 * n + 1) * k % 32 - 16) := by
  unfold idctM
  rw [if_neg (by omega)]
  dsimp only
  rw [if_neg (by omega), if_pos ⟨hlo, hhi⟩]
  congr 2
  split <;> omega

/-! The two passes. -/

/-- The row pass's shift rounds down (R212). -/
theorem int_shiftRight_eleven (x : Int) : x >>> 11 = x / 2048 := by
  have hshift : x >>> 11 = Int.shiftRight x 11 := by
    cases x with
    | ofNat _ => rfl
    | negSucc _ => rfl
  exact hshift.trans (Int.shiftRight_eq_div_pow x 11)

/-- The column pass's shift rounds down (R212). -/
theorem int_shiftRight_eighteen (x : Int) : x >>> 18 = x / 262144 := by
  have hshift : x >>> 18 = Int.shiftRight x 18 := by
    cases x with
    | ofNat _ => rfl
    | negSucc _ => rfl
  exact hshift.trans (Int.shiftRight_eq_div_pow x 18)

/-- A sum taken from the left is the sum of the terms on top of its start. -/
theorem foldl_add_eq_sum_map (l : List Nat) (g : Nat → Int) (a : Int) :
    l.foldl (fun x k => x + g k) a = (l.map g).sum + a := by
  induction l generalizing a with
  | nil => exact (Int.zero_add a).symm
  | cons k l ih =>
    rw [List.foldl_cons, ih, List.map_cons, List.sum_cons]
    omega

theorem getElem?_idctRows (F : List Int) {i n : Nat} (hi : i < 8) (hn : n < 8) :
    (idctRows F)[i * 8 + n]? =
      some ((((List.range 8).map fun k => idctM n k * F.getD (i * 8 + k) 0).sum + 1024) >>> 11) := by
  have hmod : (i * 8 + n) % 8 = n := by omega
  have hdiv : (i * 8 + n) / 8 = i := by omega
  unfold idctRows
  rw [List.getElem?_map, List.getElem?_range (by omega), Option.map_some, hmod, hdiv, foldl_add_eq_sum_map,
    int_shiftRight_eleven]

theorem getElem?_idct (F : List Int) {i n : Nat} (hi : i < 8) (hn : n < 8) :
    (idct F)[i * 8 + n]? = some (max (-256) (min 255
      ((((List.range 8).map fun j => idctM i j * (idctRows F).getD (j * 8 + n) 0).sum + 131072) >>> 18))) := by
  have hmod : (i * 8 + n) % 8 = n := by omega
  have hdiv : (i * 8 + n) / 8 = i := by omega
  unfold idct
  dsimp only
  rw [List.getElem?_map, List.getElem?_range (by omega), Option.map_some, hmod, hdiv, foldl_add_eq_sum_map,
    int_shiftRight_eighteen]

/-! A block added to its prediction. -/

/-- Places that a run of changes does not name keep their values. -/
theorem getElem?_foldl_modify_of_notMem {α : Type} {k : Nat → Nat} (hk : Function.Injective k) (f : Nat → α → α)
    {l : List Nat} {n : Nat} (hn : n ∉ l) (xs : List α) :
    (l.foldl (fun r i => r.modify (k i) (f i)) xs)[k n]? = xs[k n]? := by
  refine List.foldlRecOn (motive := fun r : List α => r[k n]? = xs[k n]?) l _ rfl fun r hr i hi => ?_
  have hne : k i ≠ k n := fun h => hn (hk h ▸ hi)
  rw [List.getElem?_modify_ne _ _ hne, hr]

/-- A run of changes at different places makes each change once. -/
theorem getElem?_foldl_modify {α : Type} {k : Nat → Nat} (hk : Function.Injective k) (f : Nat → α → α) {l : List Nat}
    (hl : l.Nodup) {n : Nat} (hn : n ∈ l) {xs : List α} {x : α} (hx : xs[k n]? = some x) :
    (l.foldl (fun r i => r.modify (k i) (f i)) xs)[k n]? = some (f n x) := by
  induction l generalizing xs with
  | nil => cases hn
  | cons a l ih =>
    obtain ⟨ha, hl⟩ := List.nodup_cons.1 hl
    rw [List.foldl_cons]
    rcases List.mem_cons.1 hn with rfl | hn
    · rw [getElem?_foldl_modify_of_notMem hk f ha, List.getElem?_modify_eq, hx]
      rfl
    · have hne : k a ≠ k n := fun h => ha (hk h ▸ hn)
      exact ih hl hn ((List.getElem?_modify_ne _ _ hne).trans hx)

/-- Rows or columns at a distance are different (R212). -/
theorem injective_add_mul (a : Nat) {d : Nat} (hd : 0 < d) : Function.Injective fun i => a + i * d :=
  fun _ _ h => Nat.eq_of_mul_eq_mul_right hd (Nat.add_left_cancel h)

theorem sampleAt_of_getElem? {pl : List (List (List Nat))} {rows : List (List Nat)} {row : List Nat} {p r c v : Nat}
    (hp : pl[p]? = some rows) (hr : rows[r]? = some row) (hc : row[c]? = some v) : sampleAt pl p r c = v := by
  simp [sampleAt, List.getD_eq_getElem?_getD, hp, hr, hc]

/-- Row `i` of a block added to a row of the plane. -/
def addBlockRow (b : ResBlk) (i : Nat) (row : List Nat) : List Nat :=
  (List.range 8).foldl
    (fun r n => r.modify (b.x + n * b.dx) fun v => addSample v ((idct b.coef).getD (i * 8 + n) 0)) row

theorem addBlock_eq_modify_rows (pl : List (List (List Nat))) (b : ResBlk) :
    addBlock pl b = pl.modify b.plane fun rows =>
      (List.range 8).foldl (fun rs i => rs.modify (b.y + i * b.dy) (addBlockRow b i)) rows := rfl

/-- A sample of a block is added to its prediction (R212). -/
theorem sampleAt_addBlock {pl : List (List (List Nat))} {b : ResBlk} {rows : List (List Nat)} {row : List Nat}
    {v i n : Nat} (hdx : 0 < b.dx) (hdy : 0 < b.dy) (hi : i < 8) (hn : n < 8) (hp : pl[b.plane]? = some rows)
    (hr : rows[b.y + i * b.dy]? = some row) (hc : row[b.x + n * b.dx]? = some v) :
    sampleAt (addBlock pl b) b.plane (b.y + i * b.dy) (b.x + n * b.dx) =
      addSample v ((idct b.coef).getD (i * 8 + n) 0) := by
  have hplane : (addBlock pl b)[b.plane]? =
      some ((List.range 8).foldl (fun rs i => rs.modify (b.y + i * b.dy) (addBlockRow b i)) rows) := by
    rw [addBlock_eq_modify_rows, List.getElem?_modify_eq, hp]
    rfl
  exact sampleAt_of_getElem? hplane
    (getElem?_foldl_modify (injective_add_mul b.y hdy) (addBlockRow b) List.nodup_range (List.mem_range.2 hi) hr)
    (getElem?_foldl_modify (injective_add_mul b.x hdx) (fun n v => addSample v ((idct b.coef).getD (i * 8 + n) 0))
      List.nodup_range (List.mem_range.2 hn) hc)

/-! Pictures that hold it. -/

/-- A picture without damage is not concealed (R231). -/
theorem conceal_planes_of_intact (s : State) (c : Nat) (y : Chan) {p : DecPic} (hd : p.damage = [])
    (planes : List (List (List Nat))) : (conceal s c y p planes).1 = planes := by
  unfold conceal
  rw [hd]
  rfl

/-- A picture decoded into a buffer has the samples that concealment leaves (R231). -/
theorem planes_decodeInto {c n : Nat} {t0 : DWord} {nv : Bool} {y : Chan} {s : State} {p : DecPic} {b : Buf}
    (hb : (decodeInto c n t0 nv y s p).buf n = some b) :
    ∃ t, b.planes = (conceal t c y p ((reconstruct y.blk.codec p.planes p.blocks).map fun pl =>
      pl.map fun r => r.map (· * 2 ^ (y.blk.depth - p.hdr.sdepth)))).1 := by
  unfold decodeInto at hb
  dsimp only at hb
  split at hb
  all_goals
    simp only [State.buf, raise_vid, addq2_vid] at hb
    obtain ⟨x, -, rfl⟩ := Option.map_eq_some_iff.1 ((buf_modBuf_same ..).symm.trans hb)
    exact ⟨_, rfl⟩

/-- A reference of the encoder holds its reconstruction (R190, R212). -/
theorem planes_keepRecon {s : State} {c n : Nat} {u : Cur} {r : RowIn} {z : Chan} {b : Buf} (hz : s.chan c = some z)
    (hn : u.buf = some n) (hr : u.isRef = true) (hl : u.pic.ltrSet = none) (hb : (keepRecon s c u r).buf n = some b) :
    b.planes = reconstruct z.blk.codec r.planes r.blocks := by
  unfold keepRecon at hb
  simp only [hn, hz, hl, hr, if_true, buf_modBuf_same] at hb
  obtain ⟨x, -, rfl⟩ := Option.map_eq_some_iff.1 hb
  rfl

/-- With the picture's depth that of the channel, no sample is scaled (R211). -/
theorem map_scale_self (pl : List (List (List Nat))) (d : Nat) :
    (pl.map fun p => p.map fun r => r.map (· * 2 ^ (d - d))) = pl := by
  simp

/-- Settles O29: the coefficients and the two passes as R212 has them, a block's rows and columns each changed once, and the
planes that a decode and a reference take. -/
theorem mpegTransform : Obligations.MpegTransform := by
  refine ⟨rfl, fun n k _ _ => ⟨rfl, idctM_first, idctM_last, idctM_middle⟩,
    fun F i n hi hn => ⟨getElem?_idctRows F hi hn, getElem?_idct F hi hn⟩,
    fun pl b rows row v i n hdx hdy hi hn hp hr hc => sampleAt_addBlock hdx hdy hi hn hp hr hc,
    fun s c n t nv y p b hcodec hdepth hdamage hb => ?_, fun s c n u r z b hz hcodec hn href hltr hb => ?_⟩
  · obtain ⟨u, hplanes⟩ := planes_decodeInto hb
    rw [hplanes, conceal_planes_of_intact _ _ _ hdamage, hdepth, map_scale_self, hcodec]
  · rw [planes_keepRecon hz hn href hltr hb, hcodec]

end Sys2Proof.Machine
end

section
/-! PROOFS. Steps of the device time base, the enabling and draining of a Field, and the tick of a mux (O45). -/

namespace Sys2Proof.Machine

/-! The device time base. -/

/-- A 64-bit value is that of its two words. -/
theorem joinW_hiW_loW (v : DWord) : joinW (hiW v) (loW v) = v := by
  unfold joinW hiW loW
  ext i hi
  rw [BitVec.getElem_append]
  split
  · simp [BitVec.getLsbD_eq_getElem hi]
  · rename_i h
    simp [Nat.add_sub_cancel' (Nat.le_of_not_lt h), BitVec.getLsbD_eq_getElem hi]

/-- A pair of registers reads back the 64-bit value written. -/
theorem q2_wq2_same (s : State) (a : Nat) (v : DWord) : (s.wq2 a v).q2 a = v := by
  unfold State.q2 State.wq2
  rw [r2_w2_same, r2_w2_ne _ _ (by omega), r2_w2_same, joinW_hiW_loW]

theorem exec_dtbStepWrite {s : State} {w : Nat} (ha : Admin s w) (v : Word) :
    exec (.dtbStepWrite w v) s =
      .next (finish s (if follows s then s else { s with tim := { s.tim with step := some v } })) := by
  change execDtbStepWrite w v s = _
  rw [execDtbStepWrite, adminWrite_of_admin ha, done]

theorem exec_dtbSetWrite {s : State} {w : Nat} (ha : Admin s w) (v : DWord) :
    exec (.dtbSetWrite w v) s =
      .next (finish s (if follows s then s else { s.wq2 A.dtbSet v with tim := { s.tim with set := some v } })) := by
  change execDtbSetWrite w v s = _
  rw [execDtbSetWrite, adminWrite_of_admin ha, done]

/-! Fields. -/

theorem fs_modFs_ne (s : State) {f g : Nat} (h : FieldSt → FieldSt) (n : g ≠ f) : (s.modFs f h).fs g = s.fs g :=
  tgetD_tset_ne _ _ _ n

theorem fs_congr {s t : State} (h : t.yoke = s.yoke) (f : Nat) : t.fs f = s.fs f := by unfold State.fs; rw [h]

theorem fieldOn_congr {s t : State} (h : t.b2 = s.b2) (f : Nat) : fieldOn t f = fieldOn s f := by
  unfold fieldOn
  rw [r2_congr h]

/-- ENABLE of a Field as FLD_CTRL has it (R217). -/
theorem fieldOn_put2_same (s : State) (f v : Nat) : fieldOn (s.put2 (A.fld f) 0 1 v) f = decide (v % 2 = 1) := by
  unfold fieldOn
  rw [r2_put2_same, bit_putFld_same _ _ (by decide)]

theorem fieldOn_put2_ne (s : State) {f g : Nat} (v : Nat) (n : g ≠ f) : fieldOn (s.put2 (A.fld f) 0 1 v) g = fieldOn s g := by
  unfold fieldOn
  rw [r2_put2_ne _ _ _ _ (by simp only [A.fld]; omega)]

/-- What the writes of FLD_CTRL leave: all but the registers and the Fields' states. -/
theorem fieldWrite_kept (s : State) (f v : Nat) (g : FieldSt → FieldSt) :
    SameParts { s with yoke := ((s.put2 (A.fld f) 0 1 v).modFs f g).yoke } ((s.put2 (A.fld f) 0 1 v).modFs f g) ∧
      ((s.put2 (A.fld f) 0 1 v).modFs f g).job = s.job := by
  simp [SameParts]

theorem exec_fieldEnable {s : State} {w f : Nat} (ha : Admin s w) (hf : f < 8) :
    exec (.fieldEnable w f) s = .next (finish s (fieldEnable s f)) := by
  change execFieldEnable w f s = _
  rw [execFieldEnable, adminWrite_of_admin ha, if_pos hf, done]

theorem exec_fieldDisable {s : State} {w f : Nat} (ha : Admin s w) (hf : f < 8) :
    exec (.fieldDisable w f) s = .next (finish s (fieldDisable s f)) := by
  change execFieldDisable w f s = _
  rw [execFieldDisable, adminWrite_of_admin ha, if_pos hf, done]

/-- ENABLE of a Field clears while another is enabled, and it drains (R39, R217). -/
theorem fieldDisable_of_other {s : State} {f g : Nat} (hg : g < 8) (hne : g ≠ f) (hf : fieldOn s f = true)
    (ho : fieldOn s g = true) :
    fieldDisable s f = (s.put2 (A.fld f) 0 1 0).modFs f fun x => { x with draining := true } := by
  have hother : ((List.range 8).any fun j => j ≠ f && fieldOn s j) = true :=
    List.any_eq_true.2 ⟨g, List.mem_range.2 hg, by simp [hne, ho]⟩
  unfold fieldDisable
  simp only [hf, hother, Bool.and_self, if_true]

/-- The last enabled Field stays enabled (R217). -/
theorem fieldDisable_last {s : State} {f : Nat} (h : ∀ g, g < 8 → g ≠ f → fieldOn s g = false) : fieldDisable s f = s := by
  have hother : ((List.range 8).any fun j => j ≠ f && fieldOn s j) = false :=
    List.any_eq_false.2 fun j hj => by
      by_cases hne : j = f
      · simp [hne]
      · simp [h j (List.mem_range.1 hj) hne]
  unfold fieldDisable
  simp only [hother, Bool.and_false, Bool.false_eq_true, if_false]

/-- The Field as its drain leaves it: in FS4 (R218). -/
def drainedField (x : FieldSt) : FieldSt :=
  { x with draining := false, fs := 4, waking := false, pllStop := x.clk ≠ 0 }

/-- A draining Field without pictures, busy contexts and grants ends its drain with DRAIN_DONE (R39, R218). -/
theorem exec_fieldDrainDone {s : State} {f : Nat} (hf : f < 8) (hd : (s.fs f).draining = true)
    (hp : fieldPictures s f = false) (hb : drillBusy s f = false) (hg : fieldGranted s f = false) :
    exec (.fieldDrainDone f) s =
      .next (finish s (devEvent (s.modFs f drainedField) (A.fldEvent f) 0 (1335 + f))) := by
  change execFieldDrainDone f s = _
  unfold execFieldDrainDone
  simp only [hf, hd, hp, hb, hg, decide_true, Bool.not_false, Bool.and_self, if_true]
  rfl

/-- The bit of an event register that an event sets. -/
theorem bit_r2_devEvent (s : State) (a n : Nat) {b : Nat} (hb : b < 32) : bit ((devEvent s a b n).r2 a) b = true := by
  unfold devEvent
  rw [r2_congr (fire_b2 ..), r2_or2_same]
  simp only [bit, w32, BitVec.getLsbD_or, BitVec.getLsbD_ofNat, hb, decide_true, Nat.testBit_two_pow_self, Bool.and_self,
    Bool.or_true]

/-- A device event touches registers and its interrupt source alone. -/
theorem devEvent_kept (s : State) (a b n : Nat) :
    (devEvent s a b n).yoke = s.yoke ∧ (devEvent s a b n).job = s.job ∧ (devEvent s a b n).vid = s.vid := by
  simp [devEvent]

/-! The tick of a mux with one member. -/

/-- The entry of a mux's member at a tick. -/
def muxEntry (s : State) (c : Nat) (y : Chan) : MuxIn :=
  { chan := c, w := y.par_ 0x10D * (muxWindow s y).1, lo := y.par_ 0x10E, hi := y.blk.maxrate, rate := none }

/-- A member with a picture to budget shares by its weight (R278). -/
theorem muxMember_of_behind {s : State} {c : Nat} {y : Chan} (h : (behindOf y (lookOf s y) []).isEmpty = false) :
    muxMember s c y = (muxEntry s c y,
      { y with rc := { y.rc with muxW := y.par_ 0x10D * (muxWindow s y).1, muxIdle := 0 } }) := by
  unfold muxMember
  simp only [h, Bool.false_eq_true, if_false]
  rfl

/-- The only member's share is the whole of what is left, whatever its weight. -/
theorem muxShare_single (left w : Nat) : muxShare left w 1 w = left := by
  unfold muxShare
  split
  · exact Nat.div_one left
  · rename_i h
    exact Nat.mul_div_cancel left (Nat.pos_of_ne_zero h)

/-- Once its only member is clamped, a round changes nothing. -/
theorem muxRounds_clamped (avail fuel : Nat) {m : MuxIn} {v : Nat} (h : m.rate = some v) :
    muxRounds avail [m] fuel = [m] := by
  cases fuel with
  | zero => rfl
  | succ n =>
    unfold muxRounds
    simp [h]

/-- An entry clamped to its own limits when the rate available lies outside them (R278). -/
def clampEntry (avail : Nat) (m : MuxIn) : MuxIn :=
  if avail < m.lo then { m with rate := some m.lo } else if m.hi < avail then { m with rate := some m.hi } else m

theorem clampEntry_eq_or_clamped (avail : Nat) (m : MuxIn) :
    clampEntry avail m = m ∨ ∃ v, (clampEntry avail m).rate = some v := by
  unfold clampEntry
  split
  · exact .inr ⟨_, rfl⟩
  · split
    · exact .inr ⟨_, rfl⟩
    · exact .inl rfl

/-- The first round clamps the only member, and there is nobody to share with again (R278). -/
theorem muxRounds_single (avail fuel : Nat) {m : MuxIn} (hm : m.rate = none) :
    muxRounds avail [m] (fuel + 1) = [clampEntry avail m] := by
  have hfree : [m].filter (fun q => q.rate.isNone) = [m] := by simp [hm]
  have hround : muxRounds avail [m] (fuel + 1) =
      if [clampEntry avail m] = [m] then [m] else muxRounds avail [clampEntry avail m] fuel := by
    unfold clampEntry
    rw [muxRounds]
    simp only [hfree, List.foldl_cons, List.foldl_nil, List.map_cons, List.map_nil, List.length_singleton, hm,
      Option.getD_none, Nat.zero_add, Nat.add_zero, Nat.sub_zero, muxShare_single]
  rw [hround]
  rcases clampEntry_eq_or_clamped avail m with h | ⟨v, hv⟩
  · rw [h, if_pos rfl]
  · have hne : [clampEntry avail m] ≠ [m] := fun h => by
      rw [List.singleton_inj.1 h, hm] at hv
      cases hv
    rw [if_neg hne, muxRounds_clamped _ _ hv]

/-- The only member gets the rate available, within its own limits (R278). -/
theorem muxRates_single (avail : Nat) {m : MuxIn} (hm : m.rate = none) (hl : m.lo ≤ m.hi) :
    muxRates avail [m] = [(m.chan, max m.lo (min m.hi avail))] := by
  unfold muxRates
  rw [muxRounds_single avail 31 hm]
  unfold clampEntry
  split
  · rename_i hlo
    simp [Nat.max_eq_left (Nat.le_trans (Nat.min_le_right ..) (Nat.le_of_lt hlo))]
  · rename_i hlo
    have hlo : m.lo ≤ avail := Nat.le_of_not_lt hlo
    split
    · rename_i hhi
      simp [Nat.min_eq_left (Nat.le_of_lt hhi), Nat.max_eq_right hl]
    · have hc : clampN m.lo m.hi avail = max m.lo (min m.hi avail) := by
        change min m.hi (max m.lo avail) = max m.lo (min m.hi avail)
        omega
      simp [hm, muxShare_single, hc]

/-- The state after the tick of a mux whose only member gets `r`. -/
def muxTicked (s : State) (m c : Nat) (g : Mux) (y : Chan) (r : Nat) : State :=
  ((((s.setChan c { y with rc := { y.rc with muxW := y.par_ 0x10D * (muxWindow s y).1, muxIdle := 0 } }).modChan c fun y =>
    { y with rc := { y.rc with muxRate := some r } }).wch c B.rcRate (w32 r)).setMux m
      { g with rate := g.next.getD g.rate, next := none, active := [c], ticks := g.ticks + 1 })

/-- The member as the tick leaves it: its rate, and its weight for ticks that find no picture of it (R278, R279). -/
def tickedMember (s : State) (y : Chan) (r : Nat) : Chan :=
  { y with rc := { y.rc with muxW := y.par_ 0x10D * (muxWindow s y).1, muxIdle := 0, muxRate := some r } }

theorem chan_muxTicked_same (s : State) (m c : Nat) (g : Mux) (y : Chan) (r : Nat) :
    (muxTicked s m c g y r).chan c = some (tickedMember s y r) := by
  change State.chan (State.modChan _ c _) c = _
  rw [chan_modChan_same, chan_setChan_same]
  rfl

theorem chan_muxTicked_ne (s : State) (m : Nat) {c d : Nat} (g : Mux) (y : Chan) (r : Nat) (hd : d ≠ c) :
    (muxTicked s m c g y r).chan d = s.chan d :=
  (chan_modChan_ne _ _ hd).trans (chan_setChan_ne _ _ hd)

theorem rch_muxTicked (s : State) (m c : Nat) (g : Mux) (y : Chan) (r : Nat) :
    (muxTicked s m c g y r).rch c B.rcRate = BitVec.ofNat 32 r :=
  (rch_congr (setMux_bc ..) c B.rcRate).trans (rch_wch_same ..)

theorem mux_muxTicked (s : State) (m c : Nat) (g : Mux) (y : Chan) (r : Nat) :
    tget (muxTicked s m c g y r).vid.mux m =
      some { g with rate := g.next.getD g.rate, next := none, active := [c], ticks := g.ticks + 1 } :=
  tget_tset_same ..

/-- A tick touches channels, muxes and the channel's registers alone. -/
theorem muxTicked_kept (s : State) (m c : Nat) (g : Mux) (y : Chan) (r : Nat) :
    (muxTicked s m c g y r).job = s.job ∧
      SameParts (s.setVid (muxTicked s m c g y r).vid) (muxTicked s m c g y r) := by
  simp [muxTicked, SameParts]

/-- MUX_RATE_TICK of a mux with one member that has a picture to budget (R278). -/
theorem exec_muxRateTick_single {s : State} {m c : Nat} {g : Mux} {y : Chan} (hg : tget s.vid.mux m = some g)
    (hm : g.members = [c]) (hc : s.chan c = some y) (hb : (behindOf y (lookOf s y) []).isEmpty = false)
    (hl : y.par_ 0x10E ≤ y.blk.maxrate) :
    exec (.muxRateTick m) s = .next (muxTicked s m c g y (max (y.par_ 0x10E) (min y.blk.maxrate
      (muxAvail { g with rate := g.next.getD g.rate } y.blk.num y.blk.den (y.par_ 0x10A) (muxWindow s y).2)))) := by
  have hn : maxL [(muxWindow s y).2] = (muxWindow s y).2 := Nat.zero_max ..
  change execMuxRateTick m s = _
  unfold execMuxRateTick muxTicked
  simp only [hg, hm, List.head?_cons, Option.bind_some, hc, List.map_cons, List.map_nil, hn, List.foldl_cons, List.foldl_nil,
    insNat, muxMember_of_behind hb, List.nil_append, muxRates_single _ (m := muxEntry s c y) rfl hl]
  rfl

/-- Settles O45: the writes of the time base go through or are ignored, a Field's ENABLE and drain, and the only member of a
mux. -/
theorem timeFieldsTicks : Obligations.TimeFieldsTicks := by
  intro s w
  refine ⟨fun ha => ⟨fun hfo v d => ?_, fun hfo v d => ?_⟩, fun f ha hf => ⟨?_, fun g hg hne hon hother => ?_, fun hlast => ?_⟩,
    fun f hf hd hp hb hg => ?_, fun m g c y hg hm hc hb hl => ?_⟩
  · rw [exec_dtbStepWrite ha, exec_dtbSetWrite ha, hfo]
    exact ⟨rfl, _, rfl, rfl, q2_wq2_same .., rfl⟩
  · rw [exec_dtbStepWrite ha, exec_dtbSetWrite ha, hfo]
    exact ⟨rfl, rfl⟩
  · rw [exec_fieldEnable ha hf]
    exact ⟨_, rfl, fieldOn_put2_same s f 1, by rw [fieldEnable, fs_modFs_same], fun g hne => fs_modFs_ne _ _ hne,
      fieldWrite_kept ..⟩
  · rw [exec_fieldDisable ha hf, fieldDisable_of_other hg hne hon hother]
    exact ⟨_, rfl, fieldOn_put2_same s f 0, by rw [fs_modFs_same], (fieldOn_put2_ne s 0 hne).trans hother,
      fieldWrite_kept ..⟩
  · rw [exec_fieldDisable ha hf, fieldDisable_last hlast]
  · obtain ⟨hyoke, hjob, hvid⟩ := devEvent_kept (s.modFs f drainedField) (A.fldEvent f) 0 (1335 + f)
    have hfs : (devEvent (s.modFs f drainedField) (A.fldEvent f) 0 (1335 + f)).fs f = drainedField (s.fs f) :=
      (fs_congr hyoke f).trans (fs_modFs_same ..)
    exact ⟨_, exec_fieldDrainDone hf hd hp hb hg, by rw [hfs]; rfl, by rw [hfs]; rfl, bit_r2_devEvent _ _ _ (by decide),
      fun g hne => (fs_congr hyoke g).trans (fs_modFs_ne _ _ hne), hjob, hvid⟩
  · exact ⟨_, _, exec_muxRateTick_single hg hm hc hb hl, chan_muxTicked_same .., rfl, rfl, rch_muxTicked ..,
      fun d hd => chan_muxTicked_ne _ _ _ _ _ hd, mux_muxTicked .., muxTicked_kept ..⟩

end Sys2Proof.Machine
end

section
/-! PROOFS. The commands of the Fault Collector, and CHN_LAT_CLR (O44). -/

namespace Sys2Proof.Machine

/-! The severity of a source. -/

theorem sevOf_bankSet_same (s : State) (n k : Nat) :
    sevOf (s.setFlt { s.flt with sev := bankSet s.flt.sev sevDflt n k }) n = k := bankGet_bankSet_same ..

theorem sevOf_bankSet_ne (s : State) {n m : Nat} (k : Nat) (h : m ≠ n) :
    sevOf (s.setFlt { s.flt with sev := bankSet s.flt.sev sevDflt n k }) m = sevOf s m := bankGet_bankSet_ne _ _ _ h

/-- A source that is neither FIXED nor reserved takes a severity up to 4 (R432). -/
theorem exec_fcSevWrite_taken {s : State} {w n : Nat} {v : Word} (ha : Admin s w) (hn : n < 29) (hr : n ≠ 15)
    (hf : sevFixed n = false) (hv : v.toNat % 8 ≤ 4) :
    exec (.fcSevWrite w n v) s =
      .next (finish s (s.setFlt { s.flt with sev := bankSet s.flt.sev sevDflt n (v.toNat % 8) })) := by
  change execFcSevWrite w n v s = _
  have hrange : ¬ 64 ≤ n := by omega
  have hres : fltReserved n = false := by simp [fltReserved, hr, hn]
  have hlow : fld v 0 3 = v.toNat % 8 := rfl
  simp [execFcSevWrite, adminWrite_of_admin ha, done, hlow, hrange, hf, hres, Nat.not_lt.2 hv]

/-- A FIXED or reserved source, or a severity above 4, is ignored (R432). -/
theorem exec_fcSevWrite_ignored {s : State} {w n : Nat} {v : Word} (ha : Admin s w)
    (h : sevFixed n = true ∨ n = 15 ∨ 29 ≤ n ∨ 4 < v.toNat % 8) :
    exec (.fcSevWrite w n v) s = .next (finish s s) := by
  change execFcSevWrite w n v s = _
  have hlow : fld v 0 3 = v.toNat % 8 := rfl
  have hguard : (decide (64 ≤ n) || sevFixed n || fltReserved n || decide (4 < fld v 0 3)) = true := by
    rw [hlow, fltReserved]
    rcases h with h | h | h | h <;> simp [h]
  rw [execFcSevWrite, adminWrite_of_admin ha, done]
  simp only [hguard, if_true]

/-! The status bits. -/

/-- The word of one bit names that bit alone. -/
theorem filter_range_bit_two_pow {i : Nat} (hi : i < 32) :
    (List.range 32).filter (bit (BitVec.ofNat 32 (2 ^ i))) = [i] := by
  revert i
  decide

/-- A word of one bit clears one status bit. -/
theorem exec_fcStatusClear_one {s : State} {w n : Nat} (ha : Admin s w) (hn : n < 64) :
    exec (.fcStatusClear w (n / 32) (BitVec.ofNat 32 (2 ^ (n % 32)))) s = .next (finish s (clearStatus s n)) := by
  change execFcStatusClear _ _ _ s = _
  rw [execFcStatusClear, adminWrite_of_admin ha, if_neg (by omega), ← List.foldl_filter,
    filter_range_bit_two_pow (Nat.mod_lt _ (by decide)), List.foldl_cons, List.foldl_nil, Nat.div_add_mod, done]

/-- The clear is refused and counted while a LEVEL cause persists (R436). -/
theorem clearStatus_refused {s : State} {n : Nat} (hs : thas s.flt.status n = true) (hl : levelSrc n = true)
    (hc : n ∈ s.flt.cause) : clearStatus s n = s.cnt2 A.fcClrRefused 0 31 := by
  simp [clearStatus, hs, hl, hc]

/-- Otherwise the bit goes (R436). -/
theorem clearStatus_taken {s : State} {n : Nat} (hs : thas s.flt.status n = true)
    (h : levelSrc n = false ∨ n ∉ s.flt.cause) :
    clearStatus s n = s.setFlt { s.flt with status := tdel s.flt.status n } := by
  rcases h with h | h <;> simp [clearStatus, hs, h]

theorem thas_tdel_same {α : Type} (t : Tab α) (n : Nat) : thas (tdel t n) n = false := by simp [thas]

/-! THRESHOLD. -/

theorem exec_fcThresholdWrite {s : State} {w : Nat} (ha : Admin s w) (v : Word) :
    exec (.fcThresholdWrite w v) s = .next (finish s (s.put2 A.fcCtrl 0 3 (fld v 0 3))) := by
  change execFcThresholdWrite w v s = _
  rw [execFcThresholdWrite, adminWrite_of_admin ha, done]

/-! RESUME. -/

/-- RESUME is accepted in the safe state, with SELF 0 and no status bit of SEV4, and never otherwise (R438). -/
theorem resumeOk_iff {s : State} :
    resumeOk s = true ↔ s.flt.safe = true ∧ s.flt.self = false ∧ ∀ p ∈ s.flt.status, p.2 < 4 := by
  simp only [resumeOk, Bool.and_eq_true, Bool.not_eq_true', List.all_eq_true, decide_eq_true_eq, and_assoc]

theorem exec_fcResume {s : State} {w : Nat} (ha : Admin s w) :
    exec (.fcResume w) s = .next (finish s (if resumeOk s then leaveSafe s else s.cnt2 A.fcClrRefused 0 31)) := by
  change execFcResume w s = _
  rw [execFcResume, adminWrite_of_admin ha, resume, done]

/-- A Field as RESUME restarts it: in FS4 (R438). -/
def restartedField (x : FieldSt) : FieldSt := { x with fs := 4, waking := false, clk := 0, pllStop := false }

/-- Every Field restarts. -/
def restartFields (s : State) : State := (List.range 8).foldl (fun t f => t.modFs f restartedField) s

/-- A Field of the list ends as the change leaves it, however often it comes. -/
theorem fs_foldl_modFs {P : FieldSt → Prop} {g : FieldSt → FieldSt} (hg : ∀ x, P (g x)) {f : Nat} {l : List Nat}
    (s : State) (h : f ∈ l ∨ P (s.fs f)) : P ((l.foldl (fun t j => t.modFs j g) s).fs f) := by
  induction l generalizing s with
  | nil => exact h.resolve_left List.not_mem_nil
  | cons j l ih =>
    refine ih (s.modFs j g) ?_
    by_cases hj : f = j
    · subst hj
      exact .inr (by rw [fs_modFs_same]; exact hg _)
    · rw [fs_modFs_ne _ _ hj]
      exact h.imp_left fun hmem => (List.mem_cons.1 hmem).resolve_left hj

theorem fs_restartFields (s : State) {f : Nat} (hf : f < 8) :
    ((restartFields s).fs f).fs = 4 ∧ ((restartFields s).fs f).waking = false :=
  fs_foldl_modFs (P := fun x => x.fs = 4 ∧ x.waking = false) (g := restartedField) (fun _ => ⟨rfl, rfl⟩) s
    (.inl (List.mem_range.2 hf))

/-- Changes of Fields touch the Yoke's part of the state alone. -/
theorem foldl_modFs_kept (g : FieldSt → FieldSt) (l : List Nat) (s : State) :
    l.foldl (fun t f => t.modFs f g) s = { s with yoke := (l.foldl (fun t f => t.modFs f g) s).yoke } := by
  induction l generalizing s with
  | nil => rfl
  | cons f l ih => exact ih (s.modFs f g)

theorem restartFields_kept (s : State) : restartFields s = { s with yoke := (restartFields s).yoke } :=
  foldl_modFs_kept ..

/-- Every ACTIVE holding is torn down as by a Function Level Reset. -/
def teardownActive (s : State) : State :=
  s.hold.foldl (fun t p => if p.2.st == .active then teardownStart t p.1 .flr else t) s

/-- The pictures of every RESETTING holding are discarded. -/
def discardPictures (s : State) : State :=
  s.hold.foldl (fun t p => if p.2.st == .resetting then cutPictures t p.1 else t) s

theorem leaveSafe_eq (s : State) :
    leaveSafe s =
      discardPictures (teardownActive ((restartFields s).setFlt { (restartFields s).flt with safe := false })) := rfl

/-- A walk of a list none of whose entries the test takes changes nothing. -/
theorem foldl_ite_of_forall_eq_false {α β : Type} {p : α → Bool} {g : β → α → β} {l : List α}
    (h : ∀ x ∈ l, p x = false) (b : β) : l.foldl (fun t x => if p x then g t x else t) b = b := by
  rw [← List.foldl_filter, List.filter_eq_nil_iff.2 fun x hx => by simp [h x hx], List.foldl_nil]

theorem teardownActive_of_none {s : State} (h : ∀ p ∈ s.hold, p.2.st ≠ .active) : teardownActive s = s :=
  foldl_ite_of_forall_eq_false (fun p hp => beq_eq_false_iff_ne.2 (h p hp)) s

theorem discardPictures_of_none {s : State} (h : ∀ p ∈ s.hold, p.2.st ≠ .resetting) : discardPictures s = s :=
  foldl_ite_of_forall_eq_false (fun p hp => beq_eq_false_iff_ne.2 (h p hp)) s

/-- Without a holding to tear down or being torn down, the end of the safe state restarts the Fields and no more (R438). -/
theorem leaveSafe_of_idle {s : State} (h : ∀ p ∈ s.hold, p.2.st ≠ .active ∧ p.2.st ≠ .resetting) :
    leaveSafe s = (restartFields s).setFlt { s.flt with safe := false } := by
  have hhold : (restartFields s).hold = s.hold := by rw [restartFields_kept]
  have hflt : (restartFields s).flt = s.flt := by rw [restartFields_kept]
  rw [leaveSafe_eq, teardownActive_of_none, discardPictures_of_none, hflt]
  · rw [setFlt_hold, hhold]
    exact fun p hp => (h p hp).2
  · rw [setFlt_hold, hhold]
    exact fun p hp => (h p hp).1

/-! The first-fault area. -/

theorem exec_fcFfClear {s : State} {w : Nat} (ha : Admin s w) : exec (.fcFfClear w) s = .next (finish s (ffClear s)) := by
  change execFcFfClear w s = _
  rw [execFcFfClear, adminWrite_of_admin ha, done]

/-- What a table reads where a test of the key has kept entries. -/
theorem tget_tfilter_key {α : Type} (t : Tab α) (p : Nat → Bool) (k : Nat) :
    tget (tfilter t fun j _ => p j) k = if p k then tget t k else none := by
  induction t with
  | nil => simp [tfilter, tget]
  | cons e t ih =>
    obtain ⟨j, x⟩ := e
    simp only [tfilter] at ih ⊢
    by_cases hjk : j = k
    · subst hjk
      by_cases hp : p j = true
      · simp [hp, tget]
      · simp [hp, ih]
    · by_cases hp : p j = true
      · simp [hp, tget, hjk, ih]
      · simp [hp, tget, hjk, ih]

/-- The clear empties the entries below 32 and leaves the rolling area (R440). -/
theorem log_ffClear (s : State) (k : Nat) : tget (ffClear s).flt.log k = if k < 32 then none else tget s.flt.log k := by
  have hkept : tget (ffClear s).flt.log k = if decide (32 ≤ k) then tget s.flt.log k else none :=
    tget_tfilter_key s.flt.log (fun j => decide (32 ≤ j)) k
  rw [hkept]
  by_cases hk : k < 32
  · rw [if_pos hk, decide_eq_false (Nat.not_le.2 hk), if_neg Bool.false_ne_true]
  · rw [if_neg hk, decide_eq_true (Nat.not_lt.1 hk), if_pos rfl]

/-! The Collector's own fault. -/

theorem mem_insNat_self (l : List Nat) (n : Nat) : n ∈ insNat l n := by
  induction l with
  | nil => simp [insNat]
  | cons k l ih =>
    unfold insNat
    split
    · exact List.mem_cons_self
    · split
      · next h => simp [h]
      · exact List.mem_cons_of_mem _ ih

/-! CHN_LAT_CLR. -/

/-- A write of CHN_LAT_CLR clears CHN_LAT_MAX of the function's own channel (R449). -/
theorem exec_chnLatClr_own {s : State} {h : Nat} {x : Chan} (hon : fnOn s h = true)
    (hc : s.chan (fld (s.r0 h B.chnSel) 0 8) = some x) (hx : x.hold = h) :
    exec (.chnLatClr h) s = .next (s.wch (fld (s.r0 h B.chnSel) 0 8) B.latMax 0) := by
  change execChnLatClr h s = _
  have hown : ownChan s h = some (fld (s.r0 h B.chnSel) 0 8) := by simp [ownChan, hc, hx]
  simp [execChnLatClr, hon, hown]

/-! The commands together. -/

theorem fcResume_idle {s : State} {w : Nat} (ha : Admin s w) (hok : resumeOk s = true)
    (hidle : ∀ p ∈ s.hold, p.2.st ≠ .active ∧ p.2.st ≠ .resetting) :
    ∃ u, exec (.fcResume w) s = .next (finish s u) ∧ u.flt = { s.flt with safe := false } ∧
      (∀ f, f < 8 → (u.fs f).fs = 4 ∧ (u.fs f).waking = false) ∧ u.hold = s.hold ∧ u.job = s.job ∧ u.vid = s.vid := by
  refine ⟨(restartFields s).setFlt { s.flt with safe := false }, by rw [exec_fcResume ha, if_pos hok, leaveSafe_of_idle hidle],
    rfl, fun f hf => fs_restartFields s hf, ?_⟩
  rw [restartFields_kept]
  exact ⟨rfl, rfl, rfl⟩

/-- Settles O44: a FIXED or reserved source keeps its severity, a persisting LEVEL cause its status bit, the safe state goes
only without SEV4 and SELF, and each command touches its own part of the Collector. -/
theorem faultRegisters : Obligations.FaultRegisters := by
  refine ⟨fun s w n v ha => ⟨fun hn hr hf hv => ?_, exec_fcSevWrite_ignored ha, fun hn hs => ⟨fun hl hc => ?_, fun h => ?_⟩,
    ?_, fun hsafe hself hsev hidle => ?_, fun h => ?_, ?_⟩, fun s => ?_, fun s h c x hon hsel hc hx => ?_⟩
  · exact ⟨_, exec_fcSevWrite_taken ha hn hr hf hv, sevOf_bankSet_same .., fun m hm => sevOf_bankSet_ne _ _ hm, rfl⟩
  · rw [exec_fcStatusClear_one ha hn, clearStatus_refused hs hl hc]
  · rw [exec_fcStatusClear_one ha hn, clearStatus_taken hs h]
    exact ⟨_, rfl, thas_tdel_same .., fun m hm => tget_tdel_ne _ hm, rfl⟩
  · exact ⟨_, exec_fcThresholdWrite ha v, by rw [r2_put2_same, fld_putFld_same _ _ (by decide)]; exact Nat.mod_mod ..,
      fun a hne => r2_put2_ne _ _ _ _ hne, rfl⟩
  · exact fcResume_idle ha (resumeOk_iff.2 ⟨hsafe, hself, hsev⟩) hidle
  · have hno : ¬ resumeOk s = true := by
      rw [resumeOk_iff]
      rintro ⟨hsafe, hself, hsev⟩
      rcases h with h | h | ⟨p, hp, h⟩
      · simp [h] at hsafe
      · simp [h] at hself
      · exact absurd (hsev p hp) (Nat.not_lt.2 h)
    rw [exec_fcResume ha, if_neg hno]
  · exact ⟨_, exec_fcFfClear ha, rfl, log_ffClear s, rfl⟩
  · exact ⟨_, rfl, rfl, rfl, mem_insNat_self .., rfl, rfl⟩
  · subst hsel
    exact exec_chnLatClr_own hon hc hx

end Sys2Proof.Machine
end
